-- ==== Sys2Proof/Word.lean ====
section
/-! DEFINITION. The word types of the model and their plainest names: bytes, registers of 64 bits, and the
index types of the units the module has (spec/00_scope.md R5, spec/01_device_organization.md R24, R28). -/

namespace Sys2Proof

/-- A byte. -/
abbrev Byte := BitVec 8
/-- A 32-bit word: a vector lane, an FP32 code, a handle. -/
abbrev W32 := BitVec 32
/-- A 64-bit word: a register, a scalar register, a word of an entry. -/
abbrev W64 := BitVec 64
/-- A string of bytes, lowest address first. -/
abbrev Bytes := List Byte

/-- Tensor clusters TC0–TC15. -/
abbrev Tc := Fin 16
/-- Partitions PT0–PT3. -/
abbrev Pt := Fin 4
/-- Constellation link ports LP0–LP17. -/
abbrev Lp := Fin 18
/-- HBM4 stacks HB0–HB7 with their memory controllers. -/
abbrev Hb := Fin 8
/-- Presses PS0–PS7, and 8 for the cellar press. -/
abbrev Ps := Fin 9
/-- Cellar ports CP0–CP3. -/
abbrev Cp := Fin 4

end Sys2Proof
end

