-- ==== Sys2Proof/Syntax.lean ====
section
/-! DEFINITION. The commands of the block: one constructor of `Instr` for each row of spec/opcode_table.json, with
the operands that the spec's encodings give it, or the facts that the event brings from outside the module. -/

namespace Sys2Proof

/-- A 64-byte submission entry (spec/14_host_registers.md R675): the eight 64-bit words as they stand in the ring. -/
structure Entry where
  w0 : W64
  w1 : W64
  w2 : W64
  w3 : W64
  w4 : W64
  w5 : W64
  w6 : W64
  w7 : W64
deriving DecidableEq, Repr

/-- A queue (R59, R670): the admin queue, a partition's control queue, or one of its data queues. -/
inductive QRef where
  | admin
  | ctrl (k : Pt)
  | data (k : Pt) (j : Fin 16)
deriving DecidableEq, Repr

/-- The three engines an SQ dispatches work items to (R52). -/
inductive Engine where
  | me
  | ve
  | mover
deriving DecidableEq, Repr

/-- A vector unit: the VE of a cluster, or a press, 8 being the cellar press (R331, R373). -/
inductive VUnit where
  | ve (c : Tc)
  | ps (p : Ps)
deriving DecidableEq, Repr

/-- The four 64-bit words of a matrix or VEXEC instruction (R165, R240). -/
structure MatWords where
  w0 : W64
  w1 : W64
  w2 : W64
  w3 : W64
deriving DecidableEq, Repr

/-- What the clocks did around an SQ dispatch: the compute clocks left before the boundary (R54), the clocks the array
lost to refused banks (R155) and to busy latches (R212). The model has no clock; the sender states them. -/
structure SqTime where
  clocksLeft  : Nat
  bankStalls  : Nat
  drainStalls : Nat
  pc          : Nat
deriving DecidableEq, Repr

/-- A read of the summary queue of a cluster by its SQ (R290), and the scratchpad address from which the SQ has fetched it (R513). -/
structure SumqIn where
  c  : Tc
  pc : Nat
deriving DecidableEq, Repr

/-- Who issues a SIGNAL (R74): a data command of a queue, or the SQ of a cluster. -/
inductive SigFrom where
  | queue (k : Pt) (j : Fin 16) (e : Entry)
  | sq (c : Tc) (pc : Nat) (obj : BitVec 14) (n : BitVec 16)
deriving DecidableEq, Repr

/-- The unit that an event comes from, for the order of the events of one clock (R761). -/
inductive Origin where
  | firmware
  | sc
  | gate
  | meridian
  | syncFile
  | tc (c : Tc)
  | hb (h : Hb)
  | press (h : Hb)
  | hostPort
  | mgmtPort
  | link (p : Lp)
  | cellarPort (p : Cp)
  | cc
  | gather (n : Fin 8)
deriving DecidableEq, Repr

/-- Who issues a WAIT (R76): a data command of a queue, or the SQ of a cluster. -/
inductive WaitFrom where
  | queue (k : Pt) (j : Fin 16) (e : Entry)
  | sq (c : Tc) (pc : Nat) (obj : BitVec 14) (n : BitVec 16) (timeout : BitVec 24) (tick : Bool)
deriving DecidableEq, Repr

/-- A SIGNAL that reaches the sync-object file in the clock of another event (R79, R80); `part` is none for a SIGNAL
of no partition (R72). -/
structure ClockSignal where
  part : Option Pt
  obj  : BitVec 14
  n    : BitVec 16
deriving DecidableEq, Repr

/-- The legal encoding of a VFCLR, and the flags that the unit sets in its clock, which stay (R17, R291). -/
structure ClearIn where
  instr : BitVec 56
  set   : BitVec 8
deriving DecidableEq, Repr

/-- A WAIT, and whether a further event reaches the sync-object file in the same clock (R79). -/
structure WaitIn where
  src  : WaitFrom
  more : Bool
deriving DecidableEq, Repr

/-- What else reaches the sync-object file in the clock in which a WAIT times out: SIGNALs (R79, R80), and whether further events. -/
structure ClockIn where
  signals : List ClockSignal
  more    : Bool
deriving DecidableEq, Repr

/-- The passes of a partition become ready; `more` says that passes of a further partition become ready in the same clock (R372). -/
structure PassIn where
  part : Pt
  more : Bool
deriving DecidableEq, Repr

/-- What a scrubber finds in a line (R419, R420, R423). -/
inductive ScrubFound where
  | clean
  | corrected
  | uncorrectable
deriving DecidableEq, Repr

/-- A flit as received with good CRC and tag (R433): its arrival port, the slot it arrives in, whether it lies within
the slot window of R446 and is the first flit of the slot, the three header words, the decrypted payload, and whether its number is the
one that a NAK has asked for (R436). -/
structure Flit where
  port     : Lp
  slot     : Fin 64
  inWindow : Bool
  first    : Bool
  h0       : W32
  h1       : W32
  seq      : W32
  payload  : Bytes
  again    : Bool
deriving DecidableEq, Repr

/-- A TREE_UP flit, and the largest depth in the child's subtree, which the tree reports beside the payload (R467). -/
structure TreeIn where
  flit : Flit
  deep : Byte
deriving DecidableEq, Repr

/-- A quench or fence command (R461): the QF flit, and the hop of its PATH that this device is, which the spec gives no
field for. -/
structure QfFrom where
  flit : Flit
  hop  : Nat
deriving DecidableEq, Repr

/-- One token of a TOKEN flit (R462). -/
structure Token where
  part     : Pt
  stream   : BitVec 16
  seqFirst : W32
  seqLast  : W32
  sendTick : BitVec 16
deriving DecidableEq, Repr

/-- A token as it takes effect, and whether a fence reaches its port in the same clock (R466). -/
structure TokenIn where
  token     : Token
  fencedToo : Bool
deriving DecidableEq, Repr

/-- HELLO (R480): the peer's identity, nonce and slot map. -/
structure HelloMsg where
  version   : Byte
  constId   : W32
  deviceId  : BitVec 16
  lcState   : Byte
  peerPort  : Byte
  nonce     : Bytes
  slotMap   : Bytes
deriving DecidableEq, Repr

/-- EVIDENCE (R480): SHA-384 of ROM, security firmware and device firmware, the ephemeral public key, and whether the
signature over the transcript verifies under the attestation key of the chain. -/
structure EvidenceMsg where
  romDigest : Bytes
  sfwDigest : Bytes
  dfwDigest : Bytes
  pubKey    : Bytes
  sig       : Bytes
  sigOk     : Bool
deriving DecidableEq, Repr

/-- A port whose lanes have locked, and the size of the peer's L2 receive buffer in KiB, which no message tells (R440). -/
structure LockIn where
  port   : Lp
  peerL2 : Nat
deriving DecidableEq, Repr

/-- A lane and its error statistics (R487): the consecutive ticks with an uncorrectable codeword in each, and the corrected symbols and the
codewords of the last 64 ticks. -/
structure LaneIn where
  lane      : Fin 8
  badTicks  : Nat
  corrected : Nat
  codewords : Nat
deriving DecidableEq, Repr

/-- When a TIME flit arrived, in ps after the boundary, and the preference of its lodestar, which a flit of a locked sender does not
carry (R460, R493). -/
structure TimeIn where
  rxPs : Nat
  pref : BitVec 2
deriving DecidableEq, Repr

/-- What the memory of an inserted plug reports (R758). -/
inductive PlugMem where
  | passiveCopper (cm : BitVec 16)
  | otherMedium (cm : BitVec 16)
  | noAnswer
deriving DecidableEq, Repr

/-- The transport and the source of an ODP request (R619, R626, R636). `secure` names the SPDM secure session. A request in an ODP flit
comes with the port on which it arrived and with HOPS and the completed PATH of its flit, on which the response goes back (R622, R623). -/
inductive OdpSrc where
  | mgmt (ip : W32) (udp : BitVec 16)
  | mgmtSpdm (secure : Nat)
  | mctp (eid : Byte)
  | mctpSpdm (secure : Nat)
  | link (src : BitVec 16) (via : Lp) (hops : Byte) (path : Bytes)
deriving DecidableEq, Repr

/-- What a test that is aborted has tested (R725, R729): how many targets, in its order, and their verdicts. -/
structure TestedIn where
  n      : Nat
  tcPass : BitVec 16
  ldPass : BitVec 30
deriving DecidableEq, Repr

/-- The frame of a TEST_ABORT, and what the test has tested. -/
structure AbortIn where
  frame  : Bytes
  tested : TestedIn
deriving DecidableEq, Repr

/-- The frame that writes a tick period, and whether another device of the constellation has a confidential partition (R47). -/
structure PeriodIn where
  frame         : Bytes
  confElsewhere : Bool
deriving DecidableEq, Repr

/-- SESSION_JOIN as it reaches the anchor (R519), with the verdict of its signature. -/
structure JoinMsg where
  src       : BitVec 16
  sessionId : Bytes
  pm        : Bytes
  pubKey    : Bytes
  sigOk     : Bool
deriving DecidableEq, Repr

/-- The anchor's answer as it reaches a joining device (R519): seed and party keys after decryption, none where the
decryption fails its tag. -/
structure JoinAnswerMsg where
  sessionId : Bytes
  plain     : Option (Bytes × List (Byte × Byte × Bytes))
deriving DecidableEq, Repr

/-- A signed firmware image presented for the flash in recovery (R602), with the verdict of its signature and whether that
is a test signature (R585). -/
structure ImageInfo where
  isSfw    : Bool
  svn      : Nat
  digest   : Bytes
  verifies : Bool
  test     : Bool
deriving DecidableEq, Repr

/-- An SPDM request (R516): the transport session it belongs to, the address it comes from (the IPv4 source address, or the MCTP
endpoint ID), its payload, and for the messages that verify something the verdict of that check (a signature of the requester's party
key, a MAC; of NEGOTIATE_ALGORITHMS, whether the algorithms of R516 are offered). -/
structure SpdmMsg where
  conn      : Nat
  overUdp   : Bool
  addr      : W32
  payload   : Bytes
  requester : Bytes
  verdict   : Bool
deriving DecidableEq, Repr

/-- A host write (R651, R653): function 0 is the PF and 1 to 4 are VF0 to VF3; the BAR (0 control, 2 doorbell), the
offset in it, the length in bytes, the data, and the bits that the device sets in the same clock (R17, R657). -/
structure Mmio where
  fn    : Fin 5
  bar   : Nat
  off   : Nat
  len   : Nat
  data  : W64
  hwSet : W64
deriving DecidableEq, Repr

/-- A host read (R653), with the events the device counts in the same clock (R17). -/
structure MmioRead where
  fn    : Fin 5
  bar   : Nat
  off   : Nat
  len   : Nat
  hwSet : W64
deriving DecidableEq, Repr

/-- Why the main rails switch off (R691, LAST_OFF_CAUSE of R705). -/
inductive OffCause where
  | undervoltage
  | overvoltage
  | regulator
deriving DecidableEq, Repr

/-- What the SC finds at a standby power-up (R591, R597, R738, R741): straps, whether LREF is present when stage 3 would
end, and, where the standby power is lost before stage 3 ends, the bits of a pending milestone word written by then. -/
structure BootIn where
  strapId   : BitVec 16
  strapLs   : BitVec 2
  strapPlca : BitVec 5
  lref      : Bool
  cut       : Option W32
deriving DecidableEq, Repr

/-- What stages 4 to 6 find (R31, R549, R597, R603, R742): the stacks that train, the cellar ports that train, whether the
rest of the cellar bring-up succeeds, and the attestation of the CC. -/
structure BringUpIn where
  stacksTrained : BitVec 8
  cpTrained     : BitVec 4
  cellarOk      : Bool
  ccAttested    : Bool
deriving DecidableEq, Repr

/-- What befell stored bits (R156, R419–R421, R530, R533): an error in a line of a stack or of the cellar (unit 8), or in a 64-bit
word of a scratchpad, correctable or not; and the ciphertext of a line, or a block or node of a counter tree, changed by someone
outside the device. -/
inductive CellError where
  | line (m : Ps) (line : Nat) (uncorrectable : Bool)
  | word (c : Tc) (word : Nat) (uncorrectable : Bool)
  | forged (m : Ps) (line : Nat)
  | forgedNode (m : Ps) (node : Nat)
deriving DecidableEq, Repr

/-- What the device measures over the tick that a boundary ends (R48, R687, R695, R696, R698, R702, R705, R706, R756), and the errors that struck its memories in it. -/
structure BoundaryIn where
  clocks      : W32
  meanVolts   : W32
  meanAmps    : W32
  meanWatts   : W32
  hotDie      : W32
  hotHbm      : W32
  minMarginPs : Nat
  voutCovers  : Bool
  partWatts   : Vector (BitVec 16) 4
  lugShare    : Byte
  railStatus  : Bytes
  preFec      : Vector W32 18
  cellErrors  : List CellError
deriving DecidableEq, Repr

/-- The end of a MOVE: in the clock of its deadline (R416), and with an internal error that the CC reports (R417). -/
structure MoveIn where
  inDeadlineClock : Bool
  ccError         : Bool
deriving DecidableEq, Repr

/-- A PRESS_LOAD, and how its read of the cellar ends: not on time (R415), or with an internal error that the CC reports (R417). -/
structure LoadIn where
  e       : Entry
  late    : Bool
  ccError : Bool
deriving DecidableEq, Repr

/-- A page that has come from the cellar, and whether the CC reports an internal error for it (R417). -/
structure RefillIn where
  page    : Nat
  ccError : Bool
deriving DecidableEq, Repr

/-- The CACHE_FILL, by its tag, that ends, and the page reads of an EAGER one that did not end on time (R415–R417): late, completed in
the clock of their deadline, and those for which the CC reported an internal error. -/
structure FillIn where
  tag    : BitVec 16
  late   : List Nat
  coinc  : List Nat
  failed : List Nat
deriving DecidableEq, Repr

/-- The port on which a flit fails its CRC: a link port, or a cellar port, with whether the flit is the one that failed last on it
(R414, R436). -/
inductive FlitPort where
  | link (p : Lp)
  | cellar (p : Cp) (again : Bool)
deriving DecidableEq, Repr

/-- The commands, one constructor for each row of spec/opcode_table.json, in the table's order. -/
inductive Instr where
  /-- TICK_BOUNDARY (R50). -/
  | tickBoundary (b : BoundaryIn)
  /-- WORK_ITEM_DISPATCH (R54). -/
  | workItemDispatch (c : Tc) (t : SqTime)
  /-- BUDGET_OVERRUN (R57). -/
  | budgetOverrun (c : Tc) (eng : Engine)
  /-- PART_CREATE (R678). -/
  | partCreate (e : Entry) (record : Bytes)
  /-- PART_DESTROY (R679). -/
  | partDestroy (e : Entry)
  /-- PART_DESTROY_COMPLETE (R679), with the entries that stand unfetched in the partition's rings. -/
  | partDestroyComplete (k : Pt) (rings : List (QRef × Entry))
  /-- CREATE (R63). -/
  | create (k : Pt) (e : Entry) (object : Bytes)
  /-- DESTROY (R69). -/
  | destroy (k : Pt) (e : Entry)
  /-- DESTROY_COMPLETE (R69). -/
  | destroyComplete (handle : W32)
  /-- SEQ_CTX_WRITE (R189). -/
  | seqCtxWrite (k : Pt) (e : Entry) (ctx : Bytes)
  /-- MEM_ALLOC (R394). -/
  | memAlloc (k : Pt) (e : Entry)
  /-- MEM_ALLOC_COMPLETE (R395). -/
  | memAllocComplete (k : Pt) (tag : BitVec 16)
  /-- MEM_SEAL (R396). -/
  | memSeal (k : Pt) (e : Entry)
  /-- MEM_FREE (R395). -/
  | memFree (k : Pt) (e : Entry)
  /-- CELLAR_COPY (R399). -/
  | cellarCopy (k : Pt) (e : Entry)
  /-- CACHE_FILL (R394). -/
  | cacheFill (k : Pt) (e : Entry)
  /-- CACHE_DROP (R394). -/
  | cacheDrop (k : Pt) (e : Entry)
  /-- CACHE_PAGE_REFILL (R400). -/
  | cachePageRefill (k : Pt) (obj : Nat) (r : RefillIn)
  /-- PRESS_LOAD (R334). -/
  | pressLoad (k : Pt) (e : LoadIn)
  /-- KEY_NEW (R579). -/
  | keyNew (k : Pt) (e : Entry) (parentDies : Bool)
  /-- KEY_DESTROY (R580). -/
  | keyDestroy (k : Pt) (e : Entry)
  /-- SLOT_SWEEP (R580). -/
  | slotSweep
  /-- IMPORT (R521). -/
  | imp (k : Pt) (e : Entry)
  /-- EXPORT (R522). -/
  | exp (k : Pt) (e : Entry)
  /-- SESSION_SEAL (R514). -/
  | sessionSeal (k : Pt) (e : Entry)
  /-- SESSION_SEAL_COMPLETE (R514). -/
  | sessionSealComplete (k : Pt)
  /-- SESSION_CLOSE (R523). -/
  | sessionClose (q : QRef) (e : Entry)
  /-- SQ_RUN (R676): the program of cluster `c` issues `items.getD c 0` commands, work items, SIGNALs, WAITs and VSUMQ reads
together (notes/assumptions/7.md). -/
  | sqRun (k : Pt) (j : Fin 16) (e : Entry) (items : List Nat)
  /-- MOVE (R676). -/
  | move (k : Pt) (j : Fin 16) (e : Entry)
  /-- UNIT_BEGIN (R305). -/
  | unitBegin (k : Pt) (j : Fin 16) (e : Entry)
  /-- UNIT_CAPTURE (R307). -/
  | unitCapture (k : Pt) (mark : W32)
  /-- UNIT_END (R315). -/
  | unitEnd (k : Pt) (j : Fin 16) (e : Entry)
  /-- UNIT_COMPLETE (R315). -/
  | unitComplete (k : Pt) (mark : W32)
  /-- UNIT_RETIRE (R316). -/
  | unitRetire (k : Pt) (mark : W32)
  /-- UNIT_LATE_REVOKE (R317). -/
  | unitLateRevoke (k : Pt) (mark : W32)
  /-- STEP_FENCE (R320). -/
  | stepFence (k : Pt) (j : Fin 16) (e : Entry)
  /-- COMPUTE_PHASE_END (R320). -/
  | computePhaseEnd (k : Pt)
  /-- LINK_GO (R453). -/
  | linkGo (k : Pt) (j : Fin 16) (e : Entry)
  /-- RELEASE (R552). -/
  | release (k : Pt) (j : Fin 16) (e : Entry)
  /-- GATE_RELEASE (R554). -/
  | gateRelease (k : Pt)
  /-- SIGNAL (R74). -/
  | signal (o : SigFrom)
  /-- WAIT (R76). -/
  | wait (o : WaitIn)
  /-- WAIT_TIMEOUT (R77), with the other events of its clock (R80). -/
  | waitTimeout (id : Nat) (sameClock : ClockIn)
  /-- MMA (R165). -/
  | mma (c : Tc) (w : MatWords) (t : SqTime)
  /-- EST_RESET (R174). -/
  | estReset (c : Tc) (w : MatWords) (t : SqTime)
  /-- DRAIN (R209). -/
  | drain (c : Tc)
  /-- CHECK_VERDICT (R181). -/
  | checkVerdict (c : Tc) (mismatch : BitVec 32)
  /-- IMAGE_WRITE (R232). -/
  | imageWrite (c : Tc) (addr : BitVec 25) (image : Bytes)
  /-- IMAGE_READ (R231). -/
  | imageRead (c : Tc) (addr : BitVec 25) (dst : BitVec 52)
  /-- VEXEC (R240). -/
  | vexec (c : Tc) (w : MatWords) (t : SqTime)
  /-- VNOP (R250). -/
  | vnop (u : VUnit) (f : BitVec 56)
  /-- VEND (R243). -/
  | vend (u : VUnit) (f : BitVec 56)
  /-- VSETVL (R250). -/
  | vsetvl (u : VUnit) (f : BitVec 56)
  /-- VLOOP (R246). -/
  | vloop (u : VUnit) (f : BitVec 56)
  /-- VSLI (R250). -/
  | vsli (u : VUnit) (f : BitVec 56)
  /-- VSADD (R250). -/
  | vsadd (u : VUnit) (f : BitVec 56)
  /-- VSMUL (R250). -/
  | vsmul (u : VUnit) (f : BitVec 56)
  /-- VFRD (R250). -/
  | vfrd (u : VUnit) (f : BitVec 56)
  /-- VFCLR (R291). -/
  | vfclr (u : VUnit) (f : ClearIn)
  /-- VMVS (R250). -/
  | vmvs (u : VUnit) (f : BitVec 56)
  /-- VMVV (R250). -/
  | vmvv (u : VUnit) (f : BitVec 56)
  /-- VADD (R256). -/
  | vadd (u : VUnit) (f : BitVec 56)
  /-- VSUB (R256). -/
  | vsub (u : VUnit) (f : BitVec 56)
  /-- VMUL (R256). -/
  | vmul (u : VUnit) (f : BitVec 56)
  /-- VFMA (R257). -/
  | vfma (u : VUnit) (f : BitVec 56)
  /-- VFNMA (R257). -/
  | vfnma (u : VUnit) (f : BitVec 56)
  /-- VMAX (R141). -/
  | vmax (u : VUnit) (f : BitVec 56)
  /-- VMIN (R141). -/
  | vmin (u : VUnit) (f : BitVec 56)
  /-- VABS (R250). -/
  | vabs (u : VUnit) (f : BitVec 56)
  /-- VNEG (R250). -/
  | vneg (u : VUnit) (f : BitVec 56)
  /-- VDIV (R258). -/
  | vdiv (u : VUnit) (f : BitVec 56)
  /-- VSQRT (R258). -/
  | vsqrt (u : VUnit) (f : BitVec 56)
  /-- VEXP2 (R258). -/
  | vexp2 (u : VUnit) (f : BitVec 56)
  /-- VLOG2 (R258). -/
  | vlog2 (u : VUnit) (f : BitVec 56)
  /-- VADDS (R259). -/
  | vadds (u : VUnit) (f : BitVec 56)
  /-- VSEL (R255). -/
  | vsel (u : VUnit) (f : BitVec 56)
  /-- VAND (R250). -/
  | vand (u : VUnit) (f : BitVec 56)
  /-- VOR (R250). -/
  | vor (u : VUnit) (f : BitVec 56)
  /-- VXOR (R250). -/
  | vxor (u : VUnit) (f : BitVec 56)
  /-- VSHL (R259). -/
  | vshl (u : VUnit) (f : BitVec 56)
  /-- VSHR (R259). -/
  | vshr (u : VUnit) (f : BitVec 56)
  /-- VSRA (R259). -/
  | vsra (u : VUnit) (f : BitVec 56)
  /-- VIOTA (R250). -/
  | viota (u : VUnit) (f : BitVec 56)
  /-- VCVT (R261). -/
  | vcvt (u : VUnit) (f : BitVec 56)
  /-- VPACK (R262). -/
  | vpack (u : VUnit) (f : BitVec 56)
  /-- VUNPK (R262). -/
  | vunpk (u : VUnit) (f : BitVec 56)
  /-- VCMPEQ (R254). -/
  | vcmpeq (u : VUnit) (f : BitVec 56)
  /-- VCMPNE (R254). -/
  | vcmpne (u : VUnit) (f : BitVec 56)
  /-- VCMPLT (R254). -/
  | vcmplt (u : VUnit) (f : BitVec 56)
  /-- VCMPLE (R254). -/
  | vcmple (u : VUnit) (f : BitVec 56)
  /-- VCMPUN (R254). -/
  | vcmpun (u : VUnit) (f : BitVec 56)
  /-- VMAND (R254). -/
  | vmand (u : VUnit) (f : BitVec 56)
  /-- VMOR (R254). -/
  | vmor (u : VUnit) (f : BitVec 56)
  /-- VMXOR (R254). -/
  | vmxor (u : VUnit) (f : BitVec 56)
  /-- VMNOT (R254). -/
  | vmnot (u : VUnit) (f : BitVec 56)
  /-- VMFIRSTN (R250). -/
  | vmfirstn (u : VUnit) (f : BitVec 56)
  /-- VCOMPRESS (R276). -/
  | vcompress (u : VUnit) (f : BitVec 56)
  /-- VEXPAND (R277). -/
  | vexpand (u : VUnit) (f : BitVec 56)
  /-- VCIDX (R276). -/
  | vcidx (u : VUnit) (f : BitVec 56)
  /-- VPERM (R278). -/
  | vperm (u : VUnit) (f : BitVec 56)
  /-- VSLIDEUP (R280). -/
  | vslideup (u : VUnit) (f : BitVec 56)
  /-- VSLIDEDN (R280). -/
  | vslidedn (u : VUnit) (f : BitVec 56)
  /-- VBCAST (R278). -/
  | vbcast (u : VUnit) (f : BitVec 56)
  /-- VRSUM (R282). -/
  | vrsum (u : VUnit) (f : BitVec 56)
  /-- VRPROD (R282). -/
  | vrprod (u : VUnit) (f : BitVec 56)
  /-- VRMAX (R282). -/
  | vrmax (u : VUnit) (f : BitVec 56)
  /-- VRMIN (R282). -/
  | vrmin (u : VUnit) (f : BitVec 56)
  /-- VRAMAX (R282). -/
  | vramax (u : VUnit) (f : BitVec 56)
  /-- VRAMIN (R282). -/
  | vramin (u : VUnit) (f : BitVec 56)
  /-- VRCNT (R282). -/
  | vrcnt (u : VUnit) (f : BitVec 56)
  /-- VRMEAN (R282). -/
  | vrmean (u : VUnit) (f : BitVec 56)
  /-- VANY (R287). -/
  | vany (u : VUnit) (f : BitVec 56)
  /-- VALL (R287). -/
  | vall (u : VUnit) (f : BitVec 56)
  /-- VCOUNT (R287). -/
  | vcount (u : VUnit) (f : BitVec 56)
  /-- VFIRST (R287). -/
  | vfirst (u : VUnit) (f : BitVec 56)
  /-- VLD (R266). -/
  | vld (u : VUnit) (f : BitVec 56)
  /-- VLDP (R263). -/
  | vldp (u : VUnit) (f : BitVec 56)
  /-- VLDR (R263). -/
  | vldr (u : VUnit) (f : BitVec 56)
  /-- VLDX (R264). -/
  | vldx (u : VUnit) (f : BitVec 56)
  /-- VST (R267). -/
  | vst (u : VUnit) (f : BitVec 56)
  /-- VSTP (R263). -/
  | vstp (u : VUnit) (f : BitVec 56)
  /-- VSTR (R263). -/
  | vstr (u : VUnit) (f : BitVec 56)
  /-- VSTX (R270). -/
  | vstx (u : VUnit) (f : BitVec 56)
  /-- VSTB (R267). -/
  | vstb (u : VUnit) (f : BitVec 56)
  /-- VSTSR (R362). -/
  | vstsr (u : VUnit) (f : BitVec 56)
  /-- PLD (R331). -/
  | pld (u : VUnit) (f : BitVec 56)
  /-- PMETA (R366). -/
  | pmeta (u : VUnit) (f : BitVec 56)
  /-- PST (R331). -/
  | pst (u : VUnit) (f : BitVec 56)
  /-- PBODY (R343). -/
  | pbody (u : VUnit) (f : BitVec 56)
  /-- VFACT (R369). -/
  | vfact (u : VUnit) (f : BitVec 56)
  /-- VSUMQ (R290). -/
  | vsumq (x : SumqIn)
  /-- PRESS_PASS1_START (R38). -/
  | pressPass1Start (k : PassIn)
  /-- PRESS_PASS2_START (R357). -/
  | pressPass2Start (k : PassIn)
  /-- UPDATE_PHASE_END (R360). -/
  | updatePhaseEnd (k : Pt)
  /-- PRESS_FAULT (R376). -/
  | pressFault (p : Ps)
  /-- TAKEOVER (R377). -/
  | takeover (p : Hb)
  /-- NOTICE_BATCH_CUT (R407). -/
  | noticeBatchCut (inTime : Bool)
  /-- CELLAR_DEADLINE_EXPIRY (R418). -/
  | cellarDeadlineExpiry (id : Nat) (completesNow : Bool)
  /-- CP_PORT_FAIL (R414). -/
  | cpPortFail (p : Cp)
  /-- SCRUB_READ (R423). -/
  | scrubRead (m : Ps) (line : Nat) (r : ScrubFound) (raced : Bool)
  /-- SCRUB_LEVEL_UPDATE (R422). -/
  | scrubLevelUpdate (m : Ps)
  /-- REKEY_ENGINE (R541). -/
  | rekeyEngine (m : Ps) (region : Nat)
  /-- REKEY_WAIT_EXPIRY (R544). -/
  | rekeyWaitExpiry (m : Ps) (region : Nat) (freedNow : Bool)
  /-- IDLE_FLIT (R434). -/
  | idleFlit (f : Flit)
  /-- RESEND_LIMIT (R436). -/
  | resendLimit (p : Lp)
  /-- DATA_FLIT (R454). -/
  | dataFlit (f : Flit)
  /-- TIME_FLIT (R460). -/
  | timeFlit (f : Flit) (x : TimeIn)
  /-- TREE_UP (R472). -/
  | treeUp (f : TreeIn)
  /-- TREE_DOWN (R474). -/
  | treeDown (f : Flit)
  /-- QUENCH (R93). -/
  | quench (o : QfFrom) (fenceToo : Bool)
  /-- LIFT_QUENCH (R95). -/
  | liftQuench (o : QfFrom)
  /-- FENCE (R96). -/
  | fence (o : QfFrom)
  /-- UNFENCE (R461). -/
  | unfence (o : QfFrom)
  /-- COMMIT_TOKEN (R464). -/
  | commitToken (p : Lp) (t : TokenIn) (revokedToo : Bool)
  /-- REVOKE_TOKEN (R465). -/
  | revokeToken (p : Lp) (t : TokenIn)
  /-- HELD_EXPIRY (R466). -/
  | heldExpiry (p : Lp)
  /-- NORM_FLIT (R476). -/
  | normFlit (f : Flit)
  /-- WIDTH_FLIT (R488). -/
  | widthFlit (f : Flit)
  /-- SIGNAL_FLIT (R81). -/
  | signalFlit (f : Flit) (obj : BitVec 14) (n : BitVec 16)
  /-- HELLO (R480). -/
  | hello (p : Lp) (m : HelloMsg)
  /-- CERT (R480). -/
  | cert (p : Lp) (chain : Bytes) (leadsToRoot : Bool)
  /-- EVIDENCE (R480). -/
  | evidence (p : Lp) (m : EvidenceMsg)
  /-- FINISH (R480). -/
  | finish (p : Lp) (hmac : Bytes) (named : W64)
  /-- REFUSE (R481). -/
  | refuse (p : Lp) (reason : BitVec 8)
  /-- MESSAGE_TIMEOUT (R481). -/
  | messageTimeout (p : Lp)
  /-- LINK_REKEY (R483). -/
  | linkRekey (p : Lp) (outgoing : Bool)
  /-- SIGNAL_DETECT (R479). -/
  | signalDetect (p : Lp)
  /-- TRAINING_LOCK (R479). -/
  | trainingLock (x : LockIn)
  /-- TRAINING_TIMEOUT (R479). -/
  | trainingTimeout (p : Lp)
  /-- HANDSHAKE_TIMEOUT (R479). -/
  | handshakeTimeout (p : Lp)
  /-- BACKOFF_EXPIRY (R479). -/
  | backoffExpiry (p : Lp)
  /-- LOSS_OF_SIGNAL (R479). -/
  | lossOfSignal (p : Lp)
  /-- LANE_FENCED (R487). -/
  | laneFenced (p : Lp) (x : LaneIn)
  /-- PORT_THRESHOLD_FENCE (R484). -/
  | portThresholdFence (p : Lp)
  /-- PLUG_INSERT (R758). -/
  | plugInsert (p : Lp) (plug : PlugMem)
  /-- PLUG_REMOVE (R759). -/
  | plugRemove (p : Lp)
  /-- LODESTAR_ELECTED (R492). -/
  | lodestarElected
  /-- STANDBY_TAKEOVER (R493). -/
  | standbyTakeover
  /-- TIME_LOSS_UNLOCK (R494). -/
  | timeLossUnlock
  /-- SELF_LODESTAR (R600). -/
  | selfLodestar
  /-- ODP_FORWARD (R623). -/
  | odpForward (p : Lp) (hop : Nat) (flit : Bytes)
  /-- OPEN (R765). -/
  | odpOpen (o : OdpSrc) (frame : Bytes)
  /-- CLOSE (R627). -/
  | odpClose (o : OdpSrc) (frame : Bytes)
  /-- READ (R617). -/
  | odpRead (o : OdpSrc) (frame : Bytes)
  /-- WRITE (R635). -/
  | odpWrite (o : OdpSrc) (frame : Bytes)
  /-- READ_SEG (R634). -/
  | readSeg (o : OdpSrc) (frame : Bytes)
  /-- WRITE_SEG (R633). -/
  | writeSeg (o : OdpSrc) (frame : Bytes)
  /-- WRITE_END (R633). -/
  | writeEnd (o : OdpSrc) (frame : Bytes)
  /-- DESCRIBE (R617). -/
  | describe (o : OdpSrc) (frame : Bytes)
  /-- ECHO (R617). -/
  | echo (o : OdpSrc) (frame : Bytes)
  /-- JOIN (R519). -/
  | join (m : JoinMsg)
  /-- JOIN_ANSWER (R519). -/
  | joinAnswer (m : JoinAnswerMsg)
  /-- ODP_SESSION_TIMEOUT (R627). -/
  | odpSessionTimeout (id : Nat)
  /-- TICK_PERIOD_US (R46). -/
  | tickPeriodUs (o : OdpSrc) (frame : PeriodIn)
  /-- CONFIG_SAVE_STORE (R613). -/
  | configSaveStore (o : OdpSrc) (frame : Bytes)
  /-- CONFIG_SAVE_ERASE (R613). -/
  | configSaveErase (o : OdpSrc) (frame : Bytes)
  /-- KEY_DELIVER (R518). -/
  | keyDeliver (o : OdpSrc) (frame : Bytes)
  /-- CHANGE_SET (R646). -/
  | changeSet (o : OdpSrc) (frame : Bytes)
  /-- OPERATOR_TOKEN (R644). -/
  | operatorToken (o : OdpSrc) (frame : Bytes)
  /-- SESSION_APPROVAL (R645). -/
  | sessionApproval (o : OdpSrc) (frame : Bytes)
  /-- MEDRIELM_TOKEN (R644). -/
  | medrielmToken (o : OdpSrc) (frame : Bytes)
  /-- CHANGE_ABORT (R647). -/
  | changeAbort (o : OdpSrc) (frame : Bytes)
  /-- CHANGE_EXPIRED (R647). -/
  | changeExpired (tokenNow : Bool)
  /-- STEP_NUMBER (R361). -/
  | stepNumber (o : OdpSrc) (frame : Bytes)
  /-- SR_SEED (R364). -/
  | srSeed (o : OdpSrc) (frame : Bytes)
  /-- JOB_SIZE (R471). -/
  | jobSize (o : OdpSrc) (frame : Bytes) (standbyAck : Bool)
  /-- POOL_QUOTA (R403). -/
  | poolQuota (o : OdpSrc) (frame : Bytes)
  /-- RECOVERY_IMAGE (R602). -/
  | recoveryImage (o : OdpSrc) (frame : Bytes) (img : ImageInfo)
  /-- TEST_REQUEST (R723). -/
  | testRequest (o : OdpSrc) (frame : Bytes) (contentOk : Bool)
  /-- TEST_ABORT (R729). -/
  | testAbort (o : OdpSrc) (frame : AbortIn)
  /-- TEST_DRAINED (R725). -/
  | testDrained
  /-- DRAIN_TIMEOUT (R723). -/
  | drainTimeout
  /-- TEST_COMPLETE (R725). -/
  | testComplete (tcPass : BitVec 16) (ldPass : BitVec 30)
  /-- GET_VERSION (R516). -/
  | getVersion (m : SpdmMsg)
  /-- GET_CAPABILITIES (R516). -/
  | getCapabilities (m : SpdmMsg)
  /-- NEGOTIATE_ALGORITHMS (R516). -/
  | negotiateAlgorithms (m : SpdmMsg)
  /-- GET_DIGESTS (R516). -/
  | getDigests (m : SpdmMsg)
  /-- GET_CERTIFICATE (R516). -/
  | getCertificate (m : SpdmMsg)
  /-- GET_MEASUREMENTS (R517). -/
  | getMeasurements (m : SpdmMsg)
  /-- KEY_EXCHANGE (R516). -/
  | keyExchange (m : SpdmMsg)
  /-- SPDM_FINISH (R516). -/
  | spdmFinish (m : SpdmMsg)
  /-- KEY_UPDATE (R516). -/
  | keyUpdate (m : SpdmMsg)
  /-- HEARTBEAT (R516). -/
  | heartbeat (m : SpdmMsg)
  /-- END_SESSION (R516). -/
  | endSession (m : SpdmMsg)
  /-- ARP (R620). -/
  | arp (target : W32)
  /-- ICMP_ECHO (R620). -/
  | icmpEcho (target : W32) (data : Bytes)
  /-- MCTP_CONTROL (R621). -/
  | mctpControl (setEid : Option Byte)
  /-- LOCK_KEY (R660). -/
  | lockKey (a : Mmio)
  /-- SET_ALIAS_WRITE (R655). -/
  | setAliasWrite (a : Mmio)
  /-- CLEAR_ALIAS_WRITE (R655). -/
  | clearAliasWrite (a : Mmio)
  /-- TOGGLE_ALIAS_WRITE (R655). -/
  | toggleAliasWrite (a : Mmio)
  /-- GLB_CLK_OVERRIDE (R699). -/
  | glbClkOverride (a : Mmio)
  /-- SCAN_START (R723). -/
  | scanStart (a : Mmio)
  /-- TC_FENCE (R719). -/
  | tcFence (a : Mmio)
  /-- EST_FREEZE (R177). -/
  | estFreeze (a : Mmio)
  /-- LP_FENCE (R484). -/
  | lpFence (a : Mmio)
  /-- RETRAIN (R499). -/
  | retrain (a : Mmio)
  /-- LANE_FENCE (R488). -/
  | laneFence (a : Mmio)
  /-- LP_EQ_CTRL (R490). -/
  | lpEqCtrl (a : Mmio)
  /-- MC_SCRUB (R424). -/
  | mcScrub (a : Mmio)
  /-- PRS_FENCE (R376). -/
  | prsFence (a : Mmio)
  /-- FAULT_CLEAR (R379). -/
  | faultClear (a : Mmio)
  /-- DOORBELL_TAIL (R672). -/
  | doorbellTail (a : Mmio)
  /-- RESUME (R673). -/
  | resume (a : Mmio)
  /-- FLUSH (R673), with the entries that stand unfetched in the queue's ring. -/
  | flush (a : Mmio) (ring : List Entry)
  /-- CQ_HEAD_DOORBELL (R674). -/
  | cqHeadDoorbell (a : Mmio)
  /-- QCFG (R671). -/
  | qcfg (a : Mmio)
  /-- STEP_SIZE (R358). -/
  | stepSize (a : Mmio)
  /-- SYNC_WINDOW_SIGNAL (R669). -/
  | syncWindowSignal (a : Mmio)
  /-- MC_ECC_COUNT (R426). -/
  | mcEccCount (a : MmioRead)
  /-- LP_ERR_COUNT (R499). -/
  | lpErrCount (a : MmioRead)
  /-- REGISTER_WRITE (R653). -/
  | registerWrite (a : Mmio)
  /-- INPUT_SAMPLE (R687). -/
  | inputSample (volts amps watts : W32)
  /-- DROOP_STRETCH (R700). -/
  | droopStretch
  /-- DROOP_RESTORE (R700). -/
  | droopRestore (delivered aboveFor : Nat)
  /-- POWER_FAULT (R691). -/
  | powerFault (cause : OffCause)
  /-- THERMAL_TRIP (R703). -/
  | thermalTrip
  /-- RAIL_RESTART (R703). -/
  | railRestart (allBelow90 : Bool)
  /-- REFCLK_LOST (R693). -/
  | refclkLost
  /-- TIMEREF_LOST (R693). -/
  | timerefLost
  /-- TIMEREF_RESTORED (R693). -/
  | timerefRestored (pps : Bool)
  /-- STANDBY_POWER_UP (R597). -/
  | standbyPowerUp (b : BootIn)
  /-- PERST_N_ASSERT (R743). -/
  | perstNAssert
  /-- PERST_N_RELEASE (R742). -/
  | perstNRelease (b : BringUpIn)
  /-- ENTROPY_TEST_FAIL (R575). -/
  | entropyTestFail
  /-- ENTROPY_RESTART (R575). -/
  | entropyRestart
  /-- TICK_IO_EDGE (R747). -/
  | tickIoEdge (grains : Nat) (withBoundary : Bool) (withinUs : Bool)
  /-- IDCODE (R751). -/
  | idcode
  /-- BYPASS (R750). -/
  | bypass
  /-- SAMPLE_PRELOAD (R749). -/
  | samplePreload (shiftIn : Bytes)
  /-- EXTEST (R752). -/
  | extest
  /-- MEDRIELM_TEST (R749). -/
  | medrielmTest (code : Byte)
  /-- TEST_LOGIC_RESET (R750). -/
  | testLogicReset
  /-- FLIT_CRC_FAIL (R436). -/
  | flitCrcFail (p : FlitPort) (tag : Bool)
  /-- LINK_SLOT_START (R445). -/
  | linkSlotStart (p : Lp) (slot : Fin 64)
  /-- PRESS_PASS1_END (R355). -/
  | pressPass1End (k : Pt)
  /-- MOVE_COMPLETE (R676). -/
  | moveComplete (id : Nat) (x : MoveIn)
  /-- CELLAR_COPY_COMPLETE (R399). -/
  | cellarCopyComplete (k : Pt) (tag : BitVec 16)
  /-- CACHE_FILL_COMPLETE (R406). -/
  | cacheFillComplete (k : Pt) (f : FillIn)
  /-- CONFIG_SAVE_COMPLETE (R613). -/
  | configSaveComplete
  /-- STANDBY_POWER_LOSS (R582). -/
  | standbyPowerLoss
  /-- LREF_PRESENT (R741). -/
  | lrefPresent
  /-- TDISP_ASSIGN (R359). -/
  | tdispAssign (k : Pt) (assigned : Bool)
  /-- PRE_LOCK_TIME_SEND (R492). -/
  | preLockTimeSend
deriving DecidableEq, Repr

end Sys2Proof
end

