-- ==== Sys2Proof/Decode.lean ====
section
/-! DEFINITION. What a word of the opcode table spells. The table gives no row any bits (the commands are events of
many kinds, named in spec/95_what_each_step_holds.md), so no word spells a command. -/

namespace Sys2Proof

/-- The command that a word of `nbits` bits spells by the table: none, since no row has bits. -/
def decodeTableWord (_nbits _w : Nat) : Option Instr := none

end Sys2Proof
end

