-- ==== Sys2Proof/Config.lean ====
section
/-! DEFINITION. What an implementation fixes and what the module draws or the spec leaves open: constants without a
body, so that nothing can be proved about their values. -/

namespace Sys2Proof.Config

/-- Byte n of what the DRBG instances and the entropy source deliver (R573): a free value. -/
opaque freeByte : Nat → Byte

/-- The 256-bit unique device secret as fused (R565): a free value. -/
opaque uds : Vector Byte 32

/-- The unique ID as fused at manufacture (R586): a free value. -/
opaque uid : W64

/-- The analog trim words as fused at manufacture (R586): a free value. -/
opaque trim : Vector Byte 256

/-- The stepping of the compute die (OD 0x1000.03), the serial number (OD 0x1000.0B) and the version string of the
device firmware (OD 0x1000.08): free values. -/
opaque dieStepping : BitVec 16
opaque serial : Bytes
opaque dfwVersion : Bytes

/-- The SHA-384 of the ROM, and the images the flash holds at manufacture (R566, R602): free values. -/
opaque romDigest : Vector Byte 48
opaque sfwDigest : Vector Byte 48
opaque dfwDigest : Vector Byte 48
opaque sfwSvn : Fin 65
opaque dfwSvn : Fin 65

/-- The measurement of the CC that the SC expects is met or not by the sender's word; the public key of the Medrielm
root in ROM (R571, R644) is fixed by the part: a free value. -/
opaque medrielmRoot : Bytes

/-- OPERATOR_KEY_DIGEST as fused on the way to PROVISIONED (R586, R588): a free value. -/
opaque operatorDigest : Vector Byte 48

/-- The certificate chain parts that Medrielm fuses or stores (R571): a free value. -/
opaque deviceIdCert : Bytes

/-- The DER certificate chain of slot 0 as issued at a boot, for what it carries (R571): the encoding is not given, a free
value. -/
opaque certChain : Bytes → Bytes

/-- JEP106 identity of Medrielm in IDCODE (R751): not given, a free value. -/
opaque jep106 : BitVec 11

/-- The reserved characterization bits of link-port and memory-controller registers on VF8-16H8 after training n: word
3p + i of port p and 54 + 3h + i of stack h (R658): free values. -/
opaque reservedBits : Nat → Nat → W64

/-- The link protocol version that HELLO carries and a port supports (R480, R481): not given, a free value. -/
opaque linkVersion : Byte

/-- Whether VFACT forms a product and its subtraction in one rounding (R369: "in a fixed order of operations", which
the spec does not give): a free value. -/
opaque factorFused : Bool

/-- The setpoint in µV that covers a compute clock in MHz (R695: it "always covers the frequency one step above the present one", and the
spec gives no voltages for the clocks): a free value. -/
opaque coverUv : Nat → Nat

/-- Draw n of the GATE instance as rind-gate noise (R555): a free value; no statement rests on its distribution. -/
opaque gateNoise : Nat → Int

/-- Byte i of the stored bits of a line whose memory key no longer exists (R523, R580): a free value. -/
opaque deadBits : Nat → Nat → Nat → Byte

end Sys2Proof.Config
end

