-- ==== Sys2Proof/Machine/State.lean ====
section
/-! DEFINITION. The state of the module, unit by unit, and the state after module reset. Every field names the rule
of spec/ that gives it; INVENTORY.md lists them with their reset values. -/

namespace Sys2Proof.Machine

/-- Values by index in one canonical form: indices strictly rising, and no entry equal to the default that an
unlisted index reads as. Memories and the large register files are held so. -/
abbrev Sparse (α : Type) := List (Nat × α)

/-- Memory: address and byte, unlisted addresses read 0 (spec/17_module_interface.md R743: on-die state is zeroed). -/
abbrev Memory := List Host.Cell

/-! ## Records and logs -/

/-- An event record (R325): the fields of its 32 bytes. -/
structure LogRec where
  typ         : Byte
  causes      : Byte := 0
  part        : Byte
  cluster     : Byte := 0xFF
  unitId      : BitVec 16 := 0xFFFF
  levels      : Byte := 0
  replayNo    : Byte := 0
  tick        : W64
  step        : W64 := 0
  detail      : W32 := 0
  handleIndex : BitVec 16 := 0
  localNf     : Byte := 0
deriving DecidableEq, Repr

/-- One error log (R708, R709, R711): the records still held, oldest first, the number of the latest record, LOG_FROM
and LOG_OVERWRITTEN. -/
structure Log where
  recs        : List LogRec
  count       : W64
  fromRec     : W64
  overwritten : W64
deriving DecidableEq, Repr

def Log.empty : Log := { recs := [], count := 0, fromRec := 1, overwritten := 0 }

/-! ## Queues -/

/-- A completion (R677): TAG, STATUS and the three results. -/
structure Completion where
  tag    : BitVec 16
  status : Byte
  res0   : W64
  res1   : W64
  res2   : W64
deriving DecidableEq, Repr

/-- A queue (R670–R674): its registers, the completion-ring head, the completion phase, the number of completion
entries reserved for commands fetched and not completed, and whether VECTOR was last written through the VF and so
names a vector of the VF (R671, R681). CQ_FULL follows from these. -/
structure Queue where
  base     : W64
  cbase    : W64
  enable   : Bool
  log2     : BitVec 5
  vector   : BitVec 11
  vf       : Bool
  halted   : Bool
  lastSt   : Byte
  cqTail   : BitVec 16
  tail     : BitVec 16
  head     : BitVec 16
  cqHead   : BitVec 16
  phase    : Bool
  reserved : Nat
deriving DecidableEq, Repr

def Queue.reset : Queue :=
  { base := 0, cbase := 0, enable := false, log2 := 0, vector := 0, vf := false, halted := false, lastSt := 0,
    cqTail := 0, tail := 0, head := 0, cqHead := 0, phase := true, reserved := 0 }

/-- What a command that has been fetched and has not completed waits for. -/
inductive Wait where
  /-- PART_DESTROY until the steps of R679 are done, and then until the next boundary. -/
  | partDestroy (k : Pt)
  | partGone
  /-- DESTROY until no earlier data command refers to the object: the numbers of those that still do (R69). -/
  | destroy (handle : W32) (users : List Nat)
  /-- MEM_ALLOC until its regions read zero, and with evictions until the boundary `notBefore` (R395, R405, R406). -/
  | memAlloc (obj : BitVec 16) (notBefore : W64)
  /-- CACHE_FILL until its evictions took effect and with EAGER every page is filled (R406). -/
  | cacheFill (obj : BitVec 16) (eager : Bool) (notBefore : W64)
  /-- CELLAR_COPY until its last line is written (R399). -/
  | cellarCopy (obj : BitVec 16) (src : BitVec 52) (offset len : Nat)
  /-- SESSION_SEAL (R514). -/
  | sessionSeal (due : Bool)
  /-- SESSION_CLOSE until the boundary (R523). -/
  | sessionClose (k : Pt)
  /-- A command in the streams of clusters, until each cluster of the mask has ended it (R763). -/
  | stream (clusters : BitVec 16)
  /-- MOVE, by the number of its request (R676). -/
  | move
  /-- WAIT at the sync-object file (R76). -/
  | syncWait
  /-- LINK_GO until the last byte of its route (R453). -/
  | route (idx : BitVec 16)
  /-- LINK_GO that has been issued and whose route cannot be activated yet: its last activation runs on, or its peer has not joined the
  session (R453, R547, R763). -/
  | routeNext (idx : BitVec 16)
  /-- PRESS_LOAD, while a quench holds the traffic of its partition (R93). -/
  | blocked
  /-- IMPORT, while a quench holds the traffic of its partition or the next record's write waits (R93, R542, R544): the offset of that record
  and the last SEQ. -/
  | importing (off : Nat) (last : Option Nat)
  /-- EXPORT, likewise: the offset and the number of the next record. -/
  | exporting (off seq : Nat)
  /-- A data command at the head of its queue whose setup object is pending (R65), or a UNIT_BEGIN without room
  (R305). -/
  | head
deriving DecidableEq, Repr

/-- A command that has been fetched and has not completed (R763, R68): its number, queue, entry, how many commands the
program of an SQ_RUN issues on each cluster, and what it waits for. -/
structure Pending where
  id    : Nat
  q     : QRef
  e     : Entry
  items : List Nat
  wait  : Wait
deriving DecidableEq, Repr

/-! ## Setup objects and replay units -/

/-- The life of a setup object (R62, R69, R764). -/
inductive ObjState where
  | pending
  | active
  | destroying
  | destroyed
  /-- Destroyed before it became active: it never gives reach (R72). -/
  | withdrawn
deriving DecidableEq, Repr

/-- A setup object (R63, R64). -/
structure SetupObj where
  typ   : BitVec 4
  gen   : BitVec 10
  idx   : BitVec 16
  bytes : Bytes
  st    : ObjState
deriving DecidableEq, Repr

/-- The device state kept beside a replay mark (R301, R313, R314): level, applied steps since it last changed,
replays of its unit in this step. -/
structure MarkState where
  idx      : BitVec 16
  level    : BitVec 3
  held     : BitVec 16
  replays  : BitVec 4
deriving DecidableEq, Repr

/-- A page of 4 KiB of one cluster that a unit has captured (R307): its address, and the page of the hold that keeps it; a page
in the spill region is kept here with the poison of its words. -/
structure Captured where
  cluster : Tc
  addr    : Nat
  page    : Option Nat
  spilled : List (Byte × Bool)
deriving DecidableEq, Repr

/-- A replay unit from its UNIT_BEGIN until it retires or fails (R305–R316): the mark, the queues that feed it, the clusters that
have reached UNIT_BEGIN, what was captured, hold pages taken on each cluster and spill bytes, causes pending and the lowest cluster that
raised one, columns of a CHECK mismatch, C handle of an OVERFLOW, for each queue the clusters that have passed its UNIT_END, the counts of R140 with the threshold in force when the run began, whether every write-out was
FP32 so far and the OVERFLOW causes that wait for the other write-outs (R312), the tiles it opened, the routes of its tentative sends, levels of marks from before a step end that came while it was open (R313), whether it has completed, whether it
rolls back once its running work has completed, and whether its re-run waits for the boundary. -/
structure ReplayUnit where
  mark       : W32
  qs         : List (Fin 16)
  reached    : BitVec 16
  captured   : Option (List Captured)
  hold       : List (Tc × List Nat)
  spillBytes : Nat
  causes     : Byte
  causeAt    : Byte
  checkMask  : W32
  overflowC  : W32
  ended      : List (Fin 16 × BitVec 16)
  flushed    : Nat
  nonzero    : Nat
  wideOnly   : Bool
  ceilings   : List (Byte × W32)
  oldLevels  : List (BitVec 16 × BitVec 3)
  tiles      : List (Tc × Nat)
  threshold  : BitVec 16
  routes     : List (BitVec 16)
  completed  : Bool
  rolling    : Bool
  rerunWait  : Bool
deriving DecidableEq, Repr

/-! ## Memory objects and pools -/

/-- A page fetched into a copy (R400, R410, R415): no notice has named it since its cellar read was issued, and the boundary tick at
whose end that read is late. -/
structure Refill where
  page : Nat
  good : Bool
  due  : W64
deriving DecidableEq, Repr

/-- The state of a memory object (R393–R406). -/
inductive MemState where
  | clearing
  | ready
  | usable
  /-- Freed by MEM_FREE before the boundary at which it would have become usable (R395). -/
  | readyFreed
  | freeing
  | evicting
  /-- Freed by MEM_FREE before the boundary after its eviction (R395, R406). -/
  | evictingFreed
  | evicted
deriving DecidableEq, Repr

/-- A memory object (R393): placement, HBM part (stack, first region), cellar part (first region), regions, metadata
regions on the stack and in the cellar, attributes, state, last-use tick, and for a CACHED object the valid pages of its copy, the page
fetches in progress, and the runs of regions of an evicted copy that another fill or a drop has replaced before the boundary that frees
them (R406). -/
structure MemObj where
  obj       : BitVec 16
  place     : BitVec 2
  stack     : Hb
  hbmBase   : Option Nat
  celBase   : Option Nat
  regions   : Nat
  metaBase  : Option Nat
  metaRegs  : Nat
  celMeta   : Option Nat
  writable  : Bool
  pin       : Bool
  keyId     : Byte
  sealed    : Bool
  code      : Bool
  st        : MemState
  lastUse   : W64
  pages     : List Nat
  fetching  : List Refill
  oldRuns   : List (Nat × Nat)
deriving DecidableEq, Repr

/-- A pool (R401–R405, R429): quota in force and as written, per stack, evictions and failures. -/
structure Pool where
  quota     : Vector (BitVec 16) 8
  written   : Vector (BitVec 16) 8
  evictions : W64
  fails     : W64
deriving DecidableEq, Repr

/-! ## Numbers -/

/-- A 160-bit element (R199): its integer X, whose three reserved codes are NaN and the infinities. -/
abbrev LongElem := BitVec 160

/-- A partial squared norm (R354, R355) with its sticky flags and the contribution mask of R553. -/
structure NormPartial where
  value  : LongElem
  low    : Bool
  range  : Bool
  nf     : Bool
  owners : W32
deriving DecidableEq, Repr

/-! ## Sessions and the rind gate -/

/-- A queued release (R552): REL_ID, source, the step it belongs to, whether that step has ended applied, whether the gate holds
it until the next boundary (R668), and the owners that contributed to it. -/
structure Release where
  relId  : BitVec 4
  src    : BitVec 52
  step   : W64
  due    : Bool
  held   : Bool
  owners : W32
deriving DecidableEq, Repr

/-- A transcript entry (R557). -/
structure Transcript where
  index  : W64
  step   : W64
  tick   : W64
  relId  : Byte
  status : Byte
  owners : Byte
  bytes  : W64
  digest : Bytes
deriving DecidableEq, Repr

/-- The session of a confidential partition (R505–R564). `peerKeys` are the ephemeral keys of the devices that have joined (R519). -/
structure Session where
  state       : BitVec 3
  manifest    : Bytes
  held        : Bytes
  digest      : Bytes
  pm          : Bytes
  delivered   : W64
  policy      : Bytes
  stepLeft    : W32
  totalLeft   : W64
  transcript  : List Transcript
  chain       : Bytes
  fromEntry   : W64
  pubKey      : Bytes
  rekeys      : W64
  exhausted   : W64
  integrity   : W64
  refused     : W64
  clamps      : W64
  ringStalls  : W64
  joined      : Bool
  peers       : List (BitVec 16)
  peerKeys    : List (BitVec 16 × Bytes)
  releases    : List Release
  closing     : Bool
  closeW      : Byte
  smkSlot     : Option (Fin 1024)
  roundSlot   : Option (Fin 1024)
deriving DecidableEq, Repr

/-! ## Partitions -/

/-- The counters of a partition (R82, R142, R191, R234, R293, R327, R382, R430): 64 bits each, those of R82 being 32
bits wide where they are read. -/
structure Counters where
  budgetOverruns : W32
  coincident     : W32
  rangeDrops     : W32
  saturate       : W64
  overflows      : W64
  underflow      : W64
  flushed        : W64
  zeroBlock      : W64
  nonfinite      : W64
  invalidConv    : W64
  checkRuns      : W64
  checkMismatch  : W64
  checkSkipped   : W64
  bankStalls     : W64
  maskSkipped    : W64
  drainStalls    : W64
  inexactTiles   : W64
  rangeTiles     : W64
  merges         : W64
  mergeRefused   : W64
  laneRange      : W64
  emptyReduce    : W64
  veFaults       : W64
  blockMask      : W64
  replays        : W64
  escalations    : W64
  demotions      : W64
  ceilings       : W64
  unitsFailed    : W64
  localNonfinite : W64
  stepsSkipped   : W64
  stepReused     : W64
  normInexact    : W64
  vfactRetries   : W64
  vfactSingular  : W64
  keptGrains     : W64
  cellarGrains   : W64
  updatesTorn    : W64
  lockRefused    : W64
  cellarLate     : W64
  cellarFailed   : W64
  cellarCoinc    : W64
  objEvicted     : W64
deriving DecidableEq, Repr

def Counters.zero : Counters :=
  ⟨0, 0, 0, 0, 0, 0, 0, 0, 0, 0, 0, 0, 0, 0, 0, 0, 0, 0, 0, 0, 0, 0, 0, 0, 0, 0, 0, 0, 0, 0, 0, 0, 0, 0, 0, 0, 0, 0, 0,
   0, 0, 0, 0⟩

/-- A policy value with the value in force and the value last written (R144, R193, R329, R353, R430, R612). -/
structure Policy where
  flush        : BitVec 16
  flushW       : BitVec 16
  checkTol     : Byte
  checkTolW    : Byte
  escHold      : BitVec 16
  escHoldW     : BitVec 16
  replayLimit  : Byte
  replayLimitW : Byte
  deadline     : Byte
  deadlineW    : Byte
deriving DecidableEq, Repr

def Policy.default : Policy := ⟨655, 655, 20, 20, 8, 8, 4, 4, 2, 2⟩

/-- The phase of a partition's step (R38, R320, R349, R351–R357, R360). -/
inductive StepPhase where
  /-- Work of the step runs; units open and retire. -/
  | compute
  /-- The local flag is final and waits for the non-finite OR (R320, R474). -/
  | decide
  /-- The OR is clear; pass 1 may start (R38). -/
  | armed
  | pass1
  /-- The device partial is formed; the combined G² has not arrived (R355). -/
  | norm
  /-- G² has arrived; pass 2 starts at the next boundary (R357). -/
  | normHere
  | pass2
  | sparse
  /-- The last pass is complete; the step ends at the next boundary, applied (R360). -/
  | applied
  /-- The step ends at the next boundary, skipped (R39, R322, R356). -/
  | skipped
  /-- The update phase stopped torn (R378). -/
  | torn
deriving DecidableEq, Repr

/-- The step of a partition (R319–R324, R342, R354–R361). `endTick` is the tick in which its compute phase ended (R320). -/
structure Step where
  phase      : StepPhase
  endTick    : W64
  fences     : BitVec 16
  nextFences : BitVec 16
  localNf    : Bool
  nextNf     : Byte
  nfCauses   : Byte
  finalNf    : Bool
  round      : BitVec 4
  number     : W64
  numberW    : Option W64
  service    : Byte
  serviceW   : Byte
  normWexp   : BitVec 16
  g2         : W32
  updateSync : W32
  seed       : Bytes
  seedW      : Option Bytes
  digest     : Bytes
  eta        : W32
  etaTick    : W32
  etaLatched : W32
  etaFresh   : Bool
  partial_   : NormPartial
  combined   : Option NormPartial
  unitsDone  : BitVec 9
  owners     : W32
deriving DecidableEq, Repr

/-- A partition (R59, R638, R667, R678): its creation record's fields, its policies, counters, log, setup objects,
units, memory objects, queues and registers. -/
structure Partition where
  state       : BitVec 2
  clusters    : BitVec 16
  hbMask      : Byte
  pool        : Byte
  jobId       : Byte
  dataQueues  : BitVec 5
  dqBase      : BitVec 6
  seqContexts : W64
  vfAssigned  : Bool
  debug       : Bool
  accBase     : W32
  accSize     : W32
  holdBase    : W32
  holdSize    : W32
  spillSize   : W64
  cellarQuota : W32
  syncFirst   : BitVec 16
  syncCount   : BitVec 16
  nocShare    : BitVec 16
  ckptObj     : List (BitVec 16)
  cellarShare : Byte
  destroying  : Option (Bool × W64)
  halting     : Bool
  policy      : Policy
  counters    : Counters
  log         : Log
  step        : Step
  objs        : List SetupObj
  gens        : Sparse (BitVec 10)
  marks       : List MarkState
  units       : List ReplayUnit
  mem         : List MemObj
  lastGens    : Sparse Nat
  ctrl        : Queue
  data        : Vector Queue 16
  inflight    : List Pending
  held        : List (QRef × Completion)
  syncOvf     : W64
  event       : BitVec 4
  evEnable    : Bool
  evVector    : BitVec 11
  evVf        : Bool
  heldMsix    : List (Bool × BitVec 11)
  relBase     : W64
  relEnable   : Bool
  relLog2     : BitVec 5
  relHead     : W32
  relTail     : W32
  session     : Session
  pmkSlot     : Option (Fin 1024)
  powerW      : BitVec 16
  quenched    : Bool
  unquench    : Bool
deriving DecidableEq, Repr

/-! ## Vector registers -/

/-- An open loop (R236, R246): first instruction, last instruction, repeats left. -/
structure Loop where
  start : Nat
  last  : Nat
  left  : W64
deriving DecidableEq, Repr

/-- The registers of a vector unit (R236, R330). `v` holds lane i of register r at index 256 r + i. -/
structure VecRegs where
  v      : Sparse W32
  m      : Vector (BitVec 256) 8
  s      : Vector W64 16
  vl     : BitVec 9
  flags  : Byte
  loops  : List Loop
deriving DecidableEq, Repr

def VecRegs.zero : VecRegs :=
  { v := [], m := Vector.replicate 8 0, s := Vector.replicate 16 0, vl := 0, flags := 0, loops := [] }

/-- A VE work item (R240, R242, R292), queued or running, with the stream command and the replay unit it belongs to. -/
structure VeItem where
  pc      : Nat
  vl      : BitVec 9
  argBase : Nat
  icinv   : Bool
  signal  : Bool
  syncObj : BitVec 14
  signalN : BitVec 16
  budget  : BitVec 20
  number  : BitVec 16
  job     : Nat
  unit    : Option W32
deriving DecidableEq, Repr

/-- The VE of a cluster (R236, R241, R244, R289, R290, R292): the instruction cache holds lines by address, the bytes with the poison of
their words, the one used last in front; `loadWait` is the number of the last pass whose drain a load waits for (R271). -/
structure Ve where
  regs      : VecRegs
  run       : Option VeItem
  queue     : List VeItem
  items     : BitVec 16
  icache    : List (Nat × List (Byte × Bool))
  loadWait  : Option Nat
  summary   : List W64
  sumOut    : W64
  flagsLast : Byte
  faultKind : Byte
  faultPc   : W32
  faultLane : BitVec 9
deriving DecidableEq, Repr

/-! ## Tensor clusters -/

/-- A scale estimator (R174). -/
structure Estimator where
  w   : List W32
  cur : W32
  c   : BitVec 4
deriving DecidableEq, Repr

/-- An MMA in the ME (R165, R168): its words, its operands and the handles as they are executed (R302), the sequence context it read at
dispatch (R189), the replay unit it belongs to, the window exponent of its chain; `no` numbers the passes in the order in which the ME accepted them. -/
structure MeItem where
  no    : Nat
  w     : MatWords
  a     : Bytes
  b     : Bytes
  c     : Bytes
  aH    : W32
  bH    : W32
  cH    : W32
  ctx   : Bytes
  long  : Bool
  first : Bool
  last  : Bool
  check : Bool
  mask  : Bool
  tile  : Nat
  wexp  : BitVec 10
  job   : Nat
  unit  : Option W32
deriving DecidableEq, Repr

/-- What carries an image through the merge window (R229): a command of its own, the MOVE with this number, or a route. -/
inductive ImageBy where
  | direct
  | move (id : Nat)
  | route (k : Pt) (idx : BitVec 16)
deriving DecidableEq, Repr

/-- A transfer at the merge window that waits for drains (R233): a load or a merge of an image, whose outcome is
decided, a read of an image to an address, or a read that its carrier takes. -/
inductive Deferred where
  | load (t : Nat) (image : Bytes)
  | merge (t : Nat) (image : Bytes)
  | read (t : Nat) (dst : BitVec 52)
  | take (t : Nat)
deriving DecidableEq, Repr

/-- A transfer of one image that waits for every pass on its tile up to number `after` (R233): the mode and the index of the tile,
what it does, and its carrier. -/
structure Pinned where
  after : Nat
  long  : Bool
  tile  : Nat
  what  : Deferred
  via   : ImageBy
deriving DecidableEq, Repr

/-- The drain buffer (R210): mode and index of the tile that the drain wrote last, its address in the scratchpad, and its
elements. -/
structure DrainBuf where
  long : Bool
  tile : Nat
  addr : Nat
  es   : List LongElem
deriving DecidableEq, Repr

/-- A pass whose sums are in a latch and wait for their drain (R206–R209).
Elements row by row; an FP32 element in the low 32 bits. -/
structure Latch where
  item  : MeItem
  sums  : List LongElem
  low   : Bool
  range : Bool
  skip  : Bool
deriving DecidableEq, Repr

/-- What the parts of one estimated block of 64 or 128 elements have given, written out so far (R128, R134, R135): the parts written, a
mask with part i at bit i, the estimate under which the block is encoded, whether any value was a NaN, whether any was not zero, and
whether any element was not masked. -/
structure BlockParts where
  parts   : Nat
  est     : W32
  nan     : Bool
  nonzero : Bool
  live    : Bool
deriving DecidableEq, Repr

def BlockParts.none : BlockParts := ⟨0, 0, false, false, false⟩

/-- A CHECK verdict that is not ready (R181): the replay unit of its pass, and the columns whose sums differ. -/
structure Verdict where
  unit : Option W32
  mask : W32
deriving DecidableEq, Repr

/-- A work item that the SQ holds for want of clocks (R54). -/
structure HeldItem where
  isVe   : Bool
  w      : MatWords
  budget : BitVec 20
  job    : Nat
deriving DecidableEq, Repr

/-- What a command in the stream of a cluster is (R763). -/
inductive JobKind where
  | run
  | unitBegin
  | unitEnd
  | fence
  | move
deriving DecidableEq, Repr

/-- A command in the stream of a cluster (R763): the number of the command, its queue and entry, the replay unit it belongs to,
and for an SQ_RUN the commands that its program issues (work items, SIGNALs, WAITs and reads of VSUMQ), those still to issue, the
work items dispatched and not ended, and whether it stands at a WAIT. `held` marks a command that a halt holds. -/
structure SqJob where
  id      : Nat
  part    : Pt
  qj      : Fin 16
  e       : Entry
  kind    : JobKind
  unit    : Option W32
  total   : Nat
  left    : Nat
  running : Nat
  waits   : Bool
  started : Bool
  ended   : Bool
  held    : Bool
deriving DecidableEq, Repr

/-- A cluster (R24, R146–R192, R201, R236, R666, R713–R719). `poisonNew` marks the poisoned words not yet read, `ueNew` those
of them that an uncorrectable error poisoned, `soft` the words with a correctable error (R156, R713); `accepted` counts the
passes that the ME has accepted and `drains` those drained; `blocks` holds the estimated blocks written in part, by the address of
their scale byte; `window` holds the transfers that wait for drains (R233). -/
structure Cluster where
  part      : Option Pt
  fenced    : Bool
  fenceCause : Byte
  frozen    : Bool
  unlocked  : Bool
  spad      : Memory
  poison    : Sparse Bool
  poisonNew : Sparse Bool
  ueNew     : Sparse Bool
  soft      : Sparse Bool
  code      : Sparse Bool
  tiles     : Sparse W32
  est       : Sparse Estimator
  blocks    : Sparse BlockParts
  meQueue   : List MeItem
  latches   : List Latch
  accepted  : Nat
  drains    : Nat
  drainBuf  : Option DrainBuf
  window    : List Pinned
  heldWork  : List HeldItem
  jobs      : List SqJob
  verdicts  : List Verdict
  ve        : Ve
  mismatch  : List W64
  spadCe    : W64
  ueTicks   : List W64
  suspect   : Bool
  waitOut   : Byte
deriving DecidableEq, Repr

/-! ## Presses -/

/-- A press image (R334): instructions, region descriptors of 16 words, and its bytes for the digest of R337. -/
structure Image where
  instrs  : List W64
  regions : List (List W64)
  bytes   : Bytes
deriving DecidableEq, Repr

/-- A program slot (R333, R336): the active image and the pending one. -/
structure Slot where
  active  : Option Image
  pending : Option Image
deriving DecidableEq, Repr

/-- A write that waits for the end of its grain (R346, R347). -/
structure GrainWrite where
  stream : Nat
  group  : Nat
  lanes  : List W32
  stoch  : Bool
deriving DecidableEq, Repr

/-- A pass in progress on a press (R342–R347): partition, pass (1, 2, or 3 for SPARSE), the press whose slot it runs
(taken over regions, R377), region, grain, group, program counter, body flag, the registers after the prologue, rows
read of each MAT stream, the grain's writes, and why the grain would be kept. -/
structure PressRun where
  part    : Pt
  pass    : Nat
  slotOf  : Ps
  region  : Nat
  grain   : Nat
  group   : Nat
  pc      : Nat
  body    : Bool
  base    : VecRegs
  rows    : Vector Nat 6
  writes  : List GrainWrite
  bad     : Byte
deriving DecidableEq, Repr

/-- A press, or the cellar press (R330–R380). `tookOver` and `byCellar` have a bit for each partition: whose pass the cellar press has
taken over in this step, and whose regions it updates (R377, R379). -/
structure Press where
  slots     : Vector Slot 4
  regs      : VecRegs
  run       : Option PressRun
  ready     : List (Pt × Nat × Ps)
  fresh     : Nat
  tookOver  : BitVec 4
  suspended : List PressRun
  faulted   : Bool
  fenced    : Bool
  fenceReq  : Bool
  unfence   : Bool
  faultClr  : Bool
  unlocked  : Bool
  byCellar  : BitVec 4
  progValid : Bool
  progRegion : BitVec 9
  progGrain : BitVec 40
  stepLow   : W32
  lastPart  : BitVec 2
deriving DecidableEq, Repr

/-! ## HBM and the cellar -/

/-- What the controller keeps of a line (R419, R420, R529–R537): whether it has been written since its object was
allocated, the key ID and generation of the last write, its write counter, the poison marker, an uncorrectable and a
correctable error that nothing has found yet, and stored bits whose tag fails. -/
structure LineMeta where
  written : Bool
  keyId   : Byte
  gen     : BitVec 24
  ctr     : BitVec 16
  poison  : Bool
  ue      : Bool
  ce      : Bool
  bad     : Bool
deriving DecidableEq, Repr

def LineMeta.zero : LineMeta := ⟨false, 0, 0, 0, false, false, false, false⟩

/-- A region that re-keys or waits for a generation slot (R539–R544). -/
structure Rekey where
  region  : Nat
  keyId   : Byte
  part    : Pt
  oldGen  : BitVec 24
  newGen  : BitVec 24
  ptr     : Nat
  waiting : Bool
  failed  : Bool
  bounds  : Nat
deriving DecidableEq, Repr

/-- The counter trees of a memory controller and its counter cache (R531–R535, R537): the entry that covers a block or node, in its
parent or on die; its tag in DRAM, where it has left the cache; the blocks and nodes in the cache, least recently used first, with
whether each has changed; those whose copy in DRAM has been changed from outside; and those whose tag has failed. -/
structure CtrTree where
  entries  : Sparse W64
  tags     : Sparse W64
  cache    : List (Nat × Bool)
  tampered : List Nat
  failed   : List Nat
deriving DecidableEq, Repr

/-- A scrubber (R422, R424). -/
structure Scrubber where
  level    : BitVec 3
  quiet    : Nat
  ceSecond : Nat
  freeze   : Bool
  levelSet : BitVec 3
deriving DecidableEq, Repr

/-- A stack with its memory controller (R388–R392, R419–R427, R531–R544, R717, R720). -/
structure Stack where
  mem        : Memory
  lines      : Sparse LineMeta
  trained    : Bool
  fenced     : Bool
  fenceCause : Byte
  unlocked   : Bool
  poisonSeen : Bool
  ue         : W32
  ce         : W32
  poisonAddr : Option (BitVec 44)
  scrub      : Scrubber
  ueTicks    : List W64
  gens       : Sparse (BitVec 24)
  rekeys     : List Rekey
  clearing   : List Nat
  toScrub    : List Nat
  tree       : CtrTree
  reservedBits : Vector W64 3
deriving DecidableEq, Repr

/-- A cellar request in flight (R415–R418): the MOVE or refill it belongs to, the boundary tick at whose end it is
late, source, destination and length, whether the cellar serves any of it, and the pages that it takes over cellar ports with the port
of each (R413, R414). -/
structure CellarReq where
  id       : Nat
  part     : Pt
  qj       : Fin 16
  tag      : BitVec 16
  cluster  : Tc
  src      : Nat
  dst      : Nat
  len      : Nat
  deadline : W64
  cellar   : Bool
  pieces   : List (Nat × Option Cp)
deriving DecidableEq, Repr

/-- A write that waits for a generation slot or for the pointer of a re-key (R542, R544): that of a MOVE whose last byte has come, of a
CELLAR_COPY, of a page fetched into a copy, of an EAGER fill, of the grain that a press has ended, of an image read at the merge window,
or of a touched bit (R348, R350). -/
inductive Stalled where
  | move (id : Nat) (ccError : Bool)
  | copy (k : Pt) (tag : BitVec 16)
  | page (k : Pt) (obj : BitVec 16) (page : Nat)
  | fill (k : Pt) (f : FillIn)
  | grain (p : Ps)
  | image (k : Pt) (c : Tc) (dst : BitVec 52) (bytes : Bytes)
  | touched (k : Pt) (bitmap grain : Nat) (value : Bool)
deriving DecidableEq, Repr

/-- A page named by an invalidation notice (R407, R408): partition, object, page; page none names the whole object. -/
structure Notice where
  part : Pt
  obj  : BitVec 16
  page : Option Nat
deriving DecidableEq, Repr

/-- The cellar, the CC and the cellar ports (R389, R398–R418, R421–R430, R549, R550). -/
structure Cellar where
  mem       : Memory
  lines     : Sparse LineMeta
  gens      : Sparse (BitVec 24)
  rekeys    : List Rekey
  clearing  : List Nat
  toScrub   : List Nat
  tree      : CtrTree
  attested  : Bool
  up        : Bool
  cpUp      : BitVec 4
  cpFenced  : BitVec 4
  cpMove    : Bool
  resends   : W64
  tries     : Vector Nat 4
  notices   : List Notice
  batch     : Option (List Notice)
  late      : Bool
  noticeLate : W64
  lastWrite : BitVec 4
  ce        : W64
  ue        : W64
  scrub     : Scrubber
  firmware  : Option Cp
deriving DecidableEq, Repr

/-! ## Link ports -/

/-- The states of a port (R478). -/
inductive PortState where
  | down
  | training
  | handshake
  | up
  | degraded
  | fenced
  | refused
deriving DecidableEq, Repr

/-- A held DATA flit (R454, R462–R466). -/
structure HeldFlit where
  part    : Pt
  stream  : BitVec 12
  seq     : W32
  tent    : Bool
  last    : Bool
  data    : Bytes
  vc      : BitVec 2
  tick    : W64
deriving DecidableEq, Repr

/-- The progress of a handshake (R480, R481): messages sent and received, the peer's HELLO, the last reason of a REFUSE,
the messages of the two sides in their order, the private number of the own ephemeral key, and the peer's ephemeral key. -/
structure Handshake where
  sent   : Nat
  got    : Nat
  peer   : Option HelloMsg
  refuse : Byte
  own    : List Bytes
  peers  : List Bytes
  priv   : Nat
  pub    : Bytes
deriving DecidableEq, Repr

/-- The re-key of one direction (R483): the exchange of EVIDENCE and FINISH, which begins again after HELLO and CERT, and the later of the
boundaries that the two sides have named. -/
structure LinkRekey where
  out    : Bool
  shake  : Handshake
  at_    : W64
deriving DecidableEq, Repr

/-- A flit that the device has sent (R433, R445, R458): port, slot, flit number, key epoch, the fields of its header, payload. -/
structure SentFlit where
  port    : Lp
  slot    : Fin 64
  num     : Nat
  epoch   : W32
  typ     : BitVec 4
  vc      : BitVec 2
  part    : BitVec 2
  crvc    : BitVec 2
  crd     : BitVec 12
  nak     : Bool
  ack     : BitVec 19
  stream  : BitVec 12
  seq     : W32
  tent    : Bool
  last    : Bool
  payload : Bytes
deriving DecidableEq, Repr

/-- The arbiter of the shared L3 capacity of a port (R87, R88): compute clocks since the last report, the weight of each partition's
input from it, the leaf requesters that have posted since, the deficits in bytes, the input whose turn it is and whether its turn has
begun, and the route of each partition served last. -/
structure Arbiter where
  clocks  : Nat
  weights : Vector Nat 4
  posted  : List (Pt × BitVec 16)
  deficit : Vector Nat 4
  turn    : Pt
  begun   : Bool
  leaf    : Vector (BitVec 16) 4
deriving DecidableEq, Repr

/-- A constellation link port (R431–R490, R499, R500, R758–R760). -/
structure Port where
  state       : PortState
  width       : BitVec 4
  peerId      : BitVec 16
  lanesFenced : Byte
  opLanes     : Byte
  lanesSent   : Byte
  peerLanes   : Byte
  widthDue    : Bool
  widthSent   : Bool
  treeParent  : Bool
  treeChild   : Bool
  upSeen      : Bool
  upDeep      : Byte
  treeDepth   : Byte
  fence       : Bool
  fenceCause  : BitVec 3
  eqFreeze    : Bool
  unlocked    : Bool
  tagFails    : BitVec 16
  protoStr    : BitVec 16
  crcRes      : W32
  tagTotal    : W64
  protoTotal  : W64
  crcTotal    : W64
  window      : List (W64 × Nat × Nat × Nat)
  resends     : Nat
  nak         : Bool
  rxNum       : Nat
  txNum       : Nat
  replay      : List SentFlit
  ackTold     : Nat
  epochIn     : W32
  epochOut    : W32
  rekey       : Option LinkRekey
  rekeyDue    : List (Bool × W64 × Bytes)
  credits     : Vector Nat 4
  free        : Vector Nat 4
  freed       : Vector Nat 4
  devId       : BitVec 16
  constId     : W32
  slotMap     : Bytes
  peerMap     : Bytes
  l2Buf       : BitVec 16
  l2BufW      : BitVec 16
  mismatch    : W64
  linkDelay   : W32
  preFec      : W32
  held        : List HeldFlit
  discards    : W64
  lost        : W64
  shake       : Handshake
  shakeOut    : List Bytes
  backoff     : Nat
  qfSlot      : Nat
  qfCount     : Nat
  txSlot      : Fin 64
  l0Count     : Nat
  qfWait      : List (Pt × Bytes)
  carry       : List (Pt × Nat × Nat)
  arb         : Arbiter
  odpCount    : Nat
  plug        : Byte
  cableCm     : BitVec 16
  quenched    : Bool
  unquench    : Bool
  reservedBits : Vector W64 3
  lastTx      : W32
  lastRx      : W32
  geFenced    : Bool
deriving DecidableEq, Repr

/-- A route that has been activated (R453–R457): its port, the STREAM of its flits, bytes moved, the SEQ of its first flit
and of the next one, the unit that makes it tentative and the tick in which that unit retired, the tick and the flit number
of its last flit, whether all of it has been sent and acknowledged and its token sent, its first error, and the bytes of
an image that arrives. -/
structure RouteRun where
  part     : Pt
  idx      : BitVec 16
  port     : Lp
  stream   : BitVec 12
  bytes    : Nat
  seqFirst : W32
  seq      : W32
  unit     : Option W32
  commitTick : Option W64
  sendTick : W64
  lastNum  : Nat
  sentAll  : Bool
  acked    : Bool
  tokenSent : Bool
  err      : Byte
  buf      : Bytes
deriving DecidableEq, Repr

/-- The decision that the lodestar, or a device, holds of a job (R472–R475). -/
structure Job where
  id       : Byte
  round    : BitVec 4
  state    : BitVec 2
  stepLo   : BitVec 16
  excess   : Bool
deriving DecidableEq, Repr

/-- A report gathered from the subtree in the current control slot (R472). -/
structure Report where
  port  : Option Lp
  job   : Byte
  round : BitVec 4
  nf    : Bool
  nrep  : Nat
deriving DecidableEq, Repr

/-- A NORM exchange in progress (R476): job, children heard, sum. -/
structure NormRun where
  part    : Pt
  heard   : BitVec 18
  sum     : NormPartial
  own     : Bool
deriving DecidableEq, Repr

/-- The constellation as the device sees it (R458–R476, R491–R501). `gaps` holds the revoked stream positions that a
receive route passes over, and `sendSeq` the position at which a revoked send goes on (R318, R465). -/
structure Links where
  deviceId    : BitVec 16
  deviceIdW   : BitVec 16
  constId     : W32
  constIdW    : W32
  pref        : BitVec 2
  lodestar    : BitVec 16
  lodePref    : BitVec 2
  standby     : BitVec 16
  epoch       : W32
  depth       : Byte
  depthMax    : Byte
  parentPort  : Byte
  timeOffset  : W32
  timeRef     : Byte
  locked      : Bool
  fenceTag    : BitVec 16
  fenceProto  : BitVec 16
  fenceCrc    : W32
  acceptFw    : Bytes
  jobSize     : Sparse W32
  jobSizeNew  : List (Byte × W32)
  jobTurn     : Nat
  jobNow      : Nat
  jobUrgent   : List (Byte × Nat)
  mismatch    : W64
  changes     : W64
  candId      : BitVec 16
  candPref    : BitVec 2
  selfCount   : Nat
  noTime      : Nat
  slotsOff    : Bool
  electing    : Bool
  jobs        : List Job
  reports     : List Report
  treeCand    : BitVec 16
  treeCandPref : BitVec 2
  timeSeen    : List (Lp × BitVec 16 × Byte)
  routes      : List RouteRun
  gaps        : List (Pt × BitVec 12 × W32 × W32)
  sendSeq     : List (Pt × BitVec 16 × W32)
  norms       : List NormRun
  normOut     : List (Lp × Pt × BitVec 12 × NormPartial)
  sent        : List SentFlit
  tokensDue   : List (Lp × Token)
  quenchAll   : Bool
  unquench    : Bool
deriving DecidableEq, Repr

/-! ## Keys, life cycle, entropy -/

/-- A slot of the key table (R577) with its key material. -/
structure KeySlot where
  valid   : Bool
  parent  : BitVec 10
  usage   : BitVec 3
  world   : BitVec 2
  part    : BitVec 3
  masters : Byte
  lcMask  : Byte
  party   : Byte
  keyId   : Byte
  kgen    : BitVec 24
  key     : Bytes
deriving DecidableEq, Repr

def KeySlot.empty : KeySlot := ⟨false, 0, 0, 0, 7, 0, 0, 0xFF, 0, 0, []⟩

/-- The key table (R576–R583, R606). `dying` lists destroyed slots until the sweep. -/
structure Keys where
  slots     : Sparse KeySlot
  dying     : List (Fin 1024)
  select    : BitVec 16
  attr      : Bytes
  sweeps    : W64
  invalid   : W64
deriving DecidableEq, Repr

/-- The life-cycle words of OTP (R586). -/
structure Otp where
  mile      : Vector W32 8
  ent       : Vector W32 8
  testCycle : W64
  svnSfw    : W64
  svnDfw    : W64
  opDigest  : Bytes
  opKill    : W32
  uid       : W64
  uds       : Bytes
  trim      : Bytes
  stepping  : BitVec 16
  serial    : Bytes
deriving DecidableEq, Repr

/-- A flash copy of an image (R585, R602): SVN, digest, whether its signature verifies, and whether that is a test signature. -/
structure FlashImage where
  svn      : Nat
  digest   : Bytes
  verifies : Bool
  test     : Bool
deriving DecidableEq, Repr

/-- What the flash holds (R597, R602, R613, R723): images A and B, stored settings, scan content. -/
structure Flash where
  sfwA : FlashImage
  sfwB : FlashImage
  dfwA : FlashImage
  dfwB : FlashImage
  saved : List (BitVec 16 × Byte × Bytes)
  userCerts : Bytes
  deviceIdCert : Bytes
deriving DecidableEq, Repr

/-- The security core (R565–R575, R585–R606). -/
structure Sc where
  otp        : Otp
  flash      : Flash
  lc         : BitVec 8
  lcPending  : Byte
  lcRequest  : Option (Byte × Bytes)
  lcNonce    : Bytes
  stage      : Byte
  restart    : Bool
  recovery   : Bool
  sfwCopyB   : Bool
  dfwCopyB   : Bool
  sfwSvn     : BitVec 16
  dfwSvn     : BitVec 16
  sfwDigest  : Bytes
  dfwDigest  : Bytes
  romDigest  : Bytes
  esState    : BitVec 2
  esFails    : Nat
  roundReqs  : Nat
  gateReqs   : Nat
  wipeReps   : BitVec 16
  stray      : Byte
  bootTimes  : Bytes
  keys       : Keys
deriving DecidableEq, Repr

/-! ## Dictionary, two-party control, SPDM -/

/-- An ODP session (R626–R634). -/
structure OdpSession where
  id       : BitVec 16
  src      : OdpSrc
  party    : Bool
  part     : Option Pt
  lastSeq  : Option (BitVec 16)
  lastResp : Bytes
  staging  : List (BitVec 16 × Byte × Bytes)
  snaps    : List (BitVec 16 × Byte × Bytes)
deriving DecidableEq, Repr

/-- A join message that leaves (R519): SESSION_JOIN of a device that is not the anchor, or the anchor's answer, which is encrypted. -/
inductive JoinSent where
  | join (session pm pubKey sig : Bytes)
  | answer (dest : BitVec 16) (session pubKey sealed : Bytes)
deriving DecidableEq, Repr

/-- The dictionary's own state (R607–R637). -/
structure Dict where
  sessions    : List OdpSession
  dropped     : W64
  routeDrops  : W64
  out         : List Bytes
  saving      : Bool
  ipv4        : W32
  ipv4Mask    : W32
  plcaNode    : Byte
  plcaCount   : Byte
  eid         : Option Byte
  odpOut      : List (Lp × Bytes)
  joinOut     : List JoinSent
deriving DecidableEq, Repr

/-- Two-party change control (R640–R650). -/
structure Change where
  set        : Bytes
  byParty    : Option Pt
  nonce      : Bytes
  digest     : Bytes
  state      : BitVec 2
  required   : BitVec 16
  received   : BitVec 16
  approvers  : List (Pt × Byte)
  lastResult : Byte
  lastDigest : Bytes
  timeout    : BitVec 16
  timeoutNow : BitVec 16
  commits    : W64
  rejected   : W64
  armWrites  : W64
deriving DecidableEq, Repr

/-- An SPDM connection (R516): its stage and, once FINISH verifies, the party key that authenticated it. -/
structure SpdmConn where
  conn      : Nat
  overUdp   : Bool
  addr      : W32
  stage     : Nat
  requester : Bytes
  secure    : Bool
  updates   : Nat
deriving DecidableEq, Repr

/-! ## Host side, power, test, pins -/

/-- An MSI-X vector (R681, R682): address, data, mask, pending. -/
structure MsixVec where
  addr    : W64
  data    : W32
  mask    : Bool
  pending : Bool
deriving DecidableEq, Repr

/-- A vector after reset: its mask bit is set, as PCIe defines it (notes/assumptions/12.md, PRESUMED). -/
def MsixVec.reset : MsixVec := ⟨0, 0, true, false⟩

/-- The host port (R651–R683): global registers, the lock of the global block, MSI-X tables and what the module has
written to host memory, sent as messages and returned on the last read. -/
structure HostIf where
  event     : BitVec 10
  eventEn   : BitVec 10
  clkFreq   : BitVec 12
  fixFreq   : Bool
  avsFreeze : Bool
  clkNew    : Option (BitVec 12 × Bool × Bool)
  scanTc    : BitVec 16
  scanLd    : BitVec 2
  unlocked  : Bool
  admin     : Queue
  inflight  : List Pending
  msixPf    : Sparse MsixVec
  msixVf    : Vector (Sparse MsixVec) 4
  fnMask    : BitVec 5
  hostMem   : Memory
  sentMsix  : List (BitVec 3 × BitVec 11)
  readOut   : W64
  partLocks : BitVec 4
deriving DecidableEq, Repr

/-- Power, clocks and thermal (R684–R707, R756). -/
structure Power where
  rails       : Bool
  pwrgd       : Bool
  thermtrip   : Bool
  inputV      : W32
  inputA      : W32
  inputW      : W32
  limit       : BitVec 16
  limitW      : BitVec 16
  step        : BitVec 3
  cause       : Byte
  mhz         : BitVec 16
  vddUv       : Nat
  calmAvs     : Nat
  tjMax       : W32
  thbmMax     : W32
  tjWarn      : Byte
  tjWarnW     : Byte
  tjLimit     : Byte
  tjLimitW    : Byte
  thbmLimit   : Byte
  thbmLimitW  : Byte
  floor       : Byte
  floorW      : Byte
  stretch     : W64
  stretchTick : W64
  throttled   : W64
  trips       : BitVec 16
  lastOff     : Byte
  railStatus  : Bytes
  calm        : Nat
  excessUs    : Nat
  limiter     : Bool
  droop       : Bool
  sampleTick  : W64
  limitHit    : Byte
  history     : List Bytes
  lugShare    : Byte
  refLost     : Bool
  lref        : Bool
  wantRails   : Bool
  perstSeen   : Bool
  lastVolts   : W32
deriving DecidableEq, Repr

/-- Field test (R708–R730). -/
structure Test where
  state      : Byte
  tcTarget   : BitVec 16
  ldTarget   : BitVec 2
  drained    : BitVec 4
  began      : W64
  tcResult   : W32
  ld0Result  : W32
  ld1Result  : W32
  tick       : W64
  suspectAt  : BitVec 16
  spadUe     : BitVec 16
  spadUeW    : BitVec 16
  stackUe    : BitVec 16
  stackUeW   : BitVec 16
  drainLimit : BitVec 16
  runs       : W32
  failed     : W32
  contentOk  : Bool
  geFenced   : Byte
deriving DecidableEq, Repr

/-- Pins, straps, tick pin and JTAG (R734–R752). -/
structure Pins where
  perst      : Bool
  strapId    : BitVec 16
  strapLs    : BitVec 2
  strapPlca  : BitVec 5
  tickMode   : Byte
  tickModeW  : Byte
  tickOut    : Bool
  capTick    : W64
  capOffset  : W32
  capCount   : W64
  jtagIr     : Byte
  jtagDr     : W32
  boundary   : Bytes
  extest     : Bool
deriving DecidableEq, Repr

/-- The meridian (R42–R50) and the memory-tier settings of R428. -/
structure Meridian where
  tick       : W64
  periodUs   : Byte
  periodNew  : Option (Byte × W64)
  effective  : W64
  clocksLast : W32
  slotNs     : W32
deriving DecidableEq, Repr

/-- A WAIT in the sync-object file (R76–R80). `origin` is the unit it came from (R761); `arrived` marks one that reached the
file in the clock still open, `due` one whose timeout expires in it, `coin` one that only a SIGNAL of this clock can
satisfy, and `open_` one whose command says that the clock goes on. -/
structure Waiter where
  id     : Nat
  part   : Pt
  src    : Option Tc
  qj     : Fin 16
  tag    : BitVec 16
  obj    : BitVec 14
  n      : BitVec 16
  ticks  : Bool
  left   : Nat
  origin  : Origin
  arrived : Bool
  due     : Bool
  coin    : Bool
  open_   : Bool
deriving DecidableEq, Repr

/-- The memory-tier settings (R428). -/
structure Tiers where
  baseH   : BitVec 16
  baseHW  : BitVec 16
  up      : BitVec 16
  upW     : BitVec 16
deriving DecidableEq, Repr

/-- A sequence context (R184, R185, R189): owner, contents, and what a write makes it at the next boundary. -/
structure SeqCtx where
  bytes : Bytes
  next  : Option Bytes
deriving DecidableEq, Repr

/-- Why the machine stops with a fault: never. Where a rule lays an obligation on the sender and no rule covers its breach, the
outcome is undefined only for the partition that issued the access (R12), and the machine goes on (notes/assumptions/155.md). -/
inductive Fault
deriving DecidableEq, Repr

/-- Why a command has no meaning. -/
inductive Refusal where
  /-- Raised by an arm of exec that is not modelled yet. Safe. -/
  | notModelled (mnemonic : String)
deriving DecidableEq, Repr

/-- The SKU (R5, R9): true for VF8-16H8, false for VF8-12H6. -/
abbrev Full := Bool

/-- The whole module. `pending` is the queue of commands that wait; `fresh` counts the free values drawn so far (the
model's own field: Config.freeByte applied to it is what the module draws). `noc` lists the grant units of the on-die frame
that confidential partitions own (R91). -/
structure State where
  pending  : List Instr
  full     : Full
  fresh    : Nat
  nextId   : Nat
  meridian : Meridian
  tiers    : Tiers
  sync     : Sparse W32
  waiters  : List Waiter
  seqs     : Vector SeqCtx 64
  clusters : Vector Cluster 16
  parts    : Vector Partition 4
  pools    : Vector Pool 4
  noc      : Sparse (Option Pt)
  presses  : Vector Press 9
  hbs      : Vector Stack 8
  cellar   : Cellar
  reqs     : List CellarReq
  stalled  : List Stalled
  ports    : Vector Port 18
  links    : Links
  sc       : Sc
  dict     : Dict
  change   : Change
  spdm     : List SpdmConn
  host     : HostIf
  power    : Power
  test     : Test
  pins     : Pins
  log      : Log
deriving DecidableEq, Repr

/-! ## After module reset

Every field at the value that the spec states for reset or as a default of the dictionary (R610); the others at the
values that notes/assumptions/5.md and 6.md name. -/

def Session.reset : Session :=
  { state := 0, manifest := [], held := [], digest := List.replicate 48 0, pm := List.replicate 48 0, delivered := 0,
    policy := [], stepLeft := 0, totalLeft := 0, transcript := [], chain := [], fromEntry := 1,
    pubKey := List.replicate 96 0, rekeys := 0, exhausted := 0, integrity := 0, refused := 0, clamps := 0,
    ringStalls := 0, joined := false, peers := [], peerKeys := [], releases := [], closing := false, closeW := 0,
    smkSlot := none, roundSlot := none }

def NormPartial.zero : NormPartial := { value := 0, low := false, range := false, nf := false, owners := 0 }

def Step.reset : Step :=
  { phase := .compute, endTick := 0, fences := 0, nextFences := 0, localNf := false, nextNf := 0, nfCauses := 0, finalNf := false, round := 0, number := 1,
    numberW := none, service := 0, serviceW := 0, normWexp := 0, g2 := 0, updateSync := 0, seed := [], seedW := none,
    digest := List.replicate 48 0, eta := 0, etaTick := 0, etaLatched := 0, etaFresh := false,
    partial_ := NormPartial.zero, combined := none, unitsDone := 0, owners := 0 }

def Partition.reset : Partition :=
  { state := 0, clusters := 0, hbMask := 0, pool := 0xFF, jobId := 0, dataQueues := 0, dqBase := 0, seqContexts := 0,
    vfAssigned := false, debug := false, accBase := 0, accSize := 0, holdBase := 0, holdSize := 0, spillSize := 0,
    cellarQuota := 0, syncFirst := 0, syncCount := 0, nocShare := 0, ckptObj := [], cellarShare := 0,
    destroying := none, halting := false, policy := Policy.default, counters := Counters.zero, log := Log.empty,
    step := Step.reset, objs := [], gens := [], marks := [], units := [], mem := [], lastGens := [], ctrl := Queue.reset,
    data := Vector.replicate 16 Queue.reset, inflight := [], held := [], syncOvf := 0, event := 0, evEnable := false,
    evVector := 0, evVf := false, heldMsix := [], relBase := 0, relEnable := false, relLog2 := 0, relHead := 0, relTail := 0,
    session := Session.reset, pmkSlot := none, powerW := 0, quenched := false, unquench := false }

def Ve.reset : Ve :=
  { regs := VecRegs.zero, run := none, queue := [], items := 0, icache := [], loadWait := none, summary := [], sumOut := 0,
    flagsLast := 0, faultKind := 0, faultPc := 0, faultLane := 0 }

def Cluster.reset : Cluster :=
  { part := none, fenced := false, fenceCause := 0, frozen := false, unlocked := false, spad := [], poison := [],
    poisonNew := [], ueNew := [], soft := [], code := [], tiles := [], est := [], blocks := [], meQueue := [], latches := [], accepted := 0,
    drains := 0, drainBuf := none, window := [], heldWork := [], jobs := [],
    verdicts := [], ve := Ve.reset, mismatch := [], spadCe := 0, ueTicks := [], suspect := false,
    waitOut := 0 }

def Press.reset : Press :=
  { slots := Vector.replicate 4 { active := none, pending := none }, regs := VecRegs.zero, run := none, ready := [], fresh := 0, tookOver := 0,
    suspended := [], faulted := false, fenced := false, fenceReq := false, unfence := false, faultClr := false,
    unlocked := false, byCellar := 0, progValid := false, progRegion := 0, progGrain := 0, stepLow := 0,
    lastPart := 0 }

def Scrubber.reset : Scrubber := { level := 0, quiet := 0, ceSecond := 0, freeze := false, levelSet := 0 }

def CtrTree.reset : CtrTree := { entries := [], tags := [], cache := [], tampered := [], failed := [] }

def Stack.reset : Stack :=
  { mem := [], lines := [], trained := false, fenced := false, fenceCause := 0, unlocked := false, poisonSeen := false,
    ue := 0, ce := 0, poisonAddr := none, scrub := Scrubber.reset, ueTicks := [], gens := [], rekeys := [],
    clearing := [], toScrub := [], tree := CtrTree.reset, reservedBits := Vector.replicate 3 0 }

def Cellar.reset : Cellar :=
  { mem := [], lines := [], gens := [], rekeys := [], clearing := [], toScrub := [], tree := CtrTree.reset, attested := false, up := false, cpUp := 0xF, cpFenced := 0,
    cpMove := false, resends := 0, tries := Vector.replicate 4 0, notices := [], batch := none, late := false, noticeLate := 0, lastWrite := 0,
    ce := 0, ue := 0, scrub := Scrubber.reset, firmware := none }

/-- SLOT_MAP after reset (R500): 0x8F, then 31 times 0x88. -/
def defaultSlotMap : Bytes := 0x8F :: List.replicate 31 0x88

/-- No input has a weight, and the first slot brings a report. -/
def Arbiter.reset : Arbiter :=
  { clocks := 1024, weights := Vector.replicate 4 0, posted := [], deficit := Vector.replicate 4 0, turn := 0, begun := false,
    leaf := Vector.replicate 4 0 }

def Handshake.reset : Handshake := { sent := 0, got := 0, peer := none, refuse := 0, own := [], peers := [], priv := 0, pub := [] }

def Port.reset : Port :=
  { state := .down, width := 0, peerId := 0, lanesFenced := 0, opLanes := 0, lanesSent := 0, peerLanes := 0, widthDue := false, widthSent := false,
    treeParent := false, treeChild := false, upSeen := false, upDeep := 0, treeDepth := 0xFF, fence := false, fenceCause := 0, eqFreeze := false,
    unlocked := false, tagFails := 0, protoStr := 0, crcRes := 0, tagTotal := 0, protoTotal := 0, crcTotal := 0,
    window := [], resends := 0, nak := false, rxNum := 0, txNum := 0, replay := [], ackTold := 0, epochIn := 0, epochOut := 0, rekey := none, rekeyDue := [],
    credits := Vector.replicate 4 0, free := Vector.replicate 4 0, freed := Vector.replicate 4 0, devId := 0xFFFF, constId := 0, slotMap := defaultSlotMap, peerMap := [],
    l2Buf := 12288, l2BufW := 12288, mismatch := 0, linkDelay := 0, preFec := 0, held := [], discards := 0, lost := 0,
    shake := Handshake.reset, shakeOut := [], backoff := 1, qfSlot := 0, qfCount := 0, txSlot := 0, l0Count := 0, qfWait := [], carry := [], arb := Arbiter.reset, odpCount := 0, plug := 0, cableCm := 0, quenched := false,
    unquench := false, reservedBits := Vector.replicate 3 0, lastTx := 0, lastRx := 0, geFenced := false }

def Links.reset : Links :=
  { deviceId := 0xFFFF, deviceIdW := 0xFFFF, constId := 0, constIdW := 0, pref := 0, lodestar := 0, lodePref := 0, standby := 0, epoch := 0, depth := 0xFF, depthMax := 0,
    parentPort := 0xFF, timeOffset := 0, timeRef := 0, locked := false, fenceTag := 16, fenceProto := 64,
    fenceCrc := 4096, acceptFw := List.replicate 384 0, jobSize := [], jobSizeNew := [], jobTurn := 1, jobNow := 1, jobUrgent := [],
    mismatch := 0, changes := 0, candId := 0xFFFF, candPref := 0, selfCount := 0, noTime := 0, slotsOff := true,
    electing := false, jobs := [], reports := [], treeCand := 0xFFFF, treeCandPref := 0, timeSeen := [], routes := [], gaps := [], sendSeq := [],
    norms := [], normOut := [], sent := [], tokensDue := [], quenchAll := false, unquench := false }

/-- The OTP of a part in DEPLOYED (R586, R587): the marks of TEST_LOCKED, MANUFACTURED, PROVISIONED and DEPLOYED with
their entering words, one completed test cycle. -/
def Otp.deployed : Otp :=
  { mile := (((((Vector.replicate 8 (0 : W32)).set 1 0x0F0F0F0F).set 3 0x33333333).set 4 0x55555555).set 5 0x00FF00FF),
    ent := (((((Vector.replicate 8 (0 : W32)).set 1 0xF0F0F0F0).set 3 0xCCCCCCCC).set 4 0xAAAAAAAA).set 5 0xFF00FF00),
    testCycle := 3, svnSfw := 0, svnDfw := 0, opDigest := Config.operatorDigest.toList, opKill := 0, uid := Config.uid,
    uds := Config.uds.toList, trim := Config.trim.toList, stepping := Config.dieStepping, serial := Config.serial }

/-- The flash as shipped: both copies of each image verify. -/
def Flash.shipped : Flash :=
  { sfwA := ⟨Config.sfwSvn.1, Config.sfwDigest.toList, true, false⟩, sfwB := ⟨Config.sfwSvn.1, Config.sfwDigest.toList, true, false⟩,
    dfwA := ⟨Config.dfwSvn.1, Config.dfwDigest.toList, true, false⟩, dfwB := ⟨Config.dfwSvn.1, Config.dfwDigest.toList, true, false⟩, saved := [],
    userCerts := [], deviceIdCert := Config.deviceIdCert }

def Keys.reset : Keys := { slots := [], dying := [], select := 0, attr := List.replicate 4 0, sweeps := 0, invalid := 0 }

def Sc.reset : Sc :=
  { otp := Otp.deployed, flash := Flash.shipped, lc := 0, lcPending := 0xFF, lcRequest := none,
    lcNonce := (List.range 48).map fun i => Config.freeByte (48 + i), stage := 0, restart := false, recovery := false,
    sfwCopyB := false, dfwCopyB := false, sfwSvn := 0, dfwSvn := 0, sfwDigest := [], dfwDigest := [],
    romDigest := Config.romDigest.toList, esState := 0, esFails := 0, roundReqs := 0, gateReqs := 0, wipeReps := 0, stray := 0, bootTimes := List.replicate 18 0, keys := Keys.reset }

def Dict.reset : Dict :=
  { sessions := [], dropped := 0, routeDrops := 0, out := [], saving := false, ipv4 := 0,
    ipv4Mask := 0xFFFF0000, plcaNode := 0, plcaCount := 8, eid := none, odpOut := [], joinOut := [] }

def Change.reset : Change :=
  { set := [], byParty := none, nonce := (List.range 48).map fun i => Config.freeByte i,
    digest := List.replicate 48 0, state := 0, required := 0, received := 0, approvers := [], lastResult := 0,
    lastDigest := List.replicate 48 0, timeout := 600, timeoutNow := 600, commits := 0, rejected := 0, armWrites := 0 }

def HostIf.reset : HostIf :=
  { event := 0, eventEn := 0, clkFreq := 1800, fixFreq := false, avsFreeze := false, clkNew := none, scanTc := 0,
    scanLd := 0, unlocked := false, admin := Queue.reset, inflight := [], msixPf := [],
    msixVf := Vector.replicate 4 [], fnMask := 0, hostMem := [], sentMsix := [], readOut := 0, partLocks := 0 }

/-- The TDP of the SKU in watts (R5). -/
def tdpWatts (full : Full) : BitVec 16 := if full then 1500 else 1150

def Power.reset (full : Full) : Power :=
  { rails := false, pwrgd := false, thermtrip := false, inputV := 0, inputA := 0, inputW := 0,
    limit := tdpWatts full, limitW := tdpWatts full, step := 0, cause := 0, mhz := 1800, vddUv := 800000,
    calmAvs := 0, tjMax := 0, thbmMax := 0, tjWarn := 95, tjWarnW := 95, tjLimit := 102, tjLimitW := 102,
    thbmLimit := 95, thbmLimitW := 95, floor := 0, floorW := 0, stretch := 0, stretchTick := 0, throttled := 0, trips := 0, lastOff := 0,
    railStatus := List.replicate 16 0, calm := 0, excessUs := 0, limiter := false, droop := false, sampleTick := 0,
    limitHit := 0, history := [], lugShare := 0, refLost := false, lref := true, wantRails := false,
    perstSeen := false, lastVolts := 0 }

def Test.reset : Test :=
  { state := 0, tcTarget := 0, ldTarget := 0, drained := 0, began := 0, tcResult := 0, ld0Result := 0, ld1Result := 0,
    tick := 0, suspectAt := 4, spadUe := 8, spadUeW := 8, stackUe := 64, stackUeW := 64, drainLimit := 256, runs := 0,
    failed := 0, contentOk := true, geFenced := 0 }

def Pins.reset : Pins :=
  { perst := true, strapId := 0xFFFF, strapLs := 0, strapPlca := 0x1F, tickMode := 0, tickModeW := 0, tickOut := false,
    capTick := 0, capOffset := 0, capCount := 0, jtagIr := 0x01, jtagDr := 0, boundary := [], extest := false }

def Pool.reset : Pool :=
  { quota := Vector.replicate 8 0, written := Vector.replicate 8 0, evictions := 0, fails := 0 }

/-- The module right after module reset, before the SC has run its start-up stages. -/
def State.reset : State :=
  { pending := [], full := true, fresh := 96, nextId := 0,
    meridian := { tick := 0, periodUs := 20, periodNew := none, effective := 0, clocksLast := 0, slotNs := 312 },
    tiers := { baseH := 24, baseHW := 24, up := 16, upW := 16 }, sync := [], waiters := [],
    seqs := Vector.replicate 64 { bytes := List.replicate 32 0, next := none },
    clusters := Vector.replicate 16 Cluster.reset, parts := Vector.replicate 4 Partition.reset,
    pools := Vector.replicate 4 Pool.reset, noc := [], presses := Vector.replicate 9 Press.reset,
    hbs := Vector.replicate 8 Stack.reset, cellar := Cellar.reset, reqs := [], stalled := [],
    ports := Vector.replicate 18 Port.reset, links := Links.reset, sc := Sc.reset, dict := Dict.reset,
    change := Change.reset, spdm := [], host := HostIf.reset, power := Power.reset true, test := Test.reset,
    pins := Pins.reset, log := Log.empty }

end Sys2Proof.Machine
end

