-- ==== Sys2Proof/Machine/Bits.lean ====
section
/-! DEFINITION. Fields of words, bytes in little-endian order (spec/00_scope.md R14, R15), saturating counters, and the
sparse maps and memories in their one canonical form. -/

namespace Sys2Proof.Machine

/-! ## Fields and bytes -/

/-- Field w[hi:lo] as a number (R15). -/
def fld {n : Nat} (w : BitVec n) (hi lo : Nat) : Nat := w.toNat / 2 ^ lo % 2 ^ (hi + 1 - lo)

/-- Bit i of w. -/
def bit {n : Nat} (w : BitVec n) (i : Nat) : Bool := w.getLsbD i

/-- w with field [hi:lo] set to v. -/
def setFld {n : Nat} (w : BitVec n) (hi lo v : Nat) : BitVec n :=
  let m := 2 ^ (hi + 1 - lo)
  BitVec.ofNat n (w.toNat / 2 ^ (hi + 1) * 2 ^ (hi + 1) + v % m * 2 ^ lo + w.toNat % 2 ^ lo)

/-- w with bit i set to b. -/
def setBit {n : Nat} (w : BitVec n) (i : Nat) (b : Bool) : BitVec n := setFld w i i b.toNat

/-- The numbers below n whose bits are set in w, rising. -/
def bitList {n : Nat} (w : BitVec n) : List Nat := (List.range n).filter fun i => w.getLsbD i

/-- Number of bits set. -/
def popcount {n : Nat} (w : BitVec n) : Nat := (bitList w).length

/-- v as k bytes, lowest first (R14). -/
def leBytes : (k : Nat) → Nat → Bytes
  | 0, _ => []
  | k + 1, v => BitVec.ofNat 8 v :: leBytes k (v / 256)

/-- The number that bytes spell, lowest first. -/
def leNat : Bytes → Nat
  | [] => 0
  | b :: bs => b.toNat + 256 * leNat bs

/-- The number that bytes spell, highest first. -/
def beNat (bs : Bytes) : Nat := leNat bs.reverse

/-- v as k bytes, highest first. -/
def beBytes (k v : Nat) : Bytes := (leBytes k v).reverse

/-- len bytes from offset o; missing bytes read 0. -/
def slice (bs : Bytes) (o len : Nat) : Bytes :=
  let t := (bs.drop o).take len
  t ++ List.replicate (len - t.length) 0

/-- The number in bytes o to o + k − 1. -/
def numAt (bs : Bytes) (o k : Nat) : Nat := leNat (slice bs o k)

/-- Byte o of bs, 0 beyond its end. -/
def byteAt (bs : Bytes) (o : Nat) : Byte := bs.getD o 0

/-- bs with the bytes `new` at offset o; bytes beyond the end are dropped. -/
def splice (bs : Bytes) (o : Nat) (new : Bytes) : Bytes :=
  bs.take o ++ (new.take (bs.length - o)) ++ bs.drop (o + new.length)

/-- Are all bytes 0? -/
def allZero (bs : Bytes) : Bool := bs.all (· == 0)

/-- An integer in w bits of two's complement as a Nat. -/
def ofInt (w : Nat) (i : Int) : Nat := (i % (2 ^ w : Nat)).toNat

/-! ## Counters -/

/-- A counter that saturates at its greatest value. -/
def satAdd {n : Nat} (w : BitVec n) (k : Nat) : BitVec n := BitVec.ofNat n (min (w.toNat + k) (2 ^ n - 1))

/-! ## Vectors of units -/

/-- Unit i of v changed by f. -/
def vmod {α : Type} {n : Nat} (v : Vector α n) (i : Fin n) (f : α → α) : Vector α n := v.set i.1 (f v[i.1]) i.2

/-- Every unit of v changed by f. -/
def vmap {α : Type} {n : Nat} (v : Vector α n) (f : α → α) : Vector α n := v.map f

/-! ## Sparse maps -/

/-- What index i holds; an unlisted index holds d. -/
def Sparse.get {α : Type} (d : α) : Sparse α → Nat → α
  | [], _ => d
  | (j, x) :: m, i => if i = j then x else if i < j then d else Sparse.get d m i

/-- The map with x at i, before the canonical form drops the default. -/
def Sparse.put {α : Type} : Sparse α → Nat → α → Sparse α
  | [], i, x => [(i, x)]
  | (j, y) :: m, i, x =>
    if i < j then (i, x) :: (j, y) :: m else if i = j then (i, x) :: m else (j, y) :: Sparse.put m i x

/-- The map without index i. -/
def Sparse.erase {α : Type} : Sparse α → Nat → Sparse α
  | [], _ => []
  | (j, y) :: m, i => if i = j then m else if i < j then (j, y) :: m else (j, y) :: Sparse.erase m i

/-- The map with x at i, in canonical form: an entry equal to the default is not listed. -/
def Sparse.set {α : Type} [DecidableEq α] (d : α) (m : Sparse α) (i : Nat) (x : α) : Sparse α :=
  if x = d then m.erase i else m.put i x

/-- The map with every index that satisfies p back at its default. -/
def Sparse.clear {α : Type} (m : Sparse α) (p : Nat → Bool) : Sparse α := m.filter fun e => !p e.1

/-- Indices strictly rise from b on. -/
def Sparse.ordered {α : Type} : (b : Nat) → Sparse α → Bool
  | _, [] => true
  | b, (i, _) :: m => decide (b ≤ i) && Sparse.ordered (i + 1) m

/-- The canonical form: indices strictly rise and no entry equals the default. -/
def Sparse.wf {α : Type} [DecidableEq α] (d : α) (m : Sparse α) : Bool :=
  Sparse.ordered 0 m && m.all fun e => decide (e.2 ≠ d)

/-! ## Memory -/

/-- Byte a of a memory; what nothing has written reads 0 (R743, notes/assumptions/11.md). -/
def Memory.read (m : Memory) (a : Nat) : Byte := Sparse.get (0 : Byte) m a

def Memory.write (m : Memory) (a : Nat) (b : Byte) : Memory := Sparse.set (0 : Byte) m a b

/-- len bytes from a. -/
def Memory.readBytes (m : Memory) (a len : Nat) : Bytes := (List.range len).map fun i => m.read (a + i)

/-- Bytes stored from a on, in increasing address order. -/
def Memory.writeBytes (m : Memory) (a : Nat) : Bytes → Memory
  | [] => m
  | b :: bs => (m.write a b).writeBytes (a + 1) bs

/-- A number of k bytes at a. -/
def Memory.num (m : Memory) (a k : Nat) : Nat := leNat (m.readBytes a k)

def Memory.setNum (m : Memory) (a k v : Nat) : Memory := m.writeBytes a (leBytes k v)

/-- Bytes a to a + len − 1 zeroed. -/
def Memory.zero (m : Memory) (a len : Nat) : Memory := Sparse.clear m fun i => decide (a ≤ i ∧ i < a + len)

/-- The canonical form of a memory. -/
def Memory.wf (m : Memory) : Bool := Sparse.wf (0 : Byte) m

end Sys2Proof.Machine
end

