-- ==== Sys2Proof/Machine/Crypto.lean ====
section
/-! DEFINITION. The published algorithms that the spec names: SHA-384 (FIPS 180-4), HMAC-SHA-384 and the counter-mode KDF
of SP 800-108 (spec/12_keys_lifecycle_boot.md R567), AES-256 (FIPS 197), GHASH and GCM (SP 800-38D), ECDSA and ECDH
on P-384 (R569), CRC-32C (spec/10_constellation_links.md R434, spec/13_object_dictionary.md R616). -/

namespace Sys2Proof.Machine

/-! ## SHA-384 -/

/-- The largest r with r^k ≤ n, searched bit by bit below 2^bits. -/
def intRoot (k n : Nat) : (bits : Nat) → (acc : Nat) → Nat
  | 0, acc => acc
  | b + 1, acc => if (acc + 2 ^ b) ^ k ≤ n then intRoot k n b (acc + 2 ^ b) else intRoot k n b acc

/-- The first primes, as FIPS 180-4 uses them: n numbers at least m that no smaller number above 1 divides. -/
def primesFrom : (fuel n m : Nat) → List Nat
  | 0, _, _ => []
  | _ + 1, 0, _ => []
  | fuel + 1, n + 1, m =>
    if (List.range m).all fun d => decide (d < 2) || m % d != 0 then m :: primesFrom fuel n (m + 1)
    else primesFrom fuel (n + 1) (m + 1)

def primes80 : List Nat := primesFrom 500 80 2

/-- The round constants: 64 fraction bits of the cube roots of the first 80 primes. -/
def shaK : List W64 := primes80.map fun p => BitVec.ofNat 64 (intRoot 3 (p * 2 ^ 192) 70 0)

/-- The initial hash of SHA-384: 64 fraction bits of the square roots of the ninth to the sixteenth prime. -/
def sha384H : List W64 := ((primes80.drop 8).take 8).map fun p => BitVec.ofNat 64 (intRoot 2 (p * 2 ^ 128) 70 0)

/-- The eight working words. -/
structure Sha where
  a : W64
  b : W64
  c : W64
  d : W64
  e : W64
  f : W64
  g : W64
  h : W64

def Sha.ofList (l : List W64) : Sha :=
  ⟨l.getD 0 0, l.getD 1 0, l.getD 2 0, l.getD 3 0, l.getD 4 0, l.getD 5 0, l.getD 6 0, l.getD 7 0⟩

def Sha.round (s : Sha) (k w : W64) : Sha :=
  let s1 := s.e.rotateRight 14 ^^^ s.e.rotateRight 18 ^^^ s.e.rotateRight 41
  let ch := (s.e &&& s.f) ^^^ (~~~s.e &&& s.g)
  let t1 := s.h + s1 + ch + k + w
  let s0 := s.a.rotateRight 28 ^^^ s.a.rotateRight 34 ^^^ s.a.rotateRight 39
  let mj := (s.a &&& s.b) ^^^ (s.a &&& s.c) ^^^ (s.b &&& s.c)
  ⟨t1 + (s0 + mj), s.a, s.b, s.c, s.d + t1, s.e, s.f, s.g⟩

/-- The message schedule runs through a window of 16 words, oldest first. -/
def Sha.rounds (s : Sha) (win : List W64) : (ks : List W64) → Sha
  | [] => s
  | k :: ks =>
    let w0 := win.getD 0 0
    let w1 := win.getD 1 0
    let w14 := win.getD 14 0
    let g0 := w1.rotateRight 1 ^^^ w1.rotateRight 8 ^^^ (w1 >>> 7)
    let g1 := w14.rotateRight 19 ^^^ w14.rotateRight 61 ^^^ (w14 >>> 6)
    (s.round k w0).rounds (win.tail ++ [g1 + win.getD 9 0 + g0 + w0]) ks

def Sha.block (s : Sha) (ks : List W64) (bs : Bytes) : Sha :=
  let r := s.rounds ((List.range 16).map fun i => BitVec.ofNat 64 (beNat (slice bs (8 * i) 8))) ks
  ⟨s.a + r.a, s.b + r.b, s.c + r.c, s.d + r.d, s.e + r.e, s.f + r.f, s.g + r.g, s.h + r.h⟩

def Sha.blocks (ks : List W64) : (n : Nat) → Sha → Bytes → Sha
  | 0, s, _ => s
  | n + 1, s, bs => Sha.blocks ks n (s.block ks bs) (bs.drop 128)

/-- SHA-384 of a byte string. -/
def sha384 (m : Bytes) : Bytes :=
  let n := m.length
  let pad := m ++ [(0x80 : Byte)] ++ List.replicate ((239 - n % 128) % 128) 0 ++ beBytes 16 (8 * n)
  let r := Sha.blocks shaK (pad.length / 128) (Sha.ofList sha384H) pad
  ([r.a, r.b, r.c, r.d, r.e, r.f].map fun w => beBytes 8 w.toNat).flatten

/-! ## HMAC and KDF -/

def hmac384 (key m : Bytes) : Bytes :=
  let k := if 128 < key.length then sha384 key else key
  let k := k ++ List.replicate (128 - k.length) 0
  sha384 ((k.map (· ^^^ 0x5C)) ++ sha384 ((k.map (· ^^^ 0x36)) ++ m))

/-- ASCII of a label. -/
def ascii (s : String) : Bytes := s.toList.map fun c => BitVec.ofNat 8 c.toNat

/-- KDF in counter mode (R567): `len` output bytes. -/
def kdf (key : Bytes) (label : String) (ctx : Bytes) (len : Nat) : Bytes :=
  let fixed := ascii label ++ [0] ++ ctx ++ beBytes 4 (8 * len)
  (((List.range ((len + 47) / 48)).map fun i => hmac384 key (beBytes 4 (i + 1) ++ fixed)).flatten).take len

/-! ## AES-256 -/

/-- Multiplication by x in the field of FIPS 197. -/
def xtime (b : Byte) : Byte := (b <<< 1) ^^^ (if b.msb then 0x1B else 0)

def gmulLoop : (n : Nat) → (a b acc : Byte) → Byte
  | 0, _, _, acc => acc
  | n + 1, a, b, acc => gmulLoop n (xtime a) (b >>> 1) (if b.getLsbD 0 then acc ^^^ a else acc)

def gmul (a b : Byte) : Byte := gmulLoop 8 a b 0

/-- The multiplicative inverse, b^254; 0 for 0. -/
def ginv (b : Byte) : Byte :=
  let b2 := gmul b b
  let b3 := gmul b2 b
  let b6 := gmul b3 b3
  let b12 := gmul b6 b6
  let b15 := gmul b12 b3
  let b30 := gmul b15 b15
  let b60 := gmul b30 b30
  let b120 := gmul b60 b60
  let b126 := gmul b120 b6
  let b127 := gmul b126 b
  gmul b127 b127

/-- The S-box, computed. -/
def sboxOf (b : Byte) : Byte :=
  let i := ginv b
  i ^^^ i.rotateLeft 1 ^^^ i.rotateLeft 2 ^^^ i.rotateLeft 3 ^^^ i.rotateLeft 4 ^^^ 0x63

def sboxTable : Array Byte := ((List.range 256).map fun i => sboxOf (BitVec.ofNat 8 i)).toArray

def sbox (b : Byte) : Byte := sboxTable.getD b.toNat 0

/-- The key schedule of AES-256: 60 words of 4 bytes, newest first while it grows. -/
def expandKey : (n i : Nat) → (rcon : Byte) → List Bytes → List Bytes
  | 0, _, _, ws => ws
  | n + 1, i, rcon, ws =>
    let t := ws.getD 0 []
    let old := ws.getD 7 []
    let (t, rcon) :=
      if i % 8 = 0 then
        let r := (t.tail ++ t.take 1).map sbox
        ((r.headD 0 ^^^ rcon) :: r.tail, xtime rcon)
      else if i % 8 = 4 then (t.map sbox, rcon) else (t, rcon)
    expandKey n (i + 1) rcon (List.zipWith (· ^^^ ·) old t :: ws)

/-- The 15 round keys of 16 bytes. -/
def roundKeys (key : Bytes) : List Bytes :=
  let first := (List.range 8).map fun i => slice key (4 * i) 4
  let ws := (expandKey 52 8 1 first.reverse).reverse
  (List.range 15).map fun r => ((ws.drop (4 * r)).take 4).flatten

def xorBytes (a b : Bytes) : Bytes := List.zipWith (· ^^^ ·) a b

/-- Row r of the column-major state moves r columns to the left. -/
def shiftRows (st : Bytes) : Bytes := (List.range 16).map fun i => st.getD ((i + 4 * (i % 4)) % 16) 0

def mixColumn (a b c d : Byte) : Bytes :=
  let m := fun (x y z w : Byte) => xtime x ^^^ (xtime y ^^^ y) ^^^ z ^^^ w
  [m a b c d, m b c d a, m c d a b, m d a b c]

def mixColumns (st : Bytes) : Bytes :=
  ((List.range 4).map fun c => mixColumn (st.getD (4 * c) 0) (st.getD (4 * c + 1) 0) (st.getD (4 * c + 2) 0)
    (st.getD (4 * c + 3) 0)).flatten

def aesRounds : (ks : List Bytes) → Bytes → Bytes
  | [], st => st
  | [k], st => xorBytes (shiftRows (st.map sbox)) k
  | k :: ks, st => aesRounds ks (xorBytes (mixColumns (shiftRows (st.map sbox))) k)

/-- AES-256 of one block under expanded round keys. -/
def aesWith (ks : List Bytes) (block : Bytes) : Bytes :=
  match ks with
  | [] => block
  | k :: rest => aesRounds rest (xorBytes (slice block 0 16) k)

def aes256 (key block : Bytes) : Bytes := aesWith (roundKeys key) block

/-! ## GHASH and GCM -/

/-- Product in the field of SP 800-38D, blocks as numbers with the first bit most significant. -/
def gfLoop : (n : Nat) → (x v acc : Nat) → Nat
  | 0, _, _, acc => acc
  | n + 1, x, v, acc =>
    let acc := if x / 2 ^ n % 2 = 1 then acc ^^^ v else acc
    gfLoop n x (if v % 2 = 1 then (v / 2) ^^^ (0xE1 * 2 ^ 120) else v / 2) acc

def gfMul (x y : Nat) : Nat := gfLoop 128 x y 0

/-- GHASH of whole blocks under subkey h. -/
def ghashLoop (h : Nat) : (n : Nat) → Bytes → (acc : Nat) → Nat
  | 0, _, acc => acc
  | n + 1, bs, acc => ghashLoop h n (bs.drop 16) (gfMul (acc ^^^ beNat (slice bs 0 16)) h)

def padBlock (bs : Bytes) : Bytes := bs ++ List.replicate ((16 - bs.length % 16) % 16) 0

/-- The tag of GCM with a 12-byte IV. -/
def gcmTag (key iv aad ct : Bytes) : Bytes :=
  let ks := roundKeys key
  let h := beNat (aesWith ks (List.replicate 16 0))
  let data := padBlock aad ++ padBlock ct ++ beBytes 8 (8 * aad.length) ++ beBytes 8 (8 * ct.length)
  xorBytes (beBytes 16 (ghashLoop h (data.length / 16) data 0)) (aesWith ks (iv ++ [0, 0, 0, 1]))

/-- The counter-mode cipher of GCM: encryption and decryption are the same. -/
def gcmCrypt (key iv bs : Bytes) : Bytes :=
  let ks := roundKeys key
  let stream := ((List.range ((bs.length + 15) / 16)).map fun i => aesWith ks (iv ++ beBytes 4 (i + 2))).flatten
  xorBytes bs stream

/-! ## P-384 -/

def p384p : Nat := 2 ^ 384 - 2 ^ 128 - 2 ^ 96 + 2 ^ 32 - 1
def p384n : Nat := 0xFFFFFFFFFFFFFFFFFFFFFFFFFFFFFFFFFFFFFFFFFFFFFFFFC7634D81F4372DDF581A0DB248B0A77AECEC196ACCC52973
def p384b : Nat := 0xB3312FA7E23EE7E4988E056BE3F82D19181D9C6EFE8141120314088F5013875AC656398D8A2ED19D2A85C8EDD3EC2AEF
def p384gx : Nat := 0xAA87CA22BE8B05378EB1C71EF320AD746E1D3B628BA79B9859F741E082542A385502F25DBF55296C3A545E3872760AB7
def p384gy : Nat := 0x3617DE4A96262C6F5D9E98BF9292DC29F8F41DBD289A147CE9DA3113B5F0B8C00A60B1CE1D7E819D7A431D7C90EA0E5F

def powMod (m : Nat) : (bits e : Nat) → (base acc : Nat) → Nat
  | 0, _, _, acc => acc
  | b + 1, e, base, acc => powMod m b (e / 2) (base * base % m) (if e % 2 = 1 then acc * base % m else acc)

def invMod (a m : Nat) : Nat := powMod m 384 (m - 2) (a % m) 1

/-- A point in Jacobian coordinates; z = 0 is the point at infinity. -/
structure EcPoint where
  x : Nat
  y : Nat
  z : Nat

def subMod (a b : Nat) : Nat := (a + p384p - b % p384p) % p384p

def EcPoint.dbl (q : EcPoint) : EcPoint :=
  let p := p384p
  let delta := q.z * q.z % p
  let gamma := q.y * q.y % p
  let beta := q.x * gamma % p
  let alpha := 3 * (subMod q.x delta * ((q.x + delta) % p)) % p
  let x := subMod (alpha * alpha % p) (8 * beta)
  let yz := (q.y + q.z) % p
  ⟨x, subMod (alpha * subMod (4 * beta) x % p) (8 * (gamma * gamma % p)), subMod (subMod (yz * yz % p) gamma) delta⟩

def EcPoint.add (q r : EcPoint) : EcPoint :=
  let p := p384p
  if q.z = 0 then r else if r.z = 0 then q
  else
    let z1 := q.z * q.z % p
    let z2 := r.z * r.z % p
    let u1 := q.x * z2 % p
    let u2 := r.x * z1 % p
    let s1 := q.y * r.z % p * z2 % p
    let s2 := r.y * q.z % p * z1 % p
    if u1 = u2 then (if s1 = s2 then q.dbl else ⟨1, 1, 0⟩)
    else
      let h := subMod u2 u1
      let rr := subMod s2 s1
      let h2 := h * h % p
      let h3 := h2 * h % p
      let v := u1 * h2 % p
      let x := subMod (subMod (rr * rr % p) h3) (2 * v)
      ⟨x, subMod (rr * subMod v x % p) (s1 * h3 % p), h * q.z % p * r.z % p⟩

def EcPoint.mulLoop : (bits k : Nat) → (q acc : EcPoint) → EcPoint
  | 0, _, _, acc => acc
  | b + 1, k, q, acc => EcPoint.mulLoop b (k / 2) q.dbl (if k % 2 = 1 then acc.add q else acc)

def EcPoint.mul (k : Nat) (q : EcPoint) : EcPoint := EcPoint.mulLoop 384 k q ⟨1, 1, 0⟩

/-- Affine coordinates; none at infinity. -/
def EcPoint.affine (q : EcPoint) : Option (Nat × Nat) :=
  if q.z = 0 then none
  else
    let i := invMod q.z p384p
    let i2 := i * i % p384p
    some (q.x * i2 % p384p, q.y * i2 % p384p * i % p384p)

def ecBase : EcPoint := ⟨p384gx, p384gy, 1⟩

def onCurve (x y : Nat) : Bool :=
  decide (x < p384p) && decide (y < p384p) && y * y % p384p == subMod ((x * x * x + p384b) % p384p) (3 * x)

/-- The affine point as x followed by y, 48 bytes each. -/
def pointBytes (q : EcPoint) : Bytes :=
  match q.affine with
  | some (x, y) => beBytes 48 x ++ beBytes 48 y
  | none => List.replicate 96 0

/-- The key pair of a 448-bit output (R569): private number and public point. -/
def keyPair (c : Bytes) : Nat × Bytes :=
  let d := beNat c % (p384n - 1) + 1
  (d, pointBytes (ecBase.mul d))

/-- ECDSA P-384 over a 48-byte digest: public key x then y, signature r then s. -/
def ecdsaVerify (pub digest sig : Bytes) : Bool :=
  let x := beNat (slice pub 0 48)
  let y := beNat (slice pub 48 48)
  let r := beNat (slice sig 0 48)
  let s := beNat (slice sig 48 48)
  if !onCurve x y || r == 0 || s == 0 || decide (p384n ≤ r) || decide (p384n ≤ s) then false
  else
    let w := invMod s p384n
    let u1 := beNat (digest.take 48) * w % p384n
    let u2 := r * w % p384n
    match ((ecBase.mul u1).add (EcPoint.mul u2 ⟨x, y, 1⟩)).affine with
    | some (vx, _) => vx % p384n == r
    | none => false

/-- ECDSA P-384 signature of a digest with the per-signature value k (drawn from KEYGEN, R573). -/
def ecdsaSign (d : Nat) (digest : Bytes) (k : Nat) : Bytes :=
  let k := k % (p384n - 1) + 1
  let r := (match (ecBase.mul k).affine with | some (x, _) => x | none => 0) % p384n
  let s := invMod k p384n * (beNat (digest.take 48) + r * d) % p384n
  beBytes 48 r ++ beBytes 48 s

/-- The shared secret of a private number and a public point: the x coordinate of their product (R568). -/
def ecdhZ (d : Nat) (pub : Bytes) : Bytes :=
  (pointBytes (EcPoint.mul d ⟨beNat (pub.take 48), beNat ((pub.drop 48).take 48), 1⟩)).take 48

/-! ## CRC-32C -/

def crcBit : (n : Nat) → W32 → W32
  | 0, c => c
  | n + 1, c => crcBit n (if c.getLsbD 0 then (c >>> 1) ^^^ 0x82F63B78 else c >>> 1)

/-- CRC-32C: reflected, initial value and final inversion all ones. -/
def crc32c (bs : Bytes) : W32 := ~~~(bs.foldl (fun c b => crcBit 8 (c ^^^ b.setWidth 32)) 0xFFFFFFFF)

end Sys2Proof.Machine
end

