-- ==== Sys2Proof/Machine/Num.lean ====
section
/-! DEFINITION. Numbers: the element formats, exact decoding to rationals, and the one rule of rounding and encoding
(spec/03_number_formats.md R98–R132, R141). Every arithmetic result is computed exactly and rounded once. -/

namespace Sys2Proof.Machine

/-! ## Exact helpers -/

/-- 2 to an integer power, exactly. -/
def pow2 (e : Int) : Rat := if 0 ≤ e then ((2 ^ e.toNat : Nat) : Rat) else 1 / ((2 ^ (-e).toNat : Nat) : Rat)

/-- The integer nearest to q, ties to even (R123). -/
def rne (q : Rat) : Int :=
  let f := q.floor
  let r := q - (f : Rat)
  if r < 1 / 2 then f else if 1 / 2 < r then f + 1 else if f % 2 = 0 then f else f + 1

/-- q truncated toward zero. -/
def trunc (q : Rat) : Int := if q < 0 then -((-q).floor) else q.floor

/-- The exponent of the leading bit of a positive rational: the e with 2^e ≤ q < 2^(e+1). -/
def ilog2 (q : Rat) : Int :=
  let e : Int := (Nat.log2 q.num.natAbs : Int) - (Nat.log2 q.den : Int)
  if q < pow2 e then e - 1 else e

def ratAbs (q : Rat) : Rat := if q < 0 then -q else q

/-! ## Decoded values -/

/-- A decoded value: a number with its sign (so that −0 keeps it), an infinity, or NaN. -/
inductive Val where
  | fin (neg : Bool) (mag : Rat)
  | inf (neg : Bool)
  | nan
deriving DecidableEq, Repr

def Val.zero (neg : Bool) : Val := .fin neg 0

def Val.isNan : Val → Bool
  | .nan => true
  | _ => false

def Val.isFinite : Val → Bool
  | .fin .. => true
  | _ => false

def Val.isZero : Val → Bool
  | .fin _ q => q == 0
  | _ => false

/-- The number that a finite value is. -/
def Val.toRat : Val → Rat
  | .fin s q => if s then -q else q
  | _ => 0

/-- The value of a rational, with the sign that a zero gets. -/
def Val.ofRat (zeroNeg : Bool) (q : Rat) : Val :=
  if q = 0 then .fin zeroNeg 0 else if q < 0 then .fin true (-q) else .fin false q

def Val.neg : Val → Val
  | .fin s q => .fin (!s) q
  | .inf s => .inf (!s)
  | .nan => .nan

def Val.sign : Val → Bool
  | .fin s _ => s
  | .inf s => s
  | .nan => false

/-! ## Formats -/

/-- Element formats by their codes (R98). -/
inductive Fmt where
  | fp32 | bf16 | fp16 | e4m3 | e5m2 | e3m2 | e2m3 | e2m1 | int8 | int4 | int32 | int16
deriving DecidableEq, Repr

def Fmt.ofCode (c : BitVec 4) : Option Fmt :=
  match c.toNat with
  | 0 => some .fp32 | 1 => some .bf16 | 2 => some .fp16 | 3 => some .e4m3 | 4 => some .e5m2 | 5 => some .e3m2
  | 6 => some .e2m3 | 7 => some .e2m1 | 8 => some .int8 | 9 => some .int4 | 10 => some .int32 | 11 => some .int16
  | _ => none

/-- Width in bits (R98). -/
def Fmt.width : Fmt → Nat
  | .fp32 | .int32 => 32
  | .bf16 | .fp16 | .int16 => 16
  | .e4m3 | .e5m2 | .int8 => 8
  | .e3m2 | .e2m3 => 6
  | .e2m1 | .int4 => 4

/-- A narrow format carries one block scale per block (R98, R99). -/
def Fmt.narrow : Fmt → Bool
  | .e4m3 | .e5m2 | .e3m2 | .e2m3 | .e2m1 | .int8 | .int4 => true
  | _ => false

def Fmt.isInt : Fmt → Bool
  | .int8 | .int4 | .int32 | .int16 => true
  | _ => false

/-- Exponent bits, fraction bits and bias of a floating-point format (R100). -/
def Fmt.layout : Fmt → Nat × Nat × Nat
  | .fp32 => (8, 23, 127)
  | .bf16 => (8, 7, 127)
  | .fp16 => (5, 10, 15)
  | .e4m3 => (4, 3, 7)
  | .e5m2 => (5, 2, 15)
  | .e3m2 => (3, 2, 3)
  | .e2m3 => (2, 3, 1)
  | .e2m1 => (2, 1, 1)
  | _ => (0, 0, 0)

/-- Does the format have infinities (R102)? -/
def Fmt.hasInf : Fmt → Bool
  | .fp32 | .bf16 | .fp16 | .e5m2 => true
  | _ => false

/-- The largest finite magnitude (R102), 127 and 7 for INT8 and INT4 (R133). -/
def Fmt.maxFinite : Fmt → Rat
  | .fp32 => (2 - pow2 (-23)) * pow2 127
  | .bf16 => (2 - pow2 (-7)) * pow2 127
  | .fp16 => 65504
  | .e4m3 => 448
  | .e5m2 => 57344
  | .e3m2 => 28
  | .e2m3 => 15 / 2
  | .e2m1 => 6
  | .int8 => 127
  | .int4 => 7
  | .int16 => 32767
  | .int32 => 2147483647

/-- The code of the largest finite magnitude of a floating-point format, without its sign. -/
def Fmt.maxCode : Fmt → Nat
  | .fp32 => 0x7F7FFFFF
  | .bf16 => 0x7F7F
  | .fp16 => 0x7BFF
  | .e4m3 => 0x7E
  | .e5m2 => 0x7B
  | .e3m2 => 0x1F
  | .e2m3 => 0x1F
  | .e2m1 => 0x7
  | .int8 => 127
  | .int4 => 7
  | .int16 => 32767
  | .int32 => 2147483647

/-- The canonical NaN (R102); 0 where the format has none. -/
def Fmt.nanCode : Fmt → Nat
  | .fp32 => 0x7FC00000
  | .bf16 => 0x7FC0
  | .fp16 => 0x7E00
  | .e4m3 => 0x7F
  | .e5m2 => 0x7E
  | _ => 0

/-- The code of +∞ (R102). -/
def Fmt.infCode : Fmt → Nat
  | .fp32 => 0x7F800000
  | .bf16 => 0x7F80
  | .fp16 => 0x7C00
  | .e5m2 => 0x7C
  | _ => 0

/-- The mask code (R171). -/
def Fmt.maskCode : Fmt → Nat
  | .fp32 => 0xFF800000
  | .bf16 => 0xFF80
  | .fp16 => 0xFC00
  | .e5m2 => 0xFC
  | .e4m3 => 0xFE
  | .e3m2 | .e2m3 => 0x3F
  | .e2m1 => 0xF
  | .int8 => 0x80
  | .int4 => 0x8
  | .int16 => 0x8000
  | .int32 => 0x80000000

/-- Two's complement value of the low w bits of n. -/
def signedOf (w n : Nat) : Int :=
  let m := n % 2 ^ w
  if m < 2 ^ (w - 1) then (m : Int) else (m : Int) - (2 ^ w : Nat)

/-- The value of an element code without block scale (R100–R106). -/
def Fmt.decode (f : Fmt) (code : Nat) : Val :=
  if f.isInt then Val.ofRat false ((signedOf f.width code : Int) : Rat)
  else
    let (eb, mb, bias) := f.layout
    let s := code / 2 ^ (eb + mb) % 2 == 1
    let e := code / 2 ^ mb % 2 ^ eb
    let m := code % 2 ^ mb
    if f.hasInf && e == 2 ^ eb - 1 then (if m == 0 then .inf s else .nan)
    else if f == .e4m3 && e == 15 && m == 7 then .nan
    else if e == 0 then .fin s ((m : Rat) * pow2 (1 - (bias : Int) - (mb : Int)))
    else .fin s (((2 ^ mb + m : Nat) : Rat) * pow2 ((e : Int) - (bias : Int) - (mb : Int)))

/-! ## Encoding -/

/-- What one conversion counts (R125–R131, R137, R139): saturated, saturated a finite value, NaN to integer,
non-finite source, finite nonzero value encoded to zero. -/
structure Conv where
  code    : Nat
  sat     : Bool
  finSat  : Bool
  invalid : Bool
  nonfin  : Bool
  zeroed  : Bool
deriving DecidableEq, Repr

def Conv.plain (code : Nat) : Conv := ⟨code, false, false, false, false, false⟩

/-- A finite magnitude rounded to the precision of a floating-point format with an unbounded exponent range (R125):
the multiple k of the quantum and the exponent e. -/
def roundMag (f : Fmt) (q : Rat) : Nat × Int :=
  let (_, mb, bias) := f.layout
  let e := max (ilog2 q) (1 - (bias : Int))
  ((rne (q / pow2 (e - (mb : Int)))).toNat, e)

/-- The code, without sign, of k quanta at exponent e. -/
def magCode (f : Fmt) (k : Nat) (e : Int) : Nat :=
  let (_, mb, bias) := f.layout
  if k < 2 ^ mb then k else (e + (bias : Int)).toNat * 2 ^ mb + (k - 2 ^ mb)

/-- The sign bit of a format in place. -/
def signBit (f : Fmt) (neg : Bool) : Nat := if neg then 2 ^ (f.width - 1) else 0

/-- An integer in a two's complement code of the format. -/
def intCode (f : Fmt) (i : Int) : Nat := (i % (2 ^ f.width : Nat)).toNat

/-- The lowest value that an encoding into an integer format produces (R105, R125, R129). -/
def Fmt.minInt : Fmt → Int
  | .int8 => -127
  | .int4 => -7
  | .int16 => -32768
  | _ => -2147483648

/-- One element encoded (R123–R131); `ieee` selects IEEE mode (R125). A NaN gives the canonical NaN of a wide format,
0 in an integer format, and code 0 in a narrow one, whose block carries the NaN scale (R128). -/
def encode (f : Fmt) (ieee : Bool) (v : Val) : Conv :=
  match v with
  | .nan =>
    if f.narrow then ⟨0, false, false, false, true, false⟩
    else if f.isInt then ⟨0, false, false, true, true, false⟩
    else ⟨f.nanCode, false, false, false, true, false⟩
  | .inf s =>
    if f.hasInf then ⟨signBit f s + f.infCode, false, false, false, true, false⟩
    else if f.isInt then ⟨intCode f (if s then f.minInt else f.maxCode), true, false, false, true, false⟩
    else ⟨signBit f s + f.maxCode, true, false, false, true, false⟩
  | .fin s q =>
    if f.isInt then
      let i := rne (if s then -q else q)
      if i < f.minInt then ⟨intCode f f.minInt, true, true, false, false, false⟩
      else if (f.maxCode : Int) < i then ⟨f.maxCode, true, true, false, false, false⟩
      else ⟨intCode f i, false, false, false, false, q != 0 && i == 0⟩
    else if q = 0 then Conv.plain (signBit f s)
    else
      let (k, e) := roundMag f q
      if f.maxFinite < (k : Rat) * pow2 (e - (f.layout.2.1 : Int)) then
        if ieee && f.hasInf then ⟨signBit f s + f.infCode, false, false, false, false, false⟩
        else ⟨signBit f s + f.maxCode, true, true, false, false, false⟩
      else ⟨signBit f s + magCode f k e, false, false, false, false, k == 0⟩

/-- A value rounded to FP32, ties to even, overflowing to an infinity as IEEE 754 arithmetic does (R256, R260). -/
def toF32 (v : Val) : W32 := BitVec.ofNat 32 (encode .fp32 true v).code

/-- The value of an FP32 code. -/
def f32 (b : W32) : Val := Fmt.decode .fp32 b.toNat

/-- The canonical FP32 NaN. -/
def nan32 : W32 := 0x7FC00000

/-! ## IEEE operations on decoded values, exact before the one rounding -/

/-- Sum; an exact zero is −0 only from two −0 (round to nearest). -/
def Val.add (a b : Val) : Val :=
  match a, b with
  | .nan, _ => .nan
  | _, .nan => .nan
  | .inf s, .inf t => if s = t then .inf s else .nan
  | .inf s, .fin .. => .inf s
  | .fin .., .inf t => .inf t
  | .fin s _, .fin t _ =>
    let q := a.toRat + b.toRat
    Val.ofRat (s && t && a.isZero && b.isZero) q

/-- Product (R122). -/
def Val.mul (a b : Val) : Val :=
  match a, b with
  | .nan, _ => .nan
  | _, .nan => .nan
  | .inf s, .inf t => .inf (s != t)
  | .inf s, .fin t q => if q = 0 then .nan else .inf (s != t)
  | .fin s q, .inf t => if q = 0 then .nan else .inf (s != t)
  | .fin s p, .fin t q => .fin (s != t) (p * q)

/-- Quotient. -/
def Val.div (a b : Val) : Val :=
  match a, b with
  | .nan, _ => .nan
  | _, .nan => .nan
  | .inf _, .inf _ => .nan
  | .inf s, .fin t _ => .inf (s != t)
  | .fin s _, .inf t => .fin (s != t) 0
  | .fin s p, .fin t q =>
    if q = 0 then (if p = 0 then .nan else .inf (s != t)) else .fin (s != t) (p / q)

/-- x < y by R141: false with a NaN, zeros equal. -/
def Val.lt (a b : Val) : Bool :=
  match a, b with
  | .nan, _ => false
  | _, .nan => false
  | .inf s, .inf t => s && !t
  | .inf s, .fin .. => s
  | .fin .., .inf t => !t
  | .fin .., .fin .. => decide (a.toRat < b.toRat)

/-- x = y by R141. -/
def Val.eqv (a b : Val) : Bool :=
  match a, b with
  | .nan, _ => false
  | _, .nan => false
  | .inf s, .inf t => s == t
  | .fin .., .fin .. => decide (a.toRat = b.toRat)
  | _, _ => false

/-- max and min by R141: a NaN operand gives way, two give NaN, −0 lies below +0. -/
def Val.max (a b : Val) : Val :=
  match a, b with
  | .nan, _ => b
  | _, .nan => a
  | _, _ => if Val.lt a b then b else if Val.lt b a then a else if a.sign then b else a

def Val.min (a b : Val) : Val :=
  match a, b with
  | .nan, _ => b
  | _, .nan => a
  | _, _ => if Val.lt a b then a else if Val.lt b a then b else if a.sign then a else b

/-- FP32 addition, multiplication, fused multiply-add, division (R216, R256, R257). -/
def fadd (a b : W32) : W32 := toF32 ((f32 a).add (f32 b))
def fmul (a b : W32) : W32 := toF32 ((f32 a).mul (f32 b))
def fdiv (a b : W32) : W32 := toF32 ((f32 a).div (f32 b))

/-! ## Square root, power of two and logarithm (R258) -/

/-- The square root of a nonnegative rational, exact to well beyond the precision of FP32 and marked inexact by a
half step where it is: rounding it to FP32 gives the rounding of the exact root, which is never a tie. -/
def sqrtApprox (q : Rat) : Rat :=
  let e := ilog2 q
  let sh : Int := 2 * ((70 - e) / 2)
  let scaled := q * pow2 sh
  let n := scaled.floor.toNat
  let r := Nat.sqrt n
  let exact := ((n : Rat) == scaled) && r * r == n
  (if exact then (r : Rat) else (r : Rat) + 1 / 2) * pow2 (-(sh / 2))

def Val.sqrt (a : Val) : Val :=
  match a with
  | .nan => .nan
  | .inf s => if s then .nan else .inf false
  | .fin s q => if q = 0 then .fin s 0 else if s then .nan else .fin false (sqrtApprox q)

/-- Lower and upper bounds, in units of 2^-p, of 2^(f) for the fraction f = num / 2^bits, by repeated square roots:
the factor for bit i is 2^(2^-i). -/
def exp2Bounds (p : Nat) : (bits : Nat) → (num lo hi rootLo rootHi : Nat) → Nat × Nat
  | 0, _, lo, hi, _, _ => (lo, hi)
  | b + 1, num, lo, hi, rootLo, rootHi =>
    let rl := Nat.sqrt (rootLo * 2 ^ p)
    let rh := Nat.sqrt (rootHi * 2 ^ p) + 1
    if num / 2 ^ b % 2 = 1 then exp2Bounds p b num (lo * rl / 2 ^ p) (hi * rh / 2 ^ p + 1) rl rh
    else exp2Bounds p b num lo hi rl rh

/-- 2^q rounded to FP32 from bounds at precision p, refined while the bounds round apart (Ziv's method). -/
def exp2Refine (whole : Int) (bits num : Nat) : (fuel p : Nat) → W32
  | 0, _ => nan32
  | fuel + 1, p =>
    let (lo, hi) := exp2Bounds p bits num (2 ^ p) (2 ^ p) (2 ^ (p + 1)) (2 ^ (p + 1))
    let a := toF32 (.fin false ((lo : Rat) * pow2 (whole - (p : Int))))
    let b := toF32 (.fin false ((hi : Rat) * pow2 (whole - (p : Int))))
    if a = b then a else exp2Refine whole bits num fuel (2 * p)

/-- VEXP2: 2^x correctly rounded (R258). Inputs beyond the range are decided without refinement. -/
def fexp2 (x : W32) : W32 :=
  match f32 x with
  | .nan => nan32
  | .inf s => if s then 0 else 0x7F800000
  | .fin s q =>
    if q = 0 then 0x3F800000
    else
      let v := if s then -q else q
      if 128 ≤ v then 0x7F800000
      else if v < -150 then 0
      else if v = -150 then 0
      else if q < pow2 (-30) then 0x3F800000
      else
        let whole := v.floor
        let frac := v - (whole : Rat)
        let bits := Nat.log2 frac.den
        if frac = 0 then toF32 (.fin false (pow2 whole)) else exp2Refine whole bits frac.num.toNat 8 128

/-- Bounds, in units of 2^-n, of log2 y for 1 ≤ y < 2 given by bounds in units of 2^-p: n bits by repeated squaring.
None where the bounds straddle a power of two. -/
def log2Bits (p : Nat) : (n lo hi acc : Nat) → Option Nat
  | 0, _, _, acc => some acc
  | n + 1, lo, hi, acc =>
    let l := lo * lo / 2 ^ p
    let h := hi * hi / 2 ^ p + 1
    if 2 ^ (p + 1) ≤ l then log2Bits p n (l / 2) (h / 2 + 1) (2 * acc + 1)
    else if h < 2 ^ (p + 1) then log2Bits p n l h (2 * acc)
    else none

/-- log2 of a value that is no power of two, rounded to FP32, refined while undecided. -/
def log2Refine (e : Int) (y : Rat) : (fuel n : Nat) → W32
  | 0, _ => nan32
  | fuel + 1, n =>
    let p := 3 * n
    let lo := (y * ((2 ^ p : Nat) : Rat)).floor.toNat
    match log2Bits p n lo (lo + 1) 0 with
    | none => log2Refine e y fuel (2 * n)
    | some k =>
      let a := toF32 (Val.ofRat false ((e : Rat) + (k : Rat) * pow2 (-(n : Int))))
      let b := toF32 (Val.ofRat false ((e : Rat) + ((k + 1 : Nat) : Rat) * pow2 (-(n : Int))))
      if a = b then a else log2Refine e y fuel (2 * n)

/-- VLOG2: log2 x correctly rounded (R258). -/
def flog2 (x : W32) : W32 :=
  match f32 x with
  | .nan => nan32
  | .inf s => if s then nan32 else 0x7F800000
  | .fin s q =>
    if q = 0 then 0xFF800000
    else if s then nan32
    else
      let e := ilog2 q
      let y := q / pow2 e
      if y = 1 then toF32 (Val.ofRat false (e : Rat)) else log2Refine e y 6 64

/-! ## Scales -/

/-- Scale formats (R112). -/
inductive SFmt where
  | e8m0
  | ue6m2
deriving DecidableEq, Repr

def SFmt.ofCode (c : BitVec 2) : Option SFmt := if c = 1 then some .e8m0 else if c = 2 then some .ue6m2 else none

/-- The value of a scale code (R113, R114); none for NaN. -/
def SFmt.value (g : SFmt) (code : Nat) : Option Rat :=
  if code % 256 = 255 then none
  else match g with
    | .e8m0 => some (pow2 ((code % 256 : Nat) - 127 : Int))
    | .ue6m2 => some (pow2 ((code % 256 / 4 : Nat) - 48 : Int) * ((4 + code % 4 : Nat) : Rat) / 4)

/-- The value of code 0, the smallest, and of 0xFE, the largest finite one. -/
def SFmt.minValue (g : SFmt) : Rat := (g.value 0).getD 0
def SFmt.maxValue (g : SFmt) : Rat := (g.value 0xFE).getD 0

/-- The smallest finite code whose value is at least `ideal`, and whether none is (R133, R136). -/
def SFmt.pick (g : SFmt) (ideal : Rat) : Nat × Bool :=
  if g.maxValue < ideal then (0xFE, true)
  else if ideal ≤ g.minValue then (0, false)
  else
    let e := ilog2 ideal
    match g with
    | .e8m0 => (((if ideal = pow2 e then e else e + 1) + 127).toNat, false)
    | .ue6m2 =>
      let quarters := (ideal / pow2 e * 4).ceil.toNat
      (((e + 48).toNat * 4 + (quarters - 4)), false)

/-- Block sizes (R111). -/
def bszOf (c : BitVec 2) : Nat := 16 * 2 ^ c.toNat

/-- An element decoded under its block scale (R115, R120): none as scale is a NaN block. -/
def decodeScaled (f : Fmt) (code : Nat) (scale : Option Rat) : Val :=
  match scale with
  | none => .nan
  | some s =>
    match f.decode code with
    | .fin n q => .fin n (q * s)
    | v => v

/-- One element encoded under a block scale (R125, R132): the exact quotient is rounded once. -/
def encodeScaled (f : Fmt) (ieee : Bool) (scale : Rat) (v : Val) : Conv :=
  match v with
  | .fin n q => encode f ieee (.fin n (q / scale))
  | w => encode f ieee w

end Sys2Proof.Machine
end

