-- ==== Sys2Proof/Machine/Ops.lean ====
section
/-! DEFINITION. The shared operations: units of the state, event bits and MSI-X messages, error logs, sync objects, and
the fetch and the completion of queue commands. -/

namespace Sys2Proof.Machine

open Sys2Proof

/-! ## Outcome of a command -/

abbrev Out := Host.Outcome State Fault Refusal

/-! ## Units present (R5, R7, R9) -/

def tcPresent (s : State) (c : Nat) : Bool := decide (c < 16) && (s.full || decide (c < 12))
def lpPresent (s : State) (p : Nat) : Bool := decide (p < 18) && (s.full || decide (p < 6) || (decide (9 ≤ p) && decide (p < 15)))
def hbPresent (s : State) (h : Nat) : Bool := decide (h < 8) && (s.full || decide (h < 6))

/-- A mask of n bits with bit i set where p holds. -/
def maskOf (n : Nat) (p : Nat → Bool) : BitVec n := BitVec.ofNat n ((List.range n).foldl (fun a i => if p i then a + 2 ^ i else a) 0)

def tcMask (s : State) : BitVec 16 := maskOf 16 (tcPresent s)
def lpMask (s : State) : BitVec 18 := maskOf 18 (lpPresent s)
def hbMaskOf (s : State) : BitVec 8 := maskOf 8 (hbPresent s)

/-! ## Changing one unit -/

def State.modPart (s : State) (k : Pt) (f : Partition → Partition) : State := { s with parts := vmod s.parts k f }
def State.modCluster (s : State) (c : Tc) (f : Cluster → Cluster) : State := { s with clusters := vmod s.clusters c f }
def State.modPress (s : State) (p : Ps) (f : Press → Press) : State := { s with presses := vmod s.presses p f }
def State.modStack (s : State) (h : Hb) (f : Stack → Stack) : State := { s with hbs := vmod s.hbs h f }
def State.modPort (s : State) (p : Lp) (f : Port → Port) : State := { s with ports := vmod s.ports p f }
def State.modPool (s : State) (k : Pt) (f : Pool → Pool) : State := { s with pools := vmod s.pools k f }

/-- The partition's counters changed. -/
def State.count (s : State) (k : Pt) (f : Counters → Counters) : State :=
  s.modPart k fun p => { p with counters := f p.counters }

/-- The module counts the free values drawn (notes/assumptions/9.md): n bytes of the DRBG. -/
def State.draw (s : State) (n : Nat) : State × Bytes :=
  ({ s with fresh := s.fresh + n }, (List.range n).map fun i => Config.freeByte (s.fresh + i))

/-! ## Partitions -/

/-- The partition exists (OD 0x5000.01). -/
def Partition.live (p : Partition) : Bool := p.state != 0

/-- The partition is confidential. -/
def Partition.conf (p : Partition) : Bool := p.state == 2

def anyConf (s : State) : Bool := s.parts.toList.any fun p => p.conf

def allPts : List Pt := [0, 1, 2, 3]

/-! ## MSI-X (R681–R683) -/

def msixGet (s : State) (fn : Fin 5) (v : Nat) : MsixVec :=
  match fn.1 with
  | 0 => Sparse.get MsixVec.reset s.host.msixPf v
  | 1 => Sparse.get MsixVec.reset s.host.msixVf[0] v
  | 2 => Sparse.get MsixVec.reset s.host.msixVf[1] v
  | 3 => Sparse.get MsixVec.reset s.host.msixVf[2] v
  | _ => Sparse.get MsixVec.reset s.host.msixVf[3] v

/-- The virtual function of partition k. -/
def vfOf (k : Pt) : Fin 5 := ⟨k.1 + 1, by omega⟩

/-- The partition of a virtual function; none for the PF. -/
def ptOfFn (fn : Fin 5) : Option Pt := if h : fn.1 = 0 then none else some ⟨fn.1 - 1, by omega⟩

def msixSet (s : State) (fn : Fin 5) (v : Nat) (x : MsixVec) : State :=
  match ptOfFn fn with
  | none => { s with host := { s.host with msixPf := Sparse.set MsixVec.reset s.host.msixPf v x } }
  | some k => { s with host := { s.host with msixVf := vmod s.host.msixVf k fun t => Sparse.set MsixVec.reset t v x } }

/-- A vector is sent: at once, or while a mask is set it stays pending (R682). -/
def msixSend (s : State) (fn : Fin 5) (v : BitVec 11) : State :=
  let x := msixGet s fn v.toNat
  if x.mask || bit s.host.fnMask fn.1 then msixSet s fn v.toNat { x with pending := true }
  else { s with host := { s.host with sentMsix := s.host.sentMsix ++ [(BitVec.ofNat 3 fn.1, v)] } }

/-- A fixed source sets its bit of GLB_EVENT, and its vector is sent when the bit rises while enabled (R683). -/
def raiseGlb (s : State) (b : Nat) : State :=
  let was := bit s.host.event b
  let s := { s with host := { s.host with event := setBit s.host.event b true } }
  if !was && bit s.host.eventEn b then msixSend s 0 (BitVec.ofNat 11 (2032 + b)) else s

/-- A vector of partition k: in a confidential partition it reaches the host only at the boundary (R559). -/
def partVector (s : State) (k : Pt) (vf : Bool) (v : BitVec 11) : State :=
  if s.parts[k].conf then
    s.modPart k fun p => { p with heldMsix := if p.heldMsix.contains (vf, v) then p.heldMsix else p.heldMsix ++ [(vf, v)] }
  else msixSend s (if vf then vfOf k else 0) v

/-- A bit of PART_EVENT is set, and the vector is sent when it rises while ENABLE is 1 (R667). -/
def raisePart (s : State) (k : Pt) (b : Nat) : State :=
  let p := s.parts[k]
  let s' := s.modPart k fun p => { p with event := setBit p.event b true }
  if !bit p.event b && p.evEnable then partVector s' k p.evVf p.evVector else s'

/-- What the fixed sources 1, 2, 3 and 7 watch, from a state to the next: CHANGE_STATE, the states of the ports, the cellar
ports and late batches, the lodestar and the lock (R683). -/
def raiseChanges (s t : State) : State :=
  let ports := fun (x : State) => x.ports.toList.map (·.state)
  let t' := if s.change.state ≠ t.change.state then raiseGlb t 1 else t
  let t' := if ports s ≠ ports t then raiseGlb t' 2 else t'
  let t' := if s.cellar.cpUp ≠ t.cellar.cpUp ∨ s.cellar.noticeLate < t.cellar.noticeLate then raiseGlb t' 3 else t'
  if s.links.lodestar ≠ t.links.lodestar ∨ s.links.epoch ≠ t.links.epoch ∨ s.links.locked ≠ t.links.locked then raiseGlb t' 7 else t'

/-! ## Error logs (R708–R712) -/

/-- A record appended to a log that holds `cap` records (R708). -/
def Log.append (l : Log) (cap : Nat) (r : LogRec) : Log :=
  if l.recs.length < cap then { l with recs := l.recs ++ [r], count := l.count + 1 }
  else { l with recs := l.recs.tail ++ [r], count := l.count + 1, overwritten := l.overwritten + 1 }

/-- A record of partition k: TICK, STEP and PART as R325 gives them. -/
def partRec (s : State) (k : Pt) (typ : Nat) (cluster unitId detail : Nat) : LogRec :=
  { typ := BitVec.ofNat 8 typ, part := BitVec.ofNat 8 k.1, cluster := BitVec.ofNat 8 cluster,
    unitId := BitVec.ofNat 16 unitId, tick := s.meridian.tick, step := s.parts[k].step.number,
    detail := BitVec.ofNat 32 detail }

/-- A record appended to the log of partition k, which sets PART_EVENT bit 0. -/
def logPart (s : State) (k : Pt) (r : LogRec) : State :=
  raisePart (s.modPart k fun p => { p with log := p.log.append 4096 r }) k 0

def notePart (s : State) (k : Pt) (typ cluster unitId detail : Nat) : State :=
  logPart s k (partRec s k typ cluster unitId detail)

/-- A record appended to the operator's log, which sets GLB_EVENT bit 0. -/
def noteOp (s : State) (typ cluster unitId detail : Nat) : State :=
  let r : LogRec :=
    { typ := BitVec.ofNat 8 typ, part := 0xFF, cluster := BitVec.ofNat 8 cluster,
      unitId := BitVec.ofNat 16 unitId, tick := s.meridian.tick, detail := BitVec.ofNat 32 detail }
  raiseGlb { s with log := s.log.append 16384 r } 0

/-! ## Fences (R717, R718) -/

/-- The events of the last 1,024 ticks. -/
def recentTicks (now : W64) (ts : List W64) : List W64 := ts.filter fun t => decide (now.toNat < t.toNat + 1024)

/-- FENCE_SET and FENCE_CLEARED with UNIT_FENCED in the log of each partition that the unit serves; a fence that the
device sets raises GLB_EVENT bit 9 (R718). -/
def noteFence (s : State) (cls unit cause : Nat) (set : Bool) (serves : List Pt) : State :=
  let s := noteOp s (if set then 0x40 else 0x41) cls unit (if set then cause else 0)
  let s := serves.foldl (fun s k => notePart s k 0x3A cls unit (if set then cause else 0)) s
  if set && cause != 1 then raiseGlb s 9 else s

/-! ## Sync objects (R71–R80) -/

/-- Does object o lie in the range first, count? -/
def inRange (first count o : Nat) : Bool := decide (first ≤ o ∧ o < first + count)

/-- Does a group contain sync object o (R73)? -/
def groupHas (g : SetupObj) (o : Nat) : Bool := g.typ == 5 && inRange (numAt g.bytes 0 2) (numAt g.bytes 2 2) o

/-- A group gives reach from its activation until its removal; one destroyed before it became active gives none (R72). -/
def groupReaches (g : SetupObj) (o : Nat) : Bool := g.st != .pending && g.st != .withdrawn && groupHas g o

def syncReach (p : Partition) (o : Nat) : Bool := p.objs.any fun g => groupReaches g o

/-- The objects closed to a SIGNAL of no partition: those of a confidential partition's groups and fixed range (R72). -/
def syncClosed (s : State) (o : Nat) : Bool :=
  s.parts.toList.any fun p => p.conf && (syncReach p o || inRange p.syncFirst.toNat p.syncCount.toNat o)

/-- The SYNC_OVERFLOW flags of the groups of p that contain the object, whether or not they are active (R73, R75). -/
def ovfFlags (p : Partition) (o : Nat) : W64 :=
  maskOf 64 fun i => p.objs.any fun g => groupHas g o && g.idx.toNat == i

def syncGet (s : State) (o : Nat) : W32 := Sparse.get (0 : W32) s.sync o

def syncSet (s : State) (o : Nat) (v : W32) : State := { s with sync := Sparse.set (0 : W32) s.sync o v }

/-- n added to object o, saturating, with the flags of R75 set by a saturation. -/
def addSync (s : State) (part : Option Pt) (o n : Nat) : State :=
  let sum := (syncGet s o).toNat + n
  if sum ≤ 0xFFFFFFFF then syncSet s o (BitVec.ofNat 32 sum)
  else
    let s := syncSet s o 0xFFFFFFFF
    let flag := fun (p : Partition) => { p with syncOvf := p.syncOvf ||| ovfFlags p o }
    match part with
    | some k => s.modPart k flag
    | none => { s with parts := vmap s.parts fun p => if p.state == 1 then flag p else p }

/-- The drop of a SIGNAL or WAIT outside the partition's reach (R72). -/
def syncDrop (s : State) (k : Pt) (cluster : Nat) (o : Nat) : State :=
  notePart (s.count k fun c => { c with rangeDrops := satAdd c.rangeDrops 1 }) k 0x33 cluster 0xFFFF o

/-- SIGNAL(o, n) by a partition or by none (R72, R74). Waiters are served by `serveWaiters`. -/
def signalSync (s : State) (part : Option Pt) (cluster : Nat) (o n : Nat) : State :=
  match part with
  | some k => if syncReach s.parts[k] o then addSync s part o n else syncDrop s k cluster o
  | none => if syncClosed s o then s else addSync s none o n

/-! ## Queues (R670–R677) -/

def State.queue (s : State) : QRef → Queue
  | .admin => s.host.admin
  | .ctrl k => s.parts[k].ctrl
  | .data k j => s.parts[k].data[j]

def State.modQueue (s : State) (q : QRef) (f : Queue → Queue) : State :=
  match q with
  | .admin => { s with host := { s.host with admin := f s.host.admin } }
  | .ctrl k => s.modPart k fun p => { p with ctrl := f p.ctrl }
  | .data k j => s.modPart k fun p => { p with data := vmod p.data j f }

/-- The partition of a queue. -/
def qPart : QRef → Option Pt
  | .admin => none
  | .ctrl k => some k
  | .data k _ => some k

/-- Ring entries. -/
def Queue.size (q : Queue) : Nat := 2 ^ q.log2.toNat

/-- Completion entries taken (R674). -/
def Queue.taken (q : Queue) : Nat := (q.cqTail.toNat + q.size - q.cqHead.toNat) % q.size + q.reserved

/-- May the queue fetch: enabled, not halted, an entry pending and a completion entry to reserve (R674). -/
def Queue.ready (q : Queue) : Bool :=
  q.enable && !q.halted && q.head != q.tail && decide (q.taken + 1 < q.size)

/-- CQ_FULL: entries are pending and no completion entry can be reserved (R674). -/
def Queue.cqFull (q : Queue) : Bool :=
  q.enable && !q.halted && q.head != q.tail && !decide (q.taken + 1 < q.size)

/-- Commands fetched and not completed. -/
def State.inflightOf (s : State) : QRef → List Pending
  | .admin => s.host.inflight
  | .ctrl k => s.parts[k].inflight.filter fun p => p.q == .ctrl k
  | .data k j => s.parts[k].inflight.filter fun p => p.q == .data k j

/-- Does a fetched command hold the head of the queue (R65, R305, R763, R514)? -/
def headHeld (s : State) (q : QRef) : Bool :=
  (s.inflightOf q).any fun p =>
    match p.wait with
    | .head | .syncWait | .sessionSeal _ => true
    | _ => false

/-- The queue takes its next entry (R763, R670, R679 step 1, R725 phase 1; in a session as R509 lets it run). -/
def canTake (s : State) (q : QRef) : Bool :=
  (s.queue q).ready && !headHeld s q &&
  match qPart q with
  | none => true
  | some k =>
    s.parts[k].live && (match s.parts[k].destroying with | some (true, _) => false | _ => true) &&
    (match q with
      | .data _ j => decide (j.1 < s.parts[k].dataQueues.toNat) && !(bit s.test.drained k.1) &&
          (!s.parts[k].conf || s.parts[k].session.state == 3)
      | _ => !s.parts[k].conf || s.parts[k].session.state != 4)

/-- HEAD moves on, and a completion entry is reserved. -/
def fetchEntry (s : State) (q : QRef) : State :=
  s.modQueue q fun u => { u with head := BitVec.ofNat 16 ((u.head.toNat + 1) % u.size), reserved := u.reserved + 1 }

/-- Does a status halt a data queue (R680)? -/
def haltsQueue (st : Nat) : Bool := [0x01, 0x03, 0x04, 0x06, 0x07, 0x08, 0x0B, 0x0C, 0x0D].contains st

/-- The completion entry is written to the completion ring, and the ring's vector is sent (R677, R682). -/
def writeCompletion (s : State) (q : QRef) (c : Completion) : State :=
  let u := s.queue q
  let a := u.cbase.toNat / 4096 * 4096 + 32 * u.cqTail.toNat
  let bs := leBytes 2 c.tag.toNat ++ leBytes 2 u.head.toNat ++ [c.status, if u.phase then 1 else 0] ++ leBytes 2 0 ++
    leBytes 8 c.res0.toNat ++ leBytes 8 c.res1.toNat ++ leBytes 8 c.res2.toNat
  let t := (u.cqTail.toNat + 1) % u.size
  let s := { s with host := { s.host with hostMem := s.host.hostMem.writeBytes a bs } }
  let s := s.modQueue q fun u => { u with cqTail := BitVec.ofNat 16 t, lastSt := c.status, reserved := u.reserved - 1,
                                          phase := if t = 0 then !u.phase else u.phase }
  match qPart q with
  | none => msixSend s 0 u.vector
  | some k => partVector s k u.vf u.vector

/-- A completion reaches the host: at once, or for a data queue of a confidential partition at the boundary (R559). -/
def postCompletion (s : State) (q : QRef) (c : Completion) : State :=
  match q with
  | .data k _ => if s.parts[k].conf then s.modPart k fun p => { p with held := p.held ++ [(q, c)] }
                 else writeCompletion s q c
  | _ => writeCompletion s q c

/-- The signal of a completion: SYNC_OBJ on success, ERR_SYNC on an error, by the queue's partition (R675). -/
def completionSignal (s : State) (q : QRef) (e : Entry) (st : Nat) : State :=
  let n := fld e.w0 40 25
  if n = 0 then s
  else if st = 0 then (if bit e.w0 55 then signalSync s (qPart q) 0xFF (fld e.w0 54 41) n else s)
  else if fld e.w1 63 50 ≠ 0 then signalSync s (qPart q) 0xFF (fld e.w1 63 50) n
  else s

/-- A data queue halts: it issues nothing more, its commands that no SQ has started are held, and a QUEUE_HALT record
is appended (R66, R763, R712). -/
def haltQueue (s : State) (k : Pt) (j : Fin 16) (st : Nat) : State :=
  if s.parts[k].data[j].halted then s
  else
    let s := s.modQueue (.data k j) fun u => { u with halted := true }
    let s := { s with clusters := vmap s.clusters fun c =>
      { c with jobs := c.jobs.map fun b => if b.part = k ∧ b.qj = j ∧ !b.started then { b with held := true } else b } }
    notePart s k 0x38 0xFF (j.1 + 1) st

/-- A command ends: its signal, its completion, and the halt of its data queue where the status halts it. -/
def endCmd (s : State) (p : Pending) (st : Nat) (r0 r1 r2 : Nat) : State :=
  let s := completionSignal s p.q p.e st
  let s := postCompletion s p.q
    { tag := BitVec.ofNat 16 (fld p.e.w0 15 0), status := BitVec.ofNat 8 st, res0 := BitVec.ofNat 64 r0,
      res1 := BitVec.ofNat 64 r1, res2 := BitVec.ofNat 64 r2 }
  match p.q with
  | .data k j => if haltsQueue st then haltQueue s k j st else s
  | _ => s

/-- The command is no longer one that waits. -/
def dropPending (s : State) (p : Pending) : State :=
  match qPart p.q with
  | none => { s with host := { s.host with inflight := s.host.inflight.filter fun x => x.id != p.id } }
  | some k => s.modPart k fun t => { t with inflight := t.inflight.filter fun x => x.id != p.id }

/-- A waiting command ends. -/
def endPending (s : State) (p : Pending) (st : Nat) (r0 r1 r2 : Nat) : State := endCmd (dropPending s p) p st r0 r1 r2

/-- A command waits. -/
def addPending (s : State) (p : Pending) : State :=
  match qPart p.q with
  | none => { s with host := { s.host with inflight := s.host.inflight ++ [p] } }
  | some k => s.modPart k fun t => { t with inflight := t.inflight ++ [p] }

/-- A waiting command waits for something else from now on. -/
def setWait (s : State) (p : Pending) (w : Wait) : State :=
  let f := fun (x : Pending) => if x.id = p.id then { x with wait := w } else x
  match qPart p.q with
  | none => { s with host := { s.host with inflight := s.host.inflight.map f } }
  | some k => s.modPart k fun t => { t with inflight := t.inflight.map f }

/-- The waiting command with this number. -/
def findPending (s : State) (k : Pt) (id : Nat) : Option Pending := s.parts[k].inflight.find? fun p => p.id == id

/-! ## Programs in the streams of the clusters (R763) -/

/-- A cluster has ended its part of a command; the command ends with its last cluster (R763). -/
def streamDone (s : State) (k : Pt) (id : Nat) (c : Tc) : State :=
  match findPending s k id with
  | some p =>
    match p.wait with
    | .stream m =>
      let m := setBit m c.1 false
      if m = 0 then endPending s p 0 0 0 0 else setWait s p (.stream m)
    | _ => s
  | none => s

/-- The SQ_RUN whose program runs on the cluster and has commands left to issue; none while it stands at a WAIT. -/
def currentRun (c : Cluster) : Option SqJob :=
  c.jobs.find? fun b => b.kind == .run && b.started && !b.ended && b.left != 0 && !b.waits

/-- Does a unit roll back, so that the SQs dispatch nothing of it (R310)? -/
def unitRolls (p : Partition) (unit : Option W32) : Bool :=
  match unit with
  | some m => p.units.any fun u => u.mark == m && u.rolling
  | none => false

def modJob (s : State) (c : Tc) (id : Nat) (f : SqJob → SqJob) : State :=
  s.modCluster c fun t => { t with jobs := t.jobs.map fun b => if b.id = id ∧ b.kind = .run then f b else b }

/-- With nothing left to issue, to run or to wait for, the cluster has ended the SQ_RUN. -/
def endRun (s : State) (c : Tc) (id : Nat) : State :=
  match s.clusters[c].jobs.find? fun b => b.id == id && b.kind == .run with
  | some b =>
    if b.left = 0 ∧ b.running = 0 ∧ !b.waits ∧ !b.ended then streamDone (modJob s c id fun b => { b with ended := true }) b.part id c else s
  | none => s

/-- The program of a cluster has issued a SIGNAL, or read VSUMQ. -/
def sqIssued (s : State) (c : Tc) (id : Nat) : State := endRun (modJob s c id fun b => { b with left := b.left - 1 }) c id

/-- The WAIT at which the program of a cluster stands has ended. -/
def endSqWait (s : State) (c : Tc) : State :=
  match s.clusters[c].jobs.find? fun b => b.waits with
  | some b => endRun (modJob s c b.id fun b => { b with waits := false }) c b.id
  | none => s

/-! ## The events of one clock (R25, R761) -/

/-- The network stop of a unit (R25, R761). The CC and its press hang on both link dies, and the spec gives their events no stop: the model
takes 6 (notes/assumptions/159.md, DESIGN CHOICE). -/
def originStop : Origin → Nat
  | .firmware => 0
  | .tc c => 6 * (1 + c.1 / 4) + 1 + c.1 % 4
  | .hb h | .press h => if h.1 < 4 then 1 + h.1 else 27 + h.1
  | .link p => if p.1 < 9 then 6 else 11
  | .cellarPort p => if p.1 < 2 then 6 else 11
  | .cc => 6
  | .gather n => if n.1 < 4 then 6 else 11
  | .hostPort | .mgmtPort => 11
  | .sc => 30
  | .gate | .meridian | .syncFile => 35

/-- The place of a unit among those of one stop: on a corner the order of R25, on a link die the order of R761. -/
def originRank : Origin → Nat
  | .hostPort => 0
  | .mgmtPort => 1
  | .link p => 2 + p.1
  | .cellarPort p => 20 + p.1
  | .cc => 24
  | .gather n => 25 + n.1
  | .press _ => 1
  | .meridian => 1
  | .syncFile => 2
  | _ => 0

/-- The order of the events of one clock: by stop, then by unit (R761). -/
def originKey (o : Origin) : Nat := 64 * originStop o + originRank o

/-- x put behind every element whose key is not greater. -/
def insertByKey {α : Type} (key : α → Nat) (x : α) : List α → List α
  | [] => [x]
  | y :: ys => if key x < key y then x :: y :: ys else y :: insertByKey key x ys

/-- The events of one clock in their order; two events of one unit stay as the unit raised them (R761). -/
def clockOrder {α : Type} (key : α → Nat) (l : List α) : List α := l.foldl (fun a x => insertByKey key x a) []

/-! ## Serving waiters (R76–R80) -/

/-- The first waiter that can be served: its object holds enough, and no earlier waiter waits for that object. -/
def nextServed (s : State) : (seen : List (BitVec 14)) → List Waiter → Option Waiter
  | _, [] => none
  | seen, w :: ws =>
    if !seen.contains w.obj && decide (w.n.toNat ≤ (syncGet s w.obj.toNat).toNat) then some w
    else nextServed s (w.obj :: seen) ws

/-- A waiter leaves the file with a status: its command completes, or its SQ gets the status as its result. -/
def endWaiter (s : State) (w : Waiter) (st : Nat) : State :=
  let s := { s with waiters := s.waiters.filter fun x => x.id != w.id }
  match w.src with
  | some c => endSqWait (s.modCluster c fun t => { t with waitOut := BitVec.ofNat 8 st }) c
  | none =>
    match findPending s w.part w.id with
    | some p => endPending s p st 0 0 0
    | none => s

/-- Does a WAIT that is served in this clock count in COINCIDENT: its timeout expires in the clock of the SIGNAL that
satisfies it (R80)? -/
def Waiter.coincident (w : Waiter) : Bool := w.coin || (w.ticks && w.left == 0)

/-- Every waiter that can be served is served, in order. -/
def settleLoop : (fuel : Nat) → State → State
  | 0, s => s
  | fuel + 1, s =>
    match nextServed s [] s.waiters with
    | none => s
    | some w =>
      let s := syncSet s w.obj.toNat (syncGet s w.obj.toNat - BitVec.ofNat 32 w.n.toNat)
      let s := if w.coincident then s.count w.part fun c => { c with coincident := satAdd c.coincident 1 } else s
      settleLoop fuel (endWaiter s w 0)

/-- The WAITs of the clock take their places behind those that wait already, in the order of R79. -/
def arrive (ws : List Waiter) : List Waiter :=
  (ws.filter fun w => !w.arrived) ++
    clockOrder (fun w => originKey w.origin) ((ws.filter fun w => w.arrived).map fun w => { w with arrived := false })

/-- A WAIT whose timeout has expired in the clock leaves the file with the timeout status (R77). -/
def expireWaiters (s : State) : State := (s.waiters.filter fun w => w.due).foldl (fun s w => endWaiter s w 0x0E) s

/-- The sync-object file at the end of a clock: the SIGNALs are applied, the WAITs of the clock are ordered, every waiter that
can be served is, and one whose timeout expires unserved leaves (R76–R80). -/
def serveWaiters (s : State) : State :=
  let s := { s with waiters := arrive s.waiters }
  expireWaiters (settleLoop s.waiters.length s)

/-! ## Taking a command -/

/-- Does a queue accept an opcode (R676)? -/
def accepts (q : QRef) (op : Nat) : Bool :=
  match q with
  | .admin => [0x01, 0x02, 0x39].contains op
  | .ctrl _ => [0x10, 0x11, 0x12, 0x18, 0x19, 0x1A, 0x1B, 0x1C, 0x1D, 0x20, 0x28, 0x29, 0x30, 0x31, 0x38, 0x39].contains op
  | .data .. => [0x40, 0x41, 0x48, 0x49, 0x4A, 0x50, 0x51, 0x58, 0x59].contains op

/-- The operand bits that a command defines; the others are reserved (R676). -/
structure Used where
  w2 : Nat := 0
  w3 : Nat := 0
  w4 : Nat := 0
  w5 : Nat := 0

def withinMask (w : W64) (m : Nat) : Bool := w.toNat &&& m == w.toNat

/-- Is the entry a well-formed command: the expected opcode, reserved bits 0, and a SIGNAL_N where a signal is named
(R675, R676)? -/
def entryOk (e : Entry) (op : Nat) (u : Used) : Bool :=
  fld e.w0 63 56 == op && fld e.w0 24 16 == 0 && fld e.w1 49 0 == 0 &&
  !(fld e.w0 40 25 == 0 && (bit e.w0 55 || fld e.w1 63 50 != 0)) &&
  withinMask e.w2 u.w2 && withinMask e.w3 u.w3 && withinMask e.w4 u.w4 && withinMask e.w5 u.w5 && e.w6 == 0 && e.w7 == 0

end Sys2Proof.Machine
end

