-- ==== Sys2Proof/Machine/Mem.lean ====
section
/-! DEFINITION. The memories and who may reach them: scratchpads, HBM under inline encryption, the cellar, key slots
and bindings (spec/09_memory_tiers.md R384–R430, spec/11_confidential_computing.md R524–R544,
spec/12_keys_lifecycle_boot.md R576–R580, spec/04_tensor_cluster.md R156). -/

namespace Sys2Proof.Machine

open Sys2Proof

/-! ## Key slots -/

def slot (s : State) (i : Nat) : KeySlot := Sparse.get KeySlot.empty s.sc.keys.slots i

def setSlot (s : State) (i : Nat) (x : KeySlot) : State :=
  { s with sc := { s.sc with keys := { s.sc.keys with slots := Sparse.set KeySlot.empty s.sc.keys.slots i x } } }

/-- LIVE: the slot and every ancestor are VALID (R577). -/
def liveUp (s : State) : (fuel i : Nat) → Bool
  | 0, _ => false
  | fuel + 1, i =>
    let x := slot s i
    x.valid && (x.parent.toNat == i || liveUp s fuel x.parent.toNat)

def slotLive (s : State) (i : Nat) : Bool := liveUp s 1024 i

/-- The slot of a link key (R576): port n counts LP0 to LP17 and then CP0 to CP3, with two directions and two epochs each; which slot is
which is not given, nor is the peer's part of the secret (notes/assumptions/106.md, DESIGN CHOICE). -/
def linkSlot (n : Nat) (out : Bool) (epoch : Nat) : Nat := 8 + 4 * n + 2 * out.toNat + epoch % 2

/-- A direction of a port takes its key of an epoch (R568). -/
def keyLink (s : State) (n : Nat) (out : Bool) (epoch : Nat) : State :=
  let (s, key) := s.draw 32
  setSlot s (linkSlot n out epoch) { KeySlot.empty with valid := true, parent := 4, usage := 1, masters := 0xFF, lcMask := 0xFF, key := key }

/-- May master class `cls` use the slot with this usage (R578)? -/
def slotUsable (s : State) (i usage cls : Nat) : Bool :=
  let x := slot s i
  slotLive s i && x.usage.toNat == usage && bit x.masters cls && bit x.lcMask s.sc.lc.toNat &&
  (x.world != 2 || s.sc.lc == 2)

def keyInvalidUse (s : State) : State :=
  { s with sc := { s.sc with keys := { s.sc.keys with invalid := satAdd s.sc.keys.invalid 1 } } }

/-- General slots not in use: neither valid nor waiting for the sweep (R576, R580). -/
def slotFree (s : State) (i : Nat) : Bool :=
  decide (104 ≤ i) && decide (i < 1024) && !(slot s i).valid && !(s.sc.keys.dying.any fun d => d.1 == i)

def freeSlots (s : State) : List Nat := (List.range 1024).filter (slotFree s)

/-- Session slots of partition k in use. -/
def sessionSlotsUsed (s : State) (k : Pt) : Nat :=
  (s.sc.keys.slots.filter fun e => e.2.valid && e.2.part.toNat == k.1).length

/-! ## Key bindings (R524–R528) -/

/-- The active binding of a key ID in partition k. -/
def bindingOf (s : State) (k : Pt) (keyId : Nat) : Option SetupObj :=
  s.parts[k].objs.find? fun o => o.typ == 4 && o.st != .pending && o.st != .withdrawn && (byteAt o.bytes 7).toNat == keyId

def bindSlot (o : SetupObj) : Nat := numAt o.bytes 0 8 / 2 ^ 46 % 1024

/-- The memory slot of partition k for a key ID at a generation (R529): that of generation 0 is the slot that the binding names (R524). -/
def memSlot (s : State) (k : Pt) (keyId : Nat) (gen : Nat) : Option Nat :=
  match if gen = 0 then bindingOf s k keyId else none with
  | some b => if (slot s (bindSlot b)).valid then some (bindSlot b) else none
  | none => (s.sc.keys.slots.find? fun e => e.2.valid && e.2.usage == 0 && e.2.keyId.toNat == keyId && e.2.kgen.toNat == gen &&
      e.2.part.toNat == k.1).map (·.1)

def bindMask (o : SetupObj) (write : Bool) : Nat := (byteAt o.bytes (if write then 3 else 4)).toNat
def bindParty (o : SetupObj) : Nat := (byteAt o.bytes 2).toNat

/-- May class cls access under a nonzero key ID (R526)? -/
def keyedOk (s : State) (k : Pt) (keyId cls : Nat) (write : Bool) : Bool :=
  match bindingOf s k keyId with
  | none => false
  | some b => bindMask b write / 2 ^ cls % 2 == 1 && slotUsable s (bindSlot b) 0 cls

/-- May class cls access an object under key ID 0 (R528)? -/
def plainOk (p : Partition) (o : MemObj) (cls : Nat) (write : Bool) : Bool :=
  if !p.conf then true
  else match cls with
    | 4 => o.keyId == 0 && o.code && !write
    | 7 => o.keyId == 0
    | 2 => true
    | _ => false

/-! ## Where a location lies (R384, R388, R389) -/

inductive Target where
  | spad (c : Tc) (off : Nat)
  | hbm (h : Hb) (off : Nat)
  | cellar (off : Nat)
  | unmapped
deriving DecidableEq, Repr

def regionBytes : Nat := 2 ^ 21

/-- Regions of the cellar that an object can hold. -/
def cellarRegions (s : State) : Nat := if s.full then 488281 else 244140

def locate (s : State) (loc : Nat) : Target :=
  if h : loc / 2 ^ 36 < 8 then
    if loc % 2 ^ 36 < 22888 * regionBytes ∧ hbPresent s (loc / 2 ^ 36) then .hbm ⟨loc / 2 ^ 36, h⟩ (loc % 2 ^ 36)
    else .unmapped
  else if 2 ^ 40 ≤ loc ∧ loc < 2 ^ 41 then
    if loc - 2 ^ 40 < cellarRegions s * regionBytes then .cellar (loc - 2 ^ 40) else .unmapped
  else if h : 2 ^ 41 ≤ loc ∧ loc < 2 ^ 41 + 16 * 2 ^ 25 then
    if tcPresent s ((loc - 2 ^ 41) / 2 ^ 25) then .spad ⟨(loc - 2 ^ 41) / 2 ^ 25, by omega⟩ ((loc - 2 ^ 41) % 2 ^ 25)
    else .unmapped
  else .unmapped

/-- Key ID and location of a device physical address. -/
def addrKey (a : Nat) : Nat := a / 2 ^ 44 % 256
def addrLoc (a : Nat) : Nat := a % 2 ^ 44

/-- Bytes a to a + len − 1 cut at multiples of 64. -/
def pieces : (fuel a len : Nat) → List (Nat × Nat)
  | 0, _, _ => []
  | fuel + 1, a, len =>
    if len = 0 then []
    else
      let n := min len (64 - a % 64)
      (a, n) :: pieces fuel (a + n) (len - n)

def linesOf (a len : Nat) : List (Nat × Nat) := pieces (len / 64 + 2) a len

/-- The object of partition p that holds a byte of the cellar, or of a stack as a PLACE 0 object. -/
def objInHbm (p : Partition) (h : Hb) (off : Nat) : Option MemObj :=
  p.mem.find? fun o => o.place == 0 && o.stack == h &&
    (match o.hbmBase with | some b => inRange b o.regions (off / regionBytes) | none => false)

def objInCellar (p : Partition) (off : Nat) : Option MemObj :=
  p.mem.find? fun o => match o.celBase with | some b => inRange b o.regions (off / regionBytes) | none => false

/-! ## Regions of press images (R338–R341, R348) -/

/-- Word i of a region descriptor. -/
def rdw (d : List W64) (i : Nat) : W64 := d.getD i 0

def regKind (d : List W64) : Nat := fld (rdw d 0) 63 62
def regNorm (d : List W64) : Bool := bit (rdw d 0) 61
def regTrack (d : List W64) : Bool := bit (rdw d 0) 60
def regNstr (d : List W64) : Nat := fld (rdw d 0) 59 56
def regEntry (d : List W64) : Nat := fld (rdw d 0) 55 44
def regShape (d : List W64) : Nat := fld (rdw d 0) 43 32
def regCount (d : List W64) : Nat := fld (rdw d 0) 31 0
def regBitmap (d : List W64) : Nat := fld (rdw d 1) 51 0
def regMeta (d : List W64) : Nat := fld (rdw d 2) 51 0
def strWord (d : List W64) (i : Nat) : W64 := rdw d (4 + 2 * i)
def strScale (d : List W64) (i : Nat) : Nat := fld (rdw d (5 + 2 * i)) 51 0
def strFmt (w : W64) : Option Fmt := Fmt.ofCode (BitVec.ofNat 4 (fld w 63 60))
def strBsz (w : W64) : Nat := 16 * 2 ^ fld w 59 58
def strSfmt (w : W64) : Option SFmt := SFmt.ofCode (BitVec.ofNat 2 (fld w 57 56))
def strWrite (w : W64) : Bool := bit w 55
def strMat (w : W64) : Bool := bit w 54
def strElem (w : W64) : Nat := fld w 51 0
def strWidth (w : W64) : Nat := match strFmt w with | some f => f.width | none => 0
/-- A stream has a block scale when its format is narrow. -/
def strScaled (w : W64) : Bool := match strFmt w with | some f => f.narrow | none => false

/-- Elements of stream i in the whole region. -/
def strElems (d : List W64) (i : Nat) : Nat :=
  match regKind d with
  | 0 => regCount d
  | 1 => regCount d * regShape d * 64
  | _ => regCount d * (if strMat (strWord d i) then regShape d * regShape d else regShape d)

/-- Elements per grain of a non-MAT stream (R341). -/
def grainElems (d : List W64) : Nat :=
  match regKind d with
  | 0 => if (List.range (regNstr d)).any fun i => strScaled (strWord d i) && strBsz (strWord d i) == 128 then 128 else 64
  | 1 => regShape d * 64
  | _ => regShape d

/-- Elements of stream i in a grain: n × n of a MAT stream (R341). -/
def streamGrain (d : List W64) (i : Nat) : Nat :=
  if regKind d = 2 && strMat (strWord d i) then regShape d * regShape d else grainElems d

/-- Grains of a region. -/
def regGrains (d : List W64) : Nat :=
  match regKind d with
  | 0 => (regCount d + grainElems d - 1) / grainElems d
  | _ => regCount d

/-- Byte ranges of a region: its streams, scales, bitmap and row metadata, as addresses and lengths, with whether the press writes
them. -/
def regAccess (d : List W64) : List (Nat × Nat × Bool) :=
  ((List.range (regNstr d)).map fun i =>
    let w := strWord d i
    (strElem w, (strElems d i * strWidth w + 7) / 8, strWrite w) ::
      (if strScaled w then [(strScale d i, (strElems d i + strBsz w - 1) / strBsz w, strWrite w)] else [])).flatten ++
  (if regTrack d then [(regBitmap d, (regGrains d + 7) / 8, true)] else []) ++
  (if regKind d = 1 then [(regMeta d, 16 * regCount d, true)] else [])

/-- The byte ranges of a region. -/
def regRanges (d : List W64) : List (Nat × Nat) := (regAccess d).map fun x => (x.1, x.2.1)

/-- Do two location ranges meet? -/
def overlaps (a n b m : Nat) : Bool := decide (a < b + m ∧ b < a + n)

/-- The active regions of partition k, with the unit whose slot holds them. -/
def activeRegions (s : State) (k : Pt) : List (Nat × List W64) :=
  ((List.range 9).zip s.presses.toList).flatMap fun (u, p) =>
    match p.slots[k].active with
    | some im => im.regions.map fun d => (u, d)
    | none => []

/-! ## Locks (R306, R349, R397) -/

/-- Is the partition in its update phase (R349)? -/
def inUpdate (p : Partition) : Bool :=
  match p.step.phase with
  | .pass1 | .norm | .normHere | .pass2 | .sparse | .applied => true
  | _ => false

/-- The KIND 1 ranges that open units hold locked (R306): locations and lengths. -/
def markInputs (bytes : Bytes) : List (Bool × Nat × Nat) :=
  (List.range (numAt bytes 0 1 % 16)).map fun i =>
    let w := numAt bytes (8 + 16 * i) 8
    (decide (2 ^ 63 ≤ w), numAt bytes (16 + 16 * i) 8, w % 2 ^ 32)

def objOf (p : Partition) (h : W32) : Option SetupObj :=
  p.objs.find? fun o => o.typ.toNat == fld h 31 28 && o.idx.toNat == fld h 15 0 && o.gen.toNat == fld h 25 16

def replayLocked (p : Partition) (loc n : Nat) : Bool :=
  p.units.any fun u => u.captured.isSome &&
    match objOf p u.mark with
    | some o => (markInputs o.bytes).any fun (k1, a, len) => k1 && overlaps (addrLoc a) len loc n
    | none => false

def updateLocked (s : State) (k : Pt) (loc n : Nat) : Bool :=
  inUpdate s.parts[k] &&
  (activeRegions s k).any fun (_, d) => (regRanges d).any fun (a, len) => overlaps (addrLoc a) len loc n

/-! ## Checks of a request (R37, R386–R398, R425) -/

/-- The rind gate as a master: it belongs to class 2 (R525), which is the number modulo 8, and alone of it reaches scratchpads (R37). -/
def gateClass : Nat := 10

/-- Does a master class reach the scratchpads of its partition (R37)? The tile mover and the gather engines, host DMA of an ordinary
partition, and the rind gate to read what it releases. -/
def reachesSpad (p : Partition) (cls : Nat) (write : Bool) : Bool :=
  cls == 4 || cls == 6 || (cls == 7 && !p.conf) || (cls == gateClass && !write)

/-- The outcome that one piece of a request would have: a status of R680, 0 for OK. -/
def checkPiece (s : State) (k : Pt) (cls key loc n : Nat) (write : Bool) : Nat :=
  let p := s.parts[k]
  match locate s loc with
  | .unmapped => if write && decide (2 ^ 40 ≤ loc ∧ loc < 2 ^ 41) then 0x12 else 0x0F
  | .spad c off =>
    if key ≠ 0 ∨ s.clusters[c].part ≠ some k ∨ s.clusters[c].fenced ∨ !reachesSpad p cls write then 0x0F
    else if 0x1800000 < off + n then 0x10
    else 0
  | .hbm h off =>
    if s.hbs[h].fenced then 0x0F
    else match objInHbm p h off with
      | none => 0x0F
      | some o =>
        match o.st with
        | .evicting | .evictingFreed => 0x13
        | .usable | .freeing =>
          if !(if key = 0 then plainOk p o (cls % 8) write else keyedOk s k key (cls % 8) write) then 0x0F
          else if write && o.sealed then 0x11
          else if write && replayLocked p loc n then 0x15
          else if write && cls != 3 && updateLocked s k loc n then 0x16
          else 0
        | _ => 0x0F
  | .cellar off =>
    if write && cls != 3 then 0x12
    else if cls != 1 && cls != 3 && cls != 4 then 0x0F
    else match objInCellar p off with
      | none => 0x0F
      | some o =>
        match o.st with
        | .usable | .freeing | .evicting | .evictingFreed | .evicted =>
          if if key = 0 then plainOk p o cls write else keyedOk s k key cls write then 0 else 0x0F
        | _ => 0x0F

/-- The first error of a request with the location that raises it; none where every piece may pass. -/
def firstBad (s : State) (k : Pt) (cls addr len : Nat) (write : Bool) : Option (Nat × Nat) :=
  ((linesOf (addrLoc addr) len).map fun (a, n) => (checkPiece s k cls (addrKey addr) a n write, a)).find? (·.1 != 0)

/-- The status of the first error of a request, 0 where every piece may pass. -/
def checkRange (s : State) (k : Pt) (cls addr len : Nat) (write : Bool) : Nat :=
  match firstBad s k cls addr len write with | some x => x.1 | none => 0

/-- A request of partition k ends with an error: it is logged, and a refusal by the lock of R349 is counted (R425). -/
def badRequest (s : State) (k : Pt) (cluster st loc : Nat) : State :=
  let s := if st = 0x16 then s.count k fun c => { c with lockRefused := satAdd c.lockRefused 1 } else s
  notePart s k 0x36 cluster st (loc / 4096)

/-- A range for which a request is refused: none where every piece may pass, else the state with the error logged, and its status. -/
def refuseRange (s : State) (k : Pt) (cls addr len : Nat) (write : Bool) : Option (State × Nat) :=
  (firstBad s k cls addr len write).map fun x => (badRequest s k 0xFF x.1 x.2, x.1)

/-! ## Scratchpad words (R156, R512, R713) -/

/-- A byte with its poison. -/
abbrev PByte := Byte × Bool

/-- Bytes of a scratchpad with the poison of their words. -/
def spadPeek (c : Cluster) (off len : Nat) : List PByte :=
  (List.range len).map fun i => (c.spad.read (off + i), Sparse.get false c.poison ((off + i) / 8))

/-- The words that a byte range touches. -/
def wordsOf (off len : Nat) : List Nat := if len = 0 then [] else (List.range ((off + len - 1) / 8 - off / 8 + 1)).map (off / 8 + ·)

/-- A word is read: the first read of a poisoned one records SPAD_POISON in the owning partition, an uncorrectable error that it
finds joins those of the last 1,024 ticks, and a corrected one is counted and mended (R156, R713, R717). -/
def notePoisonRead (s : State) (c : Tc) (w : Nat) : State :=
  let x := s.clusters[c]
  let s := if Sparse.get false x.soft w then
      s.modCluster c fun t => { t with soft := Sparse.set false t.soft w false, spadCe := satAdd t.spadCe 1 }
    else s
  if Sparse.get false x.poisonNew w then
    let s := s.modCluster c fun t =>
      { t with poisonNew := Sparse.set false t.poisonNew w false, ueNew := Sparse.set false t.ueNew w false,
               ueTicks := if Sparse.get false t.ueNew w then recentTicks s.meridian.tick t.ueTicks ++ [s.meridian.tick] else t.ueTicks }
    match x.part with
    | some k => notePart s k 0x34 c.1 0xFFFF (8 * w)
    | none => s
  else s

/-- The words of a range are read. -/
def notePoisonReads (s : State) (c : Tc) (off len : Nat) : State := (wordsOf off len).foldl (fun s w => notePoisonRead s c w) s

/-- Reads of a scratchpad that find no poison. -/
def noteCleanReads (s : State) (c : Tc) (ranges : List (Nat × Nat)) : State :=
  if s.clusters[c].soft.isEmpty then s else ranges.foldl (fun s (a, n) => notePoisonReads s c a n) s

/-- One word, or a part of one, written: a poisoned word is cleared only by a write of all of it, and a poisoned source
poisons the word (R156, R420). A write to a part of a word merges it, which corrects and counts a correctable error. -/
def spadWord (c : Cluster) (off : Nat) (bs : List PByte) : Cluster :=
  let w := off / 8
  let ce := if Sparse.get false c.soft w && decide (bs.length < 8) then satAdd c.spadCe 1 else c.spadCe
  if bs.any (·.2) then { c with poison := Sparse.set false c.poison w true, poisonNew := Sparse.set false c.poisonNew w true,
                                soft := Sparse.set false c.soft w false, spadCe := ce }
  else if Sparse.get false c.poison w && decide (bs.length < 8) then c
  else { c with spad := c.spad.writeBytes off (bs.map (·.1)), poison := Sparse.set false c.poison w false,
                poisonNew := Sparse.set false c.poisonNew w false, ueNew := Sparse.set false c.ueNew w false,
                soft := Sparse.set false c.soft w false, spadCe := ce }

def spadWords : (fuel : Nat) → Cluster → (off : Nat) → List PByte → Cluster
  | 0, c, _, _ => c
  | fuel + 1, c, off, bs =>
    if bs.isEmpty then c
    else
      let n := 8 - off % 8
      spadWords fuel (spadWord c off (bs.take n)) (off + n) (bs.drop n)

/-- The bytes of a tile in the drain buffer. -/
def DrainBuf.bytes (b : DrainBuf) : Nat := if b.long then 20480 else 4096

/-- Does the drain buffer still hold what the scratchpad holds after a write to a range: no line of its tile was written (R210)? -/
def keepsBuf (b : DrainBuf) (off len : Nat) : Bool := decide (off + len ≤ b.addr ∨ b.addr + b.bytes ≤ off)

/-- Bytes written to a scratchpad; lines written from a code object carry the code mark, and any other write clears it
(R512). Lines are 128 bytes (R152). -/
def spadWrite (c : Cluster) (off : Nat) (bs : List PByte) (code : Bool) : Cluster :=
  let c := spadWords (bs.length + 1) c off bs
  if bs.isEmpty then c
  else
    let lines := (List.range ((off + bs.length - 1) / 128 - off / 128 + 1)).map (off / 128 + ·)
    { c with code := lines.foldl (fun m l => Sparse.set false m l code) c.code,
             drainBuf := c.drainBuf.filter fun b => keepsBuf b off bs.length }

/-- A scratchpad zeroed: no word is poisoned, upset or code (R523, R725). -/
def Cluster.wiped (c : Cluster) : Cluster :=
  { c with spad := [], poison := [], poisonNew := [], ueNew := [], soft := [], code := [], drainBuf := none }

def clean (bs : Bytes) : List PByte := bs.map fun b => (b, false)

/-! ## Lines of HBM and of the cellar (R419–R421, R529–R544) -/

/-- What a stack and the cellar hold alike: bytes, what is kept of each line, generations and re-keys of regions, lines queued for
scrubbing, and the counter trees. -/
structure Bank where
  mem    : Memory
  lines  : Sparse LineMeta
  gens   : Sparse (BitVec 24)
  rekeys : List Rekey
  toScrub : List Nat
  tree    : CtrTree

/-- The bank of unit m: HB0 to HB7, 8 being the cellar. -/
def bank (s : State) (m : Ps) : Bank :=
  if h : m.1 < 8 then
    let t := s.hbs[m.1]
    ⟨t.mem, t.lines, t.gens, t.rekeys, t.toScrub, t.tree⟩
  else ⟨s.cellar.mem, s.cellar.lines, s.cellar.gens, s.cellar.rekeys, s.cellar.toScrub, s.cellar.tree⟩

def State.modBank (s : State) (m : Ps) (f : Bank → Bank) : State :=
  let b := f (bank s m)
  if h : m.1 < 8 then
    s.modStack ⟨m.1, h⟩ fun t => { t with mem := b.mem, lines := b.lines, gens := b.gens, rekeys := b.rekeys, toScrub := b.toScrub, tree := b.tree }
  else { s with cellar := { s.cellar with mem := b.mem, lines := b.lines, gens := b.gens, rekeys := b.rekeys, toScrub := b.toScrub, tree := b.tree } }

/-- The stack h as a bank, and the cellar as one. -/
def hbBank (h : Hb) : Ps := ⟨h.1, by omega⟩
def cellarBank : Ps := 8

/-- Location bits of byte `off` of bank m (R384). -/
def bankLoc (m : Ps) (off : Nat) : Nat := if m.1 < 8 then m.1 * 2 ^ 36 + off else 2 ^ 40 + off

/-- The generation of a region's current key. -/
def regionGen (b : Bank) (region : Nat) : BitVec 24 := Sparse.get 0 b.gens region

/-- The generation under which a line stands: in a region that re-keys, the new one below the pointer (R542). -/
def lineGen (b : Bank) (line : Nat) : BitVec 24 :=
  match b.rekeys.find? fun e => e.region == line / 32768 && !e.waiting with
  | some e => if line % 32768 < e.ptr then e.newGen else e.oldGen
  | none => regionGen b (line / 32768)

/-- What is kept of a line; a line not written since its allocation stands under its object's key with counter 0
(R534). -/
def lineMeta (lines : Sparse LineMeta) (gen : BitVec 24) (o : MemObj) (line : Nat) : LineMeta :=
  let m := Sparse.get LineMeta.zero lines line
  if m.written then m else { m with keyId := o.keyId, gen := gen }

/-- The 16-byte input of a block (R529). -/
def lineInput (domain keyId line blk ctr : Nat) : Bytes :=
  beBytes 16 (domain * 2 ^ 120 + keyId * 2 ^ 112 + line * 2 ^ 74 + blk * 2 ^ 72 + ctr * 2 ^ 56)

/-- The keystream of a 64-byte line (R529). -/
def keystream (key : Bytes) (keyId line ctr : Nat) : Bytes :=
  let ks := roundKeys key
  ((List.range 4).map fun b => aesWith ks (lineInput 1 keyId line b ctr)).flatten

/-- The tag of a line (R530): 8 bytes. -/
def lineTag (key : Bytes) (keyId line ctr : Nat) (cipher : Bytes) : Bytes :=
  let ks := roundKeys key
  let h := beNat (aesWith ks (lineInput 3 0 0 0 0))
  let data := cipher ++ beBytes 8 0 ++ beBytes 8 512
  xorBytes ((beBytes 16 (ghashLoop h 5 data 0)).take 8) (aesWith ks (lineInput 2 keyId line 0 ctr))

/-- The stored bits of a line, read under key ID 0: the plaintext XOR the keystream of the key it was last written
under; where that key no longer exists the bits are a free value (notes/assumptions/13.md). -/
def rawLine (s : State) (k : Pt) (m : LineMeta) (line : Nat) (plain : Bytes) : Bytes :=
  if m.keyId = 0 then plain
  else match memSlot s k m.keyId.toNat m.gen.toNat with
    | some i => xorBytes plain (keystream (slot s i).key m.keyId.toNat line m.ctr.toNat)
    | none => (List.range 64).map fun i => Config.deadBits line m.ctr.toNat i

def noteIntegrity (s : State) (k : Pt) (place keyId loc : Nat) (tree : Bool) : State :=
  let s := notePart s k (if tree then 0x21 else 0x20) place keyId (loc / 4096)
  s.modPart k fun p => { p with session := { p.session with integrity := satAdd p.session.integrity 1 } }

/-- The object of a partition that holds a byte of bank m: its HBM part or its cellar part. -/
def objInBank (p : Partition) (m : Ps) (off : Nat) : Option MemObj :=
  if m.1 < 8 then
    p.mem.find? fun o => o.stack.1 == m.1 && (match o.hbmBase with | some b => inRange b o.regions (off / regionBytes) | none => false)
  else objInCellar p off

/-- Metadata regions of an object of n regions under a key ID (R392). -/
def metaFor (keyId n : Nat) : Nat := if keyId = 0 then 0 else 5 * ((n + 26) / 27)

/-- The runs of regions, first and count, that an object holds on stack h, and in the cellar. -/
def hbmRuns (o : MemObj) (h : Hb) : List (Nat × Nat) :=
  if o.stack = h then (o.hbmBase.map fun b => (b, o.regions)).toList ++ (o.metaBase.map fun b => (b, o.metaRegs)).toList else []

/-- What an object holds on stack h until the boundary: its runs, and those of an evicted copy that has been replaced (R406). -/
def heldRuns (o : MemObj) (h : Hb) : List (Nat × Nat) := hbmRuns o h ++ if o.stack = h then o.oldRuns else []

def celRuns (o : MemObj) : List (Nat × Nat) :=
  (o.celBase.map fun b => (b, o.regions)).toList ++ (o.celMeta.map fun b => (b, metaFor o.keyId.toNat o.regions)).toList

/-- The runs that an object holds in bank m, its metadata among them. -/
def bankRuns (o : MemObj) (m : Ps) : List (Nat × Nat) := if h : m.1 < 8 then heldRuns o ⟨m.1, h⟩ else celRuns o

/-- The partition that owns a line of a bank. -/
def bankOwner (s : State) (m : Ps) (off : Nat) : Option Pt :=
  allPts.find? fun k => s.parts[k].live && s.parts[k].mem.any fun o => (bankRuns o m).any fun r => inRange r.1 r.2 (off / regionBytes)

/-- A MEM_POISON record, in the owner's log or in the operator's (R423, R712). -/
def notePoison (s : State) (owner : Option Pt) (place loc : Nat) : State :=
  match owner with
  | some k => notePart s k 0x35 place 0xFFFF (loc / 4096)
  | none => noteOp s 0x4D place 0xFFFF (loc / 4096)

/-- A fence on a stack (R96, R720). The regions stay allocated. -/
def fenceStack (s : State) (h : Hb) (cause : Nat) : State :=
  if s.hbs[h].fenced then s
  else
    let s := s.modStack h fun t => { t with fenced := true, fenceCause := BitVec.ofNat 8 cause }
    noteFence s 1 h.1 cause true (allPts.filter fun k => bit s.parts[k].hbMask h.1)

/-- An uncorrectable error on a stack counts toward STACK_UE_FENCE (R717). -/
def countStackUe (s : State) (h : Hb) : State :=
  let ts := recentTicks s.meridian.tick s.hbs[h].ueTicks ++ [s.meridian.tick]
  let s := s.modStack h fun t => { t with ueTicks := ts }
  if s.test.stackUe ≠ 0 ∧ s.test.stackUe.toNat ≤ ts.length then fenceStack s h 2 else s

/-- An uncorrectable error found in a line (R420, R421): the line is stored poisoned, and the error is counted and
recorded. -/
def foundUe (s : State) (m : Ps) (line : Nat) : State :=
  let s := s.modBank m fun b =>
    { b with lines := Sparse.set LineMeta.zero b.lines line { Sparse.get LineMeta.zero b.lines line with poison := true, ue := false, ce := false, bad := false } }
  let s := notePoison s (bankOwner s m (64 * line)) m.1 (bankLoc m (64 * line))
  if h : m.1 < 8 then
    countStackUe (s.modStack ⟨m.1, h⟩ fun t =>
      { t with ue := satAdd t.ue 1, poisonSeen := true, poisonAddr := some (BitVec.ofNat 44 (bankLoc m (64 * line))) }) ⟨m.1, h⟩
  else { s with cellar := { s.cellar with ue := satAdd s.cellar.ue 1 } }

/-- A corrected error counted (R419, R422). -/
def countCe (s : State) (m : Ps) : State :=
  if h : m.1 < 8 then
    s.modStack ⟨m.1, h⟩ fun t => { t with ce := satAdd t.ce 1, scrub := { t.scrub with ceSecond := t.scrub.ceSecond + 1 } }
  else { s with cellar := { s.cellar with ce := satAdd s.cellar.ce 1, scrub := { s.cellar.scrub with ceSecond := s.cellar.scrub.ceSecond + 1 } } }

/-- What a read of a line, or a partial write of it, finds of its errors: an uncorrectable one poisons it, and a corrected one
queues it for scrubbing (R419–R421). -/
def findErrors (s : State) (m : Ps) (line : Nat) : State :=
  let x := Sparse.get LineMeta.zero (bank s m).lines line
  if x.ue then foundUe s m line
  else if x.ce then
    countCe (s.modBank m fun b => { b with toScrub := if b.toScrub.contains line then b.toScrub else b.toScrub ++ [line] }) m
  else s

/-! ## Counter trees and the counter cache (R531–R535, R537) -/

/-! R531 places them in the metadata regions; line tags, counters and node tags follow from the lines and nodes themselves. -/

/-- A block (level 0) or node of the tree of the group whose first data region is `first`. -/
def nodeNo (first level i : Nat) : Nat := (first * 3 + level) * 2 ^ 14 + i
def nodeFirst (n : Nat) : Nat := n / 2 ^ 14 / 3
def nodeLevel (n : Nat) : Nat := n / 2 ^ 14 % 3
def nodeIdx (n : Nat) : Nat := n % 2 ^ 14
def nodeSize (n : Nat) : Nat := if nodeLevel n = 0 then 128 else 512

/-- The node that holds the entry of another; the entries of level-2 nodes are on die. -/
def nodeParent (n : Nat) : Option Nat := if nodeLevel n < 2 then some (nodeNo (nodeFirst n) (nodeLevel n + 1) (nodeIdx n / 64)) else none

/-- Is node a above node b? -/
def nodeAbove (a b : Nat) : Bool := nodeParent b == some a || (nodeParent b).bind nodeParent == some a

/-- The first data region and the first metadata region of a keyed object in bank m. -/
def treeBase (o : MemObj) (m : Ps) : Option (Nat × Nat) :=
  if m.1 < 8 then o.hbmBase.bind fun b => o.metaBase.map fun c => (b, c) else o.celBase.bind fun b => o.celMeta.map fun c => (b, c)

/-- The counter block of a line of a keyed object, and the nodes above it. -/
def treePath (o : MemObj) (m : Ps) (line : Nat) : List Nat :=
  match treeBase o m with
  | none => []
  | some (b, _) =>
    let first := b + 27 * ((line / 32768 - b) / 27)
    let blk := (line - first * 32768) / 64
    [nodeNo first 0 blk, nodeNo first 1 (blk / 64), nodeNo first 2 (blk / 4096)]

/-- The place of a block or node in its bank (R531). -/
def nodeAt (base meta_ n : Nat) : Nat :=
  let group := (meta_ + 5 * ((nodeFirst n - base) / 27)) * regionBytes
  match nodeLevel n with
  | 0 => group + 0x6C0000 + 128 * nodeIdx n
  | 1 => group + 0x88B000 + 512 * nodeIdx n
  | _ => group + 0x8A6000 + 512 * nodeIdx n

/-- The place of the tag of a block or node, and of the tag of line g of a group (R531). -/
def nodeTagAt (base meta_ n : Nat) : Nat :=
  let group := (meta_ + 5 * ((nodeFirst n - base) / 27)) * regionBytes
  match nodeLevel n with
  | 0 => group + 0x870000 + 8 * nodeIdx n
  | 1 => group + 0x8A6800 + 8 * nodeIdx n
  | _ => group + 0x8A6800 + 1728 + 8 * nodeIdx n

def lineTagAt (base meta_ line : Nat) : Nat :=
  let g := line - base * 32768
  (meta_ + 5 * (g / (27 * 32768))) * regionBytes + 8 * (g % (27 * 32768))

/-- The lines of a bank that hold a block or node, and the line that holds its tag. -/
def nodeLines (o : MemObj) (m : Ps) (n : Nat) : List Nat × Option Nat :=
  match treeBase o m with
  | none => ([], none)
  | some (b, c) => ((List.range (nodeSize n / 64)).map (nodeAt b c n / 64 + ·), some (nodeTagAt b c n / 64))

def State.modTree (s : State) (m : Ps) (f : CtrTree → CtrTree) : State := s.modBank m fun b => { b with tree := f b.tree }

/-- What a block or node holds: the counters of 64 lines, or the entries of 64 blocks or nodes. -/
def nodeContents (b : Bank) (n : Nat) : Bytes :=
  (List.range 64).flatMap fun i =>
    if nodeLevel n = 0 then leBytes 2 (Sparse.get LineMeta.zero b.lines (nodeFirst n * 32768 + 64 * nodeIdx n + i)).ctr.toNat
    else leBytes 8 (Sparse.get 0 b.tree.entries (nodeNo (nodeFirst n) (nodeLevel n - 1) (64 * nodeIdx n + i))).toNat

/-- The tree key Kt of a key ID (R533, R568). -/
def treeKey (s : State) (k : Pt) (keyId : Nat) : Bytes :=
  let p := s.parts[k]
  let i := if p.conf then p.session.smkSlot else p.pmkSlot
  kdf (match i with | some i => (slot s i.1).key | none => []) "MDR-TREE"
    ((if p.conf then slice p.session.manifest 0 16 else List.replicate 16 0) ++ [BitVec.ofNat 8 keyId]) 32

/-- The tag of a block or node under its parent entry (R533). -/
def nodeTag (key : Bytes) (keyId loc entry : Nat) (contents : Bytes) : Bytes :=
  let ks := roundKeys key
  let h := beNat (aesWith ks (lineInput 6 0 0 0 0))
  let data := contents ++ beBytes 8 0 ++ beBytes 8 (8 * contents.length)
  xorBytes ((beBytes 16 (ghashLoop h (contents.length / 16 + 1) data 0)).take 8)
    (aesWith ks (beBytes 16 (5 * 2 ^ 120 + keyId * 2 ^ 112 + loc / 64 * 2 ^ 74 + entry)))

/-- The keyed object whose tree a block or node belongs to, with its partition. -/
def nodeOwner (s : State) (m : Ps) (n : Nat) : Option (Pt × MemObj) :=
  (allPts.flatMap fun k => s.parts[k].mem.map fun o => (k, o)).find? fun x =>
    match treeBase x.2 m with | some (b, _) => inRange b x.2.regions (nodeFirst n) | none => false

/-- The location of a block or node of a keyed object (R531). -/
def nodeLoc (o : MemObj) (m : Ps) (n : Nat) : Nat := match treeBase o m with | some (base, c) => bankLoc m (nodeAt base c n) | none => 0

/-- The tag of a block or node as it stands in DRAM (R533): one that has not left the cache since the allocation has the tag of its
contents of then, all zeros, under entry 0 (R534). -/
def storedTag (s : State) (k : Pt) (o : MemObj) (m : Ps) (n : Nat) : W64 :=
  match (bank s m).tree.tags.find? (·.1 == n) with
  | some x => x.2
  | none => BitVec.ofNat 64 (leNat (nodeTag (treeKey s k o.keyId.toNat) o.keyId.toNat (nodeLoc o m n) 0 (List.replicate (nodeSize n) 0)))

/-- Whole lines written: no error and no poison stands in them. -/
def mendLines (s : State) (m : Ps) (ls : List Nat) : State :=
  s.modBank m fun b => { b with lines := ls.foldl (fun x l =>
    Sparse.set LineMeta.zero x l { Sparse.get LineMeta.zero x l with poison := false, ue := false, ce := false }) b.lines }

/-- A changed block or node is written to DRAM: its parent entry increments, and its tag is formed anew (R533). Its lines are written
whole, its tag as a part of a line. -/
def writeBack (s : State) (m : Ps) (n : Nat) : State :=
  match nodeOwner s m n with
  | none => s
  | some (k, o) =>
    let (ls, tagLine) := nodeLines o m n
    let s := mendLines (tagLine.elim s (findErrors s m)) m ls
    let b := bank s m
    let e := Sparse.get 0 b.tree.entries n + 1
    let tag := nodeTag (treeKey s k o.keyId.toNat) o.keyId.toNat (nodeLoc o m n) e.toNat (nodeContents b n)
    s.modTree m fun t =>
      { t with entries := Sparse.set 0 t.entries n e, tags := Sparse.set 0 t.tags n (BitVec.ofNat 64 (leNat tag)),
               tampered := t.tampered.filter (· != n), cache := t.cache.map fun c => if nodeParent n = some c.1 then (c.1, true) else c }

/-- Room for `need` bytes in the counter cache: the least recently used leave it, but none of `keep` and none above a changed one
(R533, R535; notes/assumptions/150.md). -/
def makeRoom (m : Ps) (need : Nat) (keep : List Nat) : (fuel : Nat) → State → State
  | 0, s => s
  | fuel + 1, s =>
    let t := (bank s m).tree
    if (t.cache.map fun c => nodeSize c.1).sum + need ≤ 512 * 1024 then s
    else match t.cache.find? fun c => !keep.contains c.1 && !(t.cache.any fun d => d.2 && nodeAbove c.1 d.1) with
      | none => s
      | some (n, dirty) =>
        makeRoom m need keep fuel ((if dirty then writeBack s m n else s).modTree m fun t => { t with cache := t.cache.filter (·.1 != n) })

/-- A block or node used: from the cache, or fetched into it and verified. Metadata lines have the code of every line (R419): a line that
is poisoned fails the tag (notes/assumptions/167.md, DEDUCED). -/
def useNode (m : Ps) (o : MemObj) (path : List Nat) (s : State) (n : Nat) : State :=
  match (bank s m).tree.cache.find? (·.1 == n) with
  | some c => s.modTree m fun t => { t with cache := t.cache.filter (·.1 != n) ++ [c] }
  | none =>
    let ls := (nodeLines o m n).1 ++ (nodeLines o m n).2.toList
    let s := ls.foldl (fun s l => findErrors s m l) s
    let lost := ls.any fun l => (Sparse.get LineMeta.zero (bank s m).lines l).poison
    (makeRoom m (nodeSize n) path ((bank s m).tree.cache.length + 1) s).modTree m fun t =>
      { t with cache := t.cache ++ [(n, false)],
               failed := if (lost || t.tampered.contains n) && !t.failed.contains n then t.failed ++ [n] else t.failed }

/-- A path from its block up to the first that the cache holds. -/
def uncached (t : CtrTree) : List Nat → List Nat
  | [] => []
  | n :: ns => if t.cache.any (·.1 == n) then [n] else n :: uncached t ns

/-- The tree above a line of a keyed object used for a read, or all of it for a write; the first block or node of it that fails. -/
def usePath (s : State) (m : Ps) (o : MemObj) (line : Nat) (write : Bool) : State × Option Nat :=
  let path := treePath o m line
  let s := (if write then path else uncached (bank s m).tree path).reverse.foldl (useNode m o path) s
  (s, path.reverse.find? fun n => (bank s m).tree.failed.contains n)

/-- The counter block of a line has changed. -/
def blockChanged (s : State) (m : Ps) (path : List Nat) : State :=
  match path with
  | [] => s
  | n :: _ => s.modTree m fun t => { t with cache := t.cache.map fun c => if c.1 = n then (n, true) else c }

/-- A line as its controller serves it: its bytes, poison, and the status that its error gives. -/
structure LineRead where
  s      : State
  bytes  : Bytes
  poison : Bool
  st     : Nat

/-- Does a line fail its tag under a key ID: its stored bits were changed, or were written under another key (R536)? A line stored
poisoned stands with the tag of its poison. -/
def tagFails (key : Nat) (m : LineMeta) : Bool := key != 0 && (m.bad || (!m.poison && m.keyId.toNat != key))

/-- What a read of a line under a key ID gives, once its errors are found (R385, R420, R536, R537): beneath a block or node that fails
every access ends with the integrity error. -/
def serveLine (s : State) (k : Pt) (place : Nat) (m : LineMeta) (treeFails : Option Nat) (key loc line : Nat) (plain : Bytes) : LineRead :=
  let zeros : Bytes := List.replicate 64 0
  match treeFails with
  | some node => ⟨noteIntegrity s k place key node true, zeros, true, 0x23⟩
  | none =>
    if tagFails key m then ⟨noteIntegrity s k place key loc false, zeros, true, 0x23⟩
    else if m.poison then ⟨s, zeros, true, 0x17⟩
    else if key = m.keyId.toNat then ⟨s, plain, false, 0⟩
    else ⟨s, rawLine s k m line plain, false, 0⟩

/-- A line of a bank read (R391, R419–R421, R535–R537, R550). -/
def readLine (s : State) (k : Pt) (key : Nat) (m : Ps) (o : MemObj) (line : Nat) : LineRead :=
  let s := findErrors s m line
  let (s, fails) := if key = 0 then (s, none) else usePath s m o line false
  let b := bank s m
  let loc := bankLoc m (64 * line)
  serveLine s k m.1 (lineMeta b.lines (lineGen b line) o line) (fails.map (nodeLoc o m)) key loc (loc / 64) (b.mem.readBytes (64 * line) 64)

/-! ## Re-keying (R539, R540) -/

/-- A memory key of partition k at a generation (R568). -/
def memKey (s : State) (k : Pt) (keyId gen : Nat) : Bytes :=
  let p := s.parts[k]
  if p.conf then
    kdf (match p.session.smkSlot with | some i => (slot s i.1).key | none => []) "MDR-SMEM"
      (slice p.session.manifest 0 16 ++ [BitVec.ofNat 8 keyId] ++ beBytes 3 gen) 32
  else kdf (match p.pmkSlot with | some i => (slot s i.1).key | none => []) "MDR-PMEM" ([BitVec.ofNat 8 keyId] ++ beBytes 3 gen) 32

/-- Session slots a session may still take. -/
def slotBudget (s : State) (k : Pt) : Bool :=
  let p := s.parts[k]
  !p.conf || decide (sessionSlotsUsed s k < numAt p.session.manifest 28 2)

/-- The newest generation of a key ID's slots. -/
def newestGen (s : State) (k : Pt) (keyId : Nat) : Nat :=
  (s.sc.keys.slots.filter fun e => e.2.valid && e.2.usage == 0 && e.2.keyId.toNat == keyId && e.2.part.toNat == k.1).foldl
    (fun a e => max a e.2.kgen.toNat) 0

/-- The generation that follows every one that a key ID has had, so that generations rise although a slot is freed (R540). -/
def nextGen (s : State) (k : Pt) (keyId : Nat) : Nat := max (newestGen s k keyId) (Sparse.get 0 s.parts[k].lastGens keyId) + 1

def setLastGen (s : State) (k : Pt) (keyId gen : Nat) : State :=
  s.modPart k fun p => { p with lastGens := Sparse.set 0 p.lastGens keyId gen }

/-- The slot for a re-key from generation cur: the newest one if it is newer, else the next generation derived into a
free slot; none where no slot can be had (R540, R544). -/
def takeGen (s : State) (k : Pt) (keyId cur : Nat) : Option (State × Nat) :=
  let new := newestGen s k keyId
  if cur < new then some (s, new)
  else match (freeSlots s).head?, memSlot s k keyId new with
    | some i, some b =>
      let g := nextGen s k keyId
      if slotBudget s k then
        some (setLastGen (setSlot s i { slot s b with kgen := BitVec.ofNat 24 g, key := memKey s k keyId g }) k keyId g, g)
      else none
    | _, _ => none

/-- A re-key of a region starts, or waits for a slot (R539, R540, R544). -/
def beginRekey (s : State) (k : Pt) (h : Ps) (region keyId : Nat) : State :=
  let cur := regionGen (bank s h) region
  let e : Rekey := { region := region, keyId := BitVec.ofNat 8 keyId, part := k, oldGen := cur, newGen := cur, ptr := 0,
                     waiting := true, failed := false, bounds := 0 }
  match takeGen s k keyId cur.toNat with
  | none => s.modBank h fun t => { t with rekeys := t.rekeys ++ [e] }
  | some (s, g) =>
    let s := s.modBank h fun t => { t with rekeys := t.rekeys ++ [{ e with newGen := BitVec.ofNat 24 g, waiting := false }] }
    notePart s k 0x22 h.1 keyId region

def noteExhausted (s : State) (k : Pt) (h : Ps) (keyId region : Nat) : State :=
  let s := notePart s k 0x24 h.1 keyId region
  s.modPart k fun p => { p with session := { p.session with exhausted := satAdd p.session.exhausted 1 } }

/-- The status of a write that waits: it has not happened, and its request stays in flight (R542, R544). -/
def stStalled : Nat := 0xFE

/-- A line before a write of it: a partial write finds its errors, and a keyed write uses its counter tree. -/
def prepareLine (s : State) (key : Nat) (h : Ps) (o : MemObj) (line : Nat) (part : Bool) : State × Option Nat :=
  let s := if part then findErrors s h line else s
  if key = 0 then (s, none) else usePath s h o line true

/-- What a line is before a write, as R534 gives it to one that has not been written. -/
def lineNow (s : State) (h : Ps) (o : MemObj) (line : Nat) : LineMeta :=
  lineMeta (bank s h).lines (lineGen (bank s h) line) o line

/-- Does a keyed write of a line wait: its region has no generation slot, or the line stands at its last counter above the pointer
(R542, R544)? -/
def lineStalls (b : Bank) (line ctr : Nat) : Bool :=
  match b.rekeys.find? fun e => e.region == line / 32768 with
  | some e => if e.waiting then !e.failed else decide (e.ptr ≤ line % 32768) && ctr == 0xFFFF
  | none => false

/-- Does every keyed write of a region fail, its wait having ended without a slot (R544)? -/
def regionWorn (b : Bank) (region : Nat) : Bool := b.rekeys.any fun e => e.region == region && e.waiting && e.failed

/-- What a write of a line, or of a part of it, ends with (R420, R536–R538, R542, R544). -/
def lineFate (s : State) (key : Nat) (h : Ps) (o : MemObj) (line : Nat) (part : Bool) (treeFails : Option Nat) : Nat :=
  let m := lineNow s h o line
  if treeFails.isSome then 0x23
  else if part && m.poison && !tagFails key m then 0x17
  else if key = 0 then 0
  else if regionWorn (bank s h) (line / 32768) then 0x24
  else if lineStalls (bank s h) line m.ctr.toNat then stStalled
  else if part && tagFails key m then 0x23
  else 0

/-- What is kept of a line that has just been written. -/
def lineAfter (b : Bank) (key line : Nat) (m : LineMeta) (poison : Bool) : LineMeta :=
  if key = 0 then { m with written := true, keyId := 0, gen := 0, poison := poison, ue := false, ce := false, bad := false }
  else { m with written := true, keyId := BitVec.ofNat 8 key, gen := lineGen b line, ctr := m.ctr + 1, poison := poison, ue := false,
                ce := false, bad := false }

/-- A line stored with its counter and, for a keyed one, the counter block changed. -/
def storeLine (s : State) (key : Nat) (h : Ps) (o : MemObj) (line : Nat) (plain : Bytes) (poison : Bool) : State :=
  let m := lineNow s h o line
  (if key = 0 then s else blockChanged s h (treePath o h line)).modBank h fun b =>
    { b with mem := b.mem.writeBytes (64 * line) plain, lines := Sparse.set LineMeta.zero b.lines line (lineAfter b key line m poison) }

/-- A line, or a part of it from `pos` on, written, without its effects on bitmaps and re-keys (R420, R534–R544). Bytes with poison
leave the line stored poisoned. -/
def writeLine (s : State) (k : Pt) (key : Nat) (h : Ps) (o : MemObj) (line pos : Nat) (bs : List PByte) : State × Nat :=
  let part := decide (bs.length < 64)
  let (s, fails) := prepareLine s key h o line part
  let m := lineNow s h o line
  let loc := bankLoc h (64 * line)
  let old := (bank s h).mem.readBytes (64 * line) 64
  match lineFate s key h o line part fails with
  | 0x23 =>
    match fails with
    | some n => (noteIntegrity s k h.1 key (nodeLoc o h n) true, 0x23)
    | none => (storeLine (noteIntegrity s k h.1 key loc false) key h o line old true, 0x23)
  | 0x24 => (noteExhausted s k h key (line / 32768), 0x24)
  | 0 =>
    let s := if tagFails key m then noteIntegrity s k h.1 key loc false else s
    if bs.any (·.2) then (storeLine s key h o line old true, 0)
    else
      let base := if part && key == 0 then rawLine s k m (loc / 64) old else old
      (storeLine s key h o line (splice base pos (bs.map (·.1))) false, 0)
  | st => (s, st)

/-- A write that has brought the counter of a line to 0xFF00 triggers the re-key of its region (R539). -/
def triggerRekey (s : State) (k : Pt) (key : Nat) (h : Ps) (line : Nat) : State :=
  if key ≠ 0 ∧ (Sparse.get LineMeta.zero (bank s h).lines line).ctr = 0xFF00 ∧
      !((bank s h).rekeys.any fun e => e.region == line / 32768) then beginRekey s k h (line / 32768) key
  else s

/-- One line written as a request of its own. -/
def putLine (s : State) (k : Pt) (key : Nat) (h : Ps) (o : MemObj) (line pos : Nat) (bs : List PByte) : State × Nat :=
  let (s, st) := writeLine s k key h o line pos bs
  (if st = 0 ∨ st = 0x23 then triggerRekey s k key h line else s, st)

/-- The touched bits that a write to bank m sets (R348): grains of stream 0 of the active regions. -/
def touchedBits (s : State) (m : Ps) (off n : Nat) : List (Pt × Nat × Nat) :=
  let loc := bankLoc m off
  allPts.flatMap fun k => (activeRegions s k).flatMap fun (_, d) =>
    let w := strWord d 0
    let base := addrLoc (strElem w)
    let len := (strElems d 0 * strWidth w + 7) / 8
    let g := streamGrain d 0 * strWidth w
    if regTrack d && overlaps base len loc n && g != 0 then
      let a := max loc base - base
      let z := min (loc + n) (base + len) - base
      ((List.range ((8 * z - 1) / g - 8 * a / g + 1)).map fun i => (k, regBitmap d, 8 * a / g + i))
    else []

/-- The bank of a location with the offset in it; none elsewhere. -/
def bankAt (s : State) (loc : Nat) : Option (Ps × Nat) :=
  match locate s loc with
  | .hbm h off => some (hbBank h, off)
  | .cellar off => some (cellarBank, off)
  | _ => none

/-- An object is used in the current tick (R404). -/
def useObj (s : State) (k : Pt) (obj : BitVec 16) : State :=
  s.modPart k fun p => { p with mem := p.mem.map fun o => if o.obj = obj then { o with lastUse := s.meridian.tick } else o }

/-- The CC will announce the page of an object that the cellar press has written (R407). -/
def announce (s : State) (k : Pt) (o : MemObj) (off : Nat) : State :=
  let n : Notice := { part := k, obj := o.obj, page := some ((off - o.celBase.getD 0 * regionBytes) / 4096) }
  { s with cellar := { s.cellar with notices := if s.cellar.notices.contains n then s.cellar.notices else s.cellar.notices ++ [n] } }

/-- A touched bit written in the bitmap of partition k (R348, R350): a write like any other, which waits where the region of the bitmap
waits (R542, R544). -/
def setTouched (s : State) (k : Pt) (bm g : Nat) (v : Bool) : State :=
  match bankAt s (addrLoc bm + g / 8) with
  | some (m, off) =>
    match objInBank s.parts[k] m off with
    | some o =>
      let (s, st) := putLine (useObj s k o.obj) k (addrKey bm) m o (off / 64) (off % 64) [(setBit ((bank s m).mem.read off) (g % 8) v, false)]
      if st = stStalled then { s with stalled := s.stalled ++ [.touched k bm g v] }
      else if m = cellarBank ∧ st = 0 then announce s k o off
      else s
    | none => s
  | none => s

/-- A write of n bytes to bank m sets the touched bits of the grains it reaches. -/
def noteTouched (s : State) (m : Ps) (off n : Nat) : State :=
  (touchedBits s m off n).foldl (fun s (k, b, g) => setTouched s k b g true) s

/-- An owner contributes when a line is read under its key ID in the compute phase (R553). -/
def contribute (s : State) (k : Pt) (key : Nat) : State :=
  match bindingOf s k key with
  | some b =>
    if s.parts[k].conf && s.parts[k].step.phase == .compute && decide (bindParty b < 32) then
      s.modPart k fun p => { p with step := { p.step with owners := p.step.owners ||| BitVec.ofNat 32 (2 ^ bindParty b) } }
    else s
  | none => s

/-- Does the copy of a CACHED object serve reads: until the boundary after MEM_FREE, but not once an eviction has released it (R395,
R400, R406)? -/
def MemObj.hasCopy (o : MemObj) : Bool := o.hbmBase.isSome && (o.st == .usable || o.st == .freeing)

/-- A cellar line read from the cellar itself; a poisoned one fails the read (R417). -/
def readFar (s : State) (k : Pt) (key : Nat) (o : MemObj) (off : Nat) : LineRead :=
  let r := readLine s k key cellarBank o (off / 64)
  if r.st = 0x17 then { r with st := 0x19 } else r

/-- A fetch of a page into the copy of a CACHED object begins, unless one is under way that no notice has named (R400, R410). -/
def beginFetch (s : State) (k : Pt) (o : MemObj) (page : Nat) : State :=
  if !o.hasCopy || (o.fetching.any fun f => f.page == page && f.good) then s
  else
    let f : Refill := ⟨page, true, s.meridian.tick + BitVec.ofNat 64 (s.parts[k].policy.deadline.toNat + 1)⟩
    s.modPart k fun p => { p with mem := p.mem.map fun x =>
      if x.obj = o.obj then { x with fetching := x.fetching.filter (·.page != page) ++ [f] } else x }

/-- One cellar line read for a master: from the copy where its page is valid, else from the cellar, with the fetch of
the page into the copy (R400). -/
def readCached (s : State) (k : Pt) (key : Nat) (o : MemObj) (off : Nat) : LineRead :=
  match o.hbmBase, o.celBase with
  | some hb, some cb =>
    let page := (off - cb * regionBytes) / 4096
    if o.hasCopy && o.pages.contains page then readLine s k key (hbBank o.stack) o ((hb * regionBytes + (off - cb * regionBytes)) / 64)
    else readFar (beginFetch s k o page) k key o off
  | _, _ => readFar s k key o off

/-- The outcome of a read of a range: bytes with poison, the error that it ends with, and how many bytes had been read once a line had
failed in the cellar (R418). -/
structure RangeRead where
  s   : State
  bs  : List PByte
  st  : Nat
  cut : Option Nat

/-- One piece read by a master for partition k; the checks of R425 have passed. -/
def readPiece (s : State) (k : Pt) (key loc n : Nat) : LineRead × List PByte :=
  let none' : LineRead := ⟨s, [], false, 0x0F⟩
  match locate s loc with
  | .spad c off =>
    let bs := spadPeek s.clusters[c] off n
    (⟨notePoisonReads s c off n, [], false, if bs.any (·.2) then 0x17 else 0⟩, bs)
  | .hbm h off =>
    match objInHbm s.parts[k] h off with
    | some o =>
      let r := readLine (contribute (useObj s k o.obj) k key) k key (hbBank h) o (off / 64)
      (r, (slice r.bytes (off % 64) n).map fun b => (b, r.poison))
    | none => (none', clean (List.replicate n 0))
  | .cellar off =>
    match objInCellar s.parts[k] off with
    | some o =>
      let r := readCached (contribute (useObj s k o.obj) k key) k key o off
      (r, (slice r.bytes (off % 64) n).map fun b => (b, r.poison))
    | none => (none', clean (List.replicate n 0))
  | .unmapped => (none', clean (List.replicate n 0))

/-- The pieces of a range in order. The request ends with its first error, and with the cellar-failed error where a line failed in the
cellar (R417, R418). -/
def readPieces (k : Pt) (key : Nat) : List (Nat × Nat) → RangeRead → RangeRead
  | [], r => r
  | (a, n) :: ps, r =>
    let (x, bs) := readPiece r.s k key a n
    readPieces k key ps
      { s := x.s, bs := r.bs ++ bs, st := if r.st = 0 ∨ x.st = 0x19 then x.st else r.st,
        cut := if r.cut.isNone ∧ x.st = 0x19 then some (r.bs.length + n) else r.cut }

/-- A range read for partition k. -/
def readRange (s : State) (k : Pt) (addr len : Nat) : RangeRead :=
  readPieces k (addrKey addr) (linesOf (addrLoc addr) len) ⟨s, [], 0, none⟩

/-- One piece written by a master for partition k; the checks of R425 have passed. A write that reaches the line sets its touched bits
(R348). -/
def writePiece (s : State) (k : Pt) (key loc : Nat) (bs : List PByte) (code : Bool) : State × Nat :=
  match locate s loc with
  | .spad c off => (s.modCluster c fun t => spadWrite t off bs code, 0)
  | .hbm h off =>
    match objInHbm s.parts[k] h off with
    | some o =>
      let (t, st) := writeLine (useObj s k o.obj) k key (hbBank h) o (off / 64) (off % 64) bs
      let stored := st == 0 || (st == 0x23 && (lineNow t (hbBank h) o (off / 64)).ctr != (lineNow s (hbBank h) o (off / 64)).ctr)
      (if stored then noteTouched t (hbBank h) off bs.length else t, st)
    | none => (s, 0x0F)
  | _ => (s, 0x0F)

/-- What a piece of a write will end with, and the state once its line has been prepared. -/
def pieceFate (s : State) (k : Pt) (key : Nat) (x : Nat × Nat) : State × Nat :=
  match locate s x.1 with
  | .spad .. => (s, 0)
  | .hbm h off =>
    match objInHbm s.parts[k] h off with
    | some o =>
      let part := decide (x.2 < 64)
      let (s, fails) := prepareLine s key (hbBank h) o (off / 64) part
      (s, lineFate s key (hbBank h) o (off / 64) part fails)
    | none => (s, 0x0F)
  | _ => (s, 0x0F)

def pieceFates (k : Pt) (key : Nat) : List (Nat × Nat) → State → State × List Nat
  | [], s => (s, [])
  | x :: xs, s =>
    let (s, f) := pieceFate s k key x
    let (s, fs) := pieceFates k key xs s
    (s, f :: fs)

/-- A request cut into its pieces, each with its bytes. -/
def cutBytes {α : Type} : List (Nat × Nat) → List α → List (Nat × List α)
  | [], _ => []
  | (a, n) :: ps, bs => (a, bs.take n) :: cutBytes ps (bs.drop n)

/-- Pieces written one after the other; the status is that of the first error. -/
def writePieces (k : Pt) (key : Nat) (code : Bool) : List (Nat × List PByte) → (s : State) → (st : Nat) → State × Nat
  | [], s, st => (s, st)
  | (a, bs) :: ps, s, st =>
    let (s, st') := writePiece s k key a bs code
    writePieces k key code ps s (if st = 0 then st' else st)

/-- The re-keys that the pieces of a request trigger, once all of it has been written. -/
def triggerRekeys (s : State) (k : Pt) (key : Nat) (ps : List (Nat × Nat)) : State :=
  ps.foldl (fun s x => match bankAt s x.1 with | some (m, off) => triggerRekey s k key m (off / 64) | none => s) s

/-- An error after which a request writes no byte but the poisoned line of R536 (R538). -/
def writesNone (st : Nat) : Bool := st == 0x23 || st == 0x24

/-- The pieces at which a request that writes nothing else fails: those with the integrity error, and the first without a generation slot,
which records the one event of the failure (R536, R544). -/
def failingPieces {α : Type} : (worn : Bool) → List (α × Nat) → List α
  | _, [] => []
  | worn, (x, f) :: xs =>
    if f = 0x23 then x :: failingPieces worn xs
    else if f = 0x24 ∧ !worn then x :: failingPieces true xs
    else failingPieces worn xs

/-- A range written for partition k. A request that waits has written nothing (R542, R544). -/
def writeRange (s : State) (k : Pt) (addr : Nat) (bs : List PByte) (code : Bool) : State × Nat :=
  let key := addrKey addr
  let ps := linesOf (addrLoc addr) bs.length
  let (s, fates) := pieceFates k key ps s
  let cut := cutBytes ps bs
  if fates.any writesNone then
    let (s, st) := writePieces k key code (failingPieces false (cut.zip fates)) s 0
    (triggerRekeys s k key ps, st)
  else if fates.contains stStalled then (s, stStalled)
  else
    let (s, st) := writePieces k key code cut s 0
    (triggerRekeys s k key ps, st)

/-- A write of this range would wait for a generation slot or for the pointer of a re-key (R542, R544). -/
def wouldStall (s : State) (addr len : Nat) : Bool :=
  addrKey addr != 0 && (linesOf (addrLoc addr) len).any fun (a, _) =>
    match bankAt s a with
    | some (m, off) => lineStalls (bank s m) (off / 64) (Sparse.get LineMeta.zero (bank s m).lines (off / 64)).ctr.toNat
    | none => false

/-- Bytes within a line written into an object's cellar part by the cellar press: used, touched, and announced by the CC in the next
batch of notices (R30, R348, R404, R407). -/
def cellarPut (s : State) (k : Pt) (key : Nat) (o : MemObj) (off : Nat) (bs : Bytes) : State × Nat :=
  let (s, st) := writeLine (useObj s k o.obj) k key cellarBank o (off / 64) (off % 64) (clean bs)
  if st ≠ 0 then (s, st) else (announce (noteTouched s cellarBank off bs.length) k o off, 0)

/-- One piece written by a press under its write mask: HBM, or for the cellar press the cellar too (R330, R373). A request that may not
pass, or that a line refuses, ends with its error, logged (R387, R396, R406, R425). -/
def pressPiece (s : State) (k : Pt) (key loc : Nat) (bs : Bytes) : State × Nat :=
  match checkPiece s k 3 key loc bs.length true with
  | 0 =>
    let (s, st) := match locate s loc with
      | .cellar off =>
        match objInCellar s.parts[k] off with
        | some o =>
          let (s, st) := cellarPut s k key o off bs
          ({ s with cellar := { s.cellar with lastWrite := setBit s.cellar.lastWrite k.1 true } }, st)
        | none => (s, 0x0F)
      | _ => writePiece s k key loc (clean bs) false
    (if st = 0 ∨ st = stStalled then s else badRequest s k 0xFF st loc, st)
  | st => (badRequest s k 0xFF st loc, st)

/-- What ends the writes of a grain: a region without a generation slot, or one that waits for it or for its pointer (R542, R544, R545). -/
def pressEnds (st : Nat) : Bool := st == 0x24 || st == stStalled

/-- Pieces written by a press. -/
def pressPieces (k : Pt) (key : Nat) : List (Nat × Bytes) → (s : State) → (st : Nat) → State × Nat
  | [], s, st => (s, st)
  | (a, bs) :: ps, s, st =>
    let (s, st') := pressPiece s k key a bs
    if pressEnds st' then (s, st') else pressPieces k key ps s (if st = 0 then st' else st)

/-- The errors of what a press reads are logged as its requests end (R425). -/
def pressRead (s : State) (k : Pt) (addr len : Nat) : RangeRead :=
  match firstBad s k 3 addr len false with
  | some (st, loc) => ⟨badRequest s k 0xFF st loc, clean (List.replicate len 0), st, none⟩
  | none =>
    let r := readRange s k addr len
    if r.st = 0 then r else { r with s := badRequest r.s k 0xFF r.st (addrLoc addr) }

/-- The ranges that a press writes at the end of a grain, for partition k (R347). -/
def pressWrites (s : State) (k : Pt) (puts : List (Nat × Bytes)) : State × Nat :=
  let (s, st) := puts.foldl (fun (s, st) x => if pressEnds st then (s, st) else
    let (s, st') := pressPieces k (addrKey x.1) (cutBytes (linesOf (addrLoc x.1) x.2.length) x.2) s 0
    (s, if pressEnds st' || st == 0 then st' else st)) (s, 0)
  (puts.foldl (fun s x => triggerRekeys s k (addrKey x.1) (linesOf (addrLoc x.1) x.2.length)) s, st)

/-! ## Touched bits read and cleared by a press (R330, R348, R350–R352) -/

/-- A touched bit as a press reads it, with the status of the read. -/
structure TouchedRead where
  s   : State
  set : Bool
  st  : Nat

/-- The value that a touched bit will have once its waiting writes are done. -/
def waitingBit (s : State) (k : Pt) (bm g : Nat) : Option Bool :=
  (s.stalled.filterMap fun x => match x with | .touched k' b g' v => if k' = k ∧ b = bm ∧ g' = g then some v else none | _ => none).getLast?

/-- A touched bit that cannot be read counts as set, so that its grain is not passed over (notes/assumptions/168.md, DEDUCED). -/
def readTouched (s : State) (k : Pt) (bm g : Nat) : TouchedRead :=
  let r := pressRead s k (bm + g / 8) 1
  if r.st ≠ 0 then ⟨r.s, true, r.st⟩
  else ⟨r.s, (waitingBit s k bm g).getD (bit ((r.bs.map (·.1)).headD 0) (g % 8)), 0⟩

/-- The press clears a touched bit; a bitmap that it may not write is left, and the error logged (R350, R425). -/
def clearTouched (s : State) (k : Pt) (bm g : Nat) : State :=
  match checkPiece s k 3 (addrKey bm) (addrLoc bm + g / 8) 1 true with
  | 0 => setTouched s k bm g false
  | st => badRequest s k 0xFF st (addrLoc bm + g / 8)

end Sys2Proof.Machine
end

