-- ==== Sys2Proof/Machine/Stream.lean ====
section
/-! DEFINITION. The command streams of the clusters' SQs, replay units and their causes, the local NONFINITE flag, and
the fence of a cluster (spec/02_meridian_and_scheduling.md R763, spec/07_replay_and_escalation.md R296–R329,
spec/16_field_test_and_errors.md R717–R719). -/

namespace Sys2Proof.Machine

open Sys2Proof

def allTcs : List Tc := List.finRange 16

/-- The clusters of a mask. -/
def tcsOf (m : BitVec 16) : List Tc := allTcs.filter fun c => bit m c.1

/-! ## Replay marks (R297–R302) -/

/-- The mark of a unit, as its setup object; the fields of R297. -/
def markClusters (o : SetupObj) : BitVec 16 := BitVec.ofNat 16 (numAt o.bytes 4 2)
def markMax (o : SetupObj) : Nat := numAt o.bytes 0 8 / 2 ^ 29 % 8
def markCmds (o : SetupObj) : Nat := numAt o.bytes 0 8 / 2 ^ 16 % 2 ^ 12
def markBinds (o : SetupObj) : Nat := numAt o.bytes 0 8 / 2 ^ 8 % 16
def markId (o : SetupObj) : Nat := numAt o.bytes 6 2

/-- BASE, ALT_1 to ALT_4 of binding j. -/
def markBinding (o : SetupObj) (j : Nat) : W32 × List W32 :=
  let w := fun i => numAt o.bytes (8 * (17 + 3 * j + i)) 8
  (BitVec.ofNat 32 (w 0 / 2 ^ 32), [BitVec.ofNat 32 (w 0), BitVec.ofNat 32 (w 1 / 2 ^ 32), BitVec.ofNat 32 (w 1),
    BitVec.ofNat 32 (w 2 / 2 ^ 32)])

def MarkState.zero (idx : BitVec 16) : MarkState := ⟨idx, 0, 0, 0⟩

/-- The state kept beside a mark (R301). -/
def markState (p : Partition) (idx : BitVec 16) : MarkState :=
  (p.marks.find? fun m => m.idx == idx).getD (MarkState.zero idx)

def setMark (p : Partition) (m : MarkState) : Partition :=
  { p with marks := m :: p.marks.filter fun x => x.idx != m.idx }

/-- The open unit of a mark. -/
def unitOf (p : Partition) (mark : W32) : Option ReplayUnit := p.units.find? fun u => u.mark == mark

/-- The level of a mark for a command of an open unit, or of none: a level changed at a step end applies to units that begin after
that boundary (R302, R313). -/
def levelFor (p : Partition) (unit : Option W32) (idx : BitVec 16) : BitVec 3 :=
  match (unit.bind (unitOf p)).bind fun u => u.oldLevels.find? fun x => x.1 == idx with
  | some x => x.2
  | none => (markState p idx).level

/-- A handle as it is executed: the alternate of the mark that binds it as BASE, at the mark's level (R302). -/
def substitute (p : Partition) (unit : Option W32) (h : W32) : W32 :=
  let hits := (p.objs.filter fun o => o.typ == 6).flatMap fun o =>
    (List.range (markBinds o)).filterMap fun j =>
      let b := markBinding o j
      let l := (levelFor p unit o.idx).toNat
      if b.1 = h ∧ l ≠ 0 then b.2[l - 1]? else none
  hits.headD h

def modUnit (s : State) (k : Pt) (mark : W32) (f : ReplayUnit → ReplayUnit) : State :=
  s.modPart k fun p => { p with units := p.units.map fun u => if u.mark = mark then f u else u }

/-- The clusters that have passed the UNIT_END of every queue that feeds the unit (R315). -/
def unitEnded (u : ReplayUnit) : BitVec 16 :=
  u.qs.foldl (fun m j => m &&& (match u.ended.find? fun x => x.1 == j with | some x => x.2 | none => 0)) (BitVec.allOnes 16)

/-- The clusters that have passed the UNIT_END of queue j, with cluster c added. -/
def passEnd (u : ReplayUnit) (j : Fin 16) (c : Tc) : ReplayUnit :=
  let old := match u.ended.find? fun x => x.1 == j with | some x => x.2 | none => 0
  { u with ended := (j, setBit old c.1 true) :: u.ended.filter fun x => x.1 != j }

/-- The clusters of an open unit. -/
def unitClusters (p : Partition) (u : ReplayUnit) : BitVec 16 :=
  match objOf p u.mark with | some o => markClusters o | none => u.reached

/-! ## The streams (R763) -/

/-- May a command start that belongs to a unit: the unit has been captured and is not rolling back (R307, R310)? -/
def unitRuns (p : Partition) (mark : Option W32) : Bool :=
  match mark with
  | none => true
  | some m => match unitOf p m with
    | some u => u.captured.isSome && !u.rolling && !u.rerunWait
    | none => true

/-- Does no quench stop the L2 and L3 traffic of partition k on the on-die network (R83, R93)? -/
def admits (s : State) (k : Pt) : Bool := !s.parts[k].quenched && !s.links.quenchAll

/-- A stream scanned in order: the commands that start now, each after every earlier one has been passed. Commands that
a halt holds are stepped over, and a MOVE of a source that a quench stops is not admitted (R93). -/
def scanJobs (parts : Vector Partition 4) (moves : Pt → Bool) : (blocked : Bool) → List SqJob → List SqJob × List SqJob
  | _, [] => ([], [])
  | blocked, b :: bs =>
    if b.ended || b.held then
      let (a, n) := scanJobs parts moves blocked bs
      (b :: a, n)
    else if b.started then
      let (a, n) := scanJobs parts moves (blocked || (b.kind == .run && (b.left != 0 || b.waits))) bs
      (b :: a, n)
    else if blocked || (b.kind != .unitBegin && !unitRuns parts[b.part] b.unit) || (b.kind == .move && !moves b.part) then
      let (a, n) := scanJobs parts moves true bs
      (b :: a, n)
    else
      let b' := { b with started := true,
                         ended := match b.kind with | .run => b.total == 0 | .move => false | _ => true }
      let (a, n) := scanJobs parts moves (b.kind == .run && b.total != 0) bs
      (b' :: a, b' :: n)

/-- Does a request for `addr` reach the cellar: a cellar location that no valid page of a copy serves (R400)? -/
def servedByCellar (s : State) (k : Pt) (addr len : Nat) : Bool :=
  (linesOf (addrLoc addr) len).any fun (a, _) =>
    match locate s a with
    | .cellar off =>
      match objInCellar s.parts[k] off with
      | some o => !(o.hasCopy && o.pages.contains ((off - o.celBase.getD 0 * regionBytes) / 4096))
      | none => true
    | _ => false

/-- The cellar port that carries the page of a cellar offset: that of the page rule, while it is up; else the other port of its link
die; else those of the other die by the same rule; none where no port is up (R413, R414). -/
def pagePort (s : State) (off : Nat) : Option Cp :=
  let p := off / 2 ^ 12 % 4 ^^^ off / 2 ^ 21 % 4
  ([p, p ^^^ 1, p ^^^ 2, p ^^^ 3].find? fun q => bit s.cellar.cpUp q).map fun q => ⟨q % 4, Nat.mod_lt _ (by decide)⟩

/-- The pieces in which the tile mover splits a transfer from the cellar: a page each, with the port it travels on (R413). -/
def cellarPieces (s : State) (k : Pt) (addr len : Nat) : List (Nat × Option Cp) :=
  (List.range (if len = 0 then 0 else (addrLoc addr + len - 1) / 4096 - addrLoc addr / 4096 + 1)).filterMap fun i =>
    let page := (addrLoc addr / 4096 + i) * 4096
    match locate s page with
    | .cellar off => if servedByCellar s k page 1 then some (off, pagePort s off) else none
    | _ => none

/-- The operands of a MOVE (R676). -/
def mvSrc (e : Entry) : Nat := fld e.w2 51 0
def mvDst (e : Entry) : Nat := fld e.w3 51 0
def mvLen (e : Entry) : Nat := fld e.w4 31 0
def mvCluster (e : Entry) : Tc := ⟨fld e.w5 3 0 % 16, Nat.mod_lt _ (by decide)⟩
def mvDeadline (e : Entry) : Nat := fld e.w5 11 8

/-- The tile mover issues the request of a MOVE; a deadline runs where the cellar serves it (R415). -/
def issueMove (s : State) (c : Tc) (b : SqJob) : State :=
  let d := if mvDeadline b.e = 0 then s.parts[b.part].policy.deadline.toNat else mvDeadline b.e
  let r : CellarReq :=
    { id := b.id, part := b.part, qj := b.qj, tag := BitVec.ofNat 16 (fld b.e.w0 15 0), cluster := c, src := mvSrc b.e,
      dst := mvDst b.e, len := mvLen b.e, deadline := s.meridian.tick + BitVec.ofNat 64 (d + 1),
      cellar := servedByCellar s b.part (mvSrc b.e) (mvLen b.e), pieces := cellarPieces s b.part (mvSrc b.e) (mvLen b.e) }
  { s with reqs := s.reqs.filter (fun x => x.id != b.id) ++ [r] }

/-- Has the unit of a mark been captured? -/
def isCaptured (p : Partition) (mark : W32) : Bool := match unitOf p mark with | some u => u.captured.isSome | none => true

/-- What the start of a command does at once: UNIT_BEGIN reached, UNIT_END and STEP_FENCE passed (R307, R315, R320), the
request of a MOVE issued. The UNIT_BEGIN of a further queue of a captured unit has nothing to wait for. -/
def jobStarted (s : State) (c : Tc) (b : SqJob) : State :=
  match b.kind, b.unit with
  | .unitBegin, some m =>
    let s := modUnit s b.part m fun u => { u with reached := setBit u.reached c.1 true }
    if isCaptured s.parts[b.part] m then streamDone s b.part b.id c else s
  | .unitEnd, some m => streamDone (modUnit s b.part m fun u => passEnd u b.qj c) b.part b.id c
  | .unitEnd, none => streamDone s b.part b.id c
  | .fence, _ =>
    streamDone (s.modPart b.part fun p =>
      if p.step.phase == .compute && !bit p.step.fences c.1 then { p with step := { p.step with fences := setBit p.step.fences c.1 true } }
      else { p with step := { p.step with nextFences := setBit p.step.nextFences c.1 true } }) b.part b.id c
  | .move, _ => issueMove s c b
  | .run, _ => if b.ended then streamDone s b.part b.id c else s
  | _, _ => s

/-- Commands that have ended leave the stream, but those of an open unit stay for its re-run (R308). -/
def pruneJobs (s : State) (c : Tc) : State :=
  s.modCluster c fun t => { t with jobs := t.jobs.filter fun b => !b.ended ||
    (match b.unit with | some m => (unitOf s.parts[b.part] m).isSome | none => false) }

/-- A cluster's SQ starts what it can. -/
def pump (s : State) (c : Tc) : State :=
  if s.clusters[c].fenced then s
  else
    let (jobs, started) := scanJobs s.parts (admits s) false s.clusters[c].jobs
    let s := s.modCluster c fun t => { t with jobs := jobs }
    pruneJobs (started.foldl (fun s b => jobStarted s c b) s) c

def pumpAll (s : State) : State := allTcs.foldl pump s

/-- A command enters the streams of the clusters of a mask (R763). -/
def enterStreams (s : State) (p : Pending) (k : Pt) (j : Fin 16) (kind : JobKind) (m : BitVec 16) (unit : Option W32) : State :=
  let b : SqJob := { id := p.id, part := k, qj := j, e := p.e, kind := kind, unit := unit, total := 0, left := 0,
                     running := 0, waits := false, started := false, ended := false, held := false }
  let enter := fun (c : Fin 16) =>
    let n := p.items.getD c.1 0
    let x := s.clusters[c]
    if bit m c.1 then { x with jobs := x.jobs ++ [{ b with total := n, left := n }] } else x
  let s := { s with clusters := Vector.ofFn enter }
  (tcsOf m).foldl pump s

/-- A work item has left the SQ program: it is queued or runs. -/
def itemDispatched (s : State) (c : Tc) (id : Nat) : State :=
  pump (modJob s c id fun b => { b with left := b.left - 1, running := b.running + 1 }) c

/-- The unit that a queue fills at present: its last one, while its UNIT_END has not been issued (R305). -/
def openUnitOfQueue (s : State) (k : Pt) (j : Fin 16) : Option W32 :=
  match (s.parts[k].units.filter fun u => u.qs.contains j).getLast? with
  | some u => if s.clusters.toList.any fun c => c.jobs.any fun b => b.part == k && b.qj == j && b.kind == .unitEnd && b.unit == some u.mark then none
              else some u.mark
  | none => none

/-! ## Events of a partition -/

/-- A partition fault (R57): recorded, signalled, and every data queue halts at the boundary. -/
def partitionFault (s : State) (k : Pt) (c : Tc) (cause : Nat) : State :=
  let s := raisePart (notePart s k 0x31 c.1 0xFFFF cause) k 2
  s.modPart k fun p => { p with halting := true }

/-- A record of R325 with the fields of a unit. -/
def unitRec (s : State) (k : Pt) (typ : Nat) (u : ReplayUnit) (causes : Byte) (cluster : Nat) (before after replayNo detail : Nat) : LogRec :=
  let o := objOf s.parts[k] u.mark
  { partRec s k typ cluster ((o.map markId).getD 0xFFFF) detail with
    causes := causes, levels := BitVec.ofNat 8 (before * 16 + after), replayNo := BitVec.ofNat 8 replayNo,
    handleIndex := BitVec.ofNat 16 u.mark.toNat }

/-- The local NONFINITE flag is set by a cause: in the compute phase for this step, later for the next one (R319). -/
def setNonfinite (s : State) (k : Pt) (cluster : Nat) (cause : Byte) : State :=
  let p := s.parts[k]
  if p.step.phase != .compute then s.modPart k fun p => { p with step := { p.step with nextNf := p.step.nextNf ||| cause } }
  else
    let s := s.modPart k fun p => { p with step := { p.step with localNf := true, nfCauses := p.step.nfCauses ||| cause } }
    if p.step.localNf then s
    else
      let s := s.count k fun c => { c with localNonfinite := satAdd c.localNonfinite 1 }
      logPart s k { partRec s k 0x07 cluster 0xFFFF 0 with causes := cause }

/-! ## Replay (R309–R314) -/

/-- Work items running for a unit, MOVEs among them, and its CHECK verdicts not yet ready (R310, R315). -/
def unitRunning (s : State) (k : Pt) (mark : W32) : Bool :=
  s.clusters.toList.any fun c => c.part == some k &&
    ((c.ve.run.map (·.unit)) == some (some mark) || c.latches.any (fun l => l.item.unit == some mark) ||
      c.verdicts.any (fun v => v.unit == some mark) ||
      c.jobs.any fun b => b.kind == .move && b.unit == some mark && b.started && !b.ended)

/-- Work of a unit that has not completed: its stream commands and whatever runs. -/
def unitBusy (s : State) (k : Pt) (mark : W32) : Bool :=
  unitRunning s k mark || s.clusters.toList.any fun c => c.part == some k &&
    (c.jobs.any (fun b => b.unit == some mark && !b.ended) || c.meQueue.any (fun i => i.unit == some mark) ||
      c.ve.queue.any (fun i => i.unit == some mark))

/-- The units rolled back with a unit: itself and every later open one that shares a cluster with it (R310). -/
def rollGroup (p : Partition) (mark : W32) : List ReplayUnit :=
  match unitOf p mark with
  | none => []
  | some u => u :: ((p.units.dropWhile fun x => x.mark != mark).drop 1).filter fun x => unitClusters p x &&& unitClusters p u != 0

/-- Step 1 of R310: no more is dispatched for the group, and its entries in the ME and VE queues are discarded. -/
def beginRoll (s : State) (k : Pt) (mark : W32) : State :=
  let ms := (rollGroup s.parts[k] mark).map (·.mark)
  let inGroup := fun (u : Option W32) => match u with | some m => ms.contains m | none => false
  let s := s.modPart k fun p => { p with units := p.units.map fun u => if ms.contains u.mark then { u with rolling := true } else u }
  let s := { s with waiters := s.waiters.filter fun w => match w.src with
    | some c => !(s.clusters[c].jobs.any fun b => b.waits && inGroup b.unit)
    | none => true }
  { s with clusters := vmap s.clusters fun c =>
      if c.part = some k then
        { c with meQueue := c.meQueue.filter fun i => !inGroup i.unit,
                 heldWork := c.heldWork.filter fun h => !(c.jobs.any fun b => b.id == h.job && inGroup b.unit),
                 ve := { c.ve with queue := c.ve.queue.filter fun i => !inGroup i.unit } }
      else c }

/-- A LINK_GO completes with its route (R457). -/
def endGo (k : Pt) (idx : BitVec 16) (s : State) : State :=
  match s.parts[k].inflight.find? fun p => p.wait == .route idx with
  | some p => postCompletion (dropPending s p) p.q { tag := BitVec.ofNat 16 (fld p.e.w0 15 0), status := 0, res0 := 0, res1 := 0, res2 := 0 }
  | none => s

/-- Step 3 of R310: a revoke token for each tentative send of a unit, in the next control slot. The sends complete without a signal (R457);
a later send of the route goes on behind them (R318). -/
def revokeSends (s : State) (k : Pt) (u : ReplayUnit) : State :=
  let mine := fun (r : RouteRun) => r.part == k && r.unit == some u.mark && r.commitTick == none
  let rs := s.links.routes.filter mine
  let ts := (rs.filter fun r => r.seq != r.seqFirst).map fun r =>
    (r.port, ({ part := k, stream := r.stream.setWidth 16, seqFirst := r.seqFirst, seqLast := r.seq - 1,
                sendTick := BitVec.ofNat 16 (if r.sentAll then r.sendTick else s.meridian.tick).toNat } : Token))
  let next := rs.map fun r => (k, r.idx, r.seq)
  let s := { s with links := { s.links with
    tokensDue := s.links.tokensDue ++ ts, routes := s.links.routes.filter fun r => !mine r,
    sendSeq := next ++ s.links.sendSeq.filter fun x => !(rs.any fun r => x.1 == k && x.2.1 == r.idx) } }
  rs.foldl (fun s r => endGo k r.idx s) s

/-- What the hold or the spill region keeps of a captured page. -/
def capturedBytes (s : State) (k : Pt) (x : Captured) : List PByte :=
  match x.page with
  | some q => spadPeek s.clusters[x.cluster] (s.parts[k].holdBase.toNat + 4096 * q) 4096
  | none => x.spilled

/-- Step 4 of R310: the hold is copied back, and the tiles that the unit opened are closed. -/
def restoreUnit (s : State) (k : Pt) (u : ReplayUnit) : State :=
  let s := (u.captured.getD []).foldl (fun s x => s.modCluster x.cluster fun c => spadWrite c x.addr (capturedBytes s k x) false) s
  u.tiles.foldl (fun s (c, t) => s.modCluster c fun x => { x with tiles := Sparse.set (0 : W32) x.tiles t (setBit (Sparse.get (0 : W32) x.tiles t) 31 false) }) s

/-- The commands of a unit stand again as they stood after UNIT_BEGIN. -/
def rewindJobs (s : State) (mark : W32) : State :=
  let f := fun (b : SqJob) =>
    if b.unit = some mark ∧ b.kind ≠ .unitBegin then
      { b with left := b.total, running := 0, waits := false, started := false, ended := false, held := false }
    else b
  { s with clusters := vmap s.clusters fun c => { c with jobs := c.jobs.map f } }

/-- The work of a failed unit is abandoned (R314): of a program that a cluster has begun nothing more is dispatched, and the cluster has
ended it; what no cluster has begun is held by the halt of its queue (R763). -/
def abandonJobs (s : State) (k : Pt) (mark : W32) : State :=
  let begun := fun (b : SqJob) => b.part == k && b.unit == some mark && b.kind == .run && b.started && !b.ended
  let ended := allTcs.flatMap fun c => (s.clusters[c].jobs.filter begun).map fun b => (c, b.id)
  let s := { s with clusters := vmap s.clusters fun c =>
    { c with jobs := c.jobs.map fun b => if begun b then { b with left := 0, running := 0, waits := false, ended := true } else b } }
  ended.foldl (fun s x => streamDone s k x.2 x.1) s

/-- A unit as its re-run finds it. -/
def freshRun (conf : Bool) (u : ReplayUnit) : ReplayUnit :=
  { u with causes := 0, causeAt := 0xFF, checkMask := 0, overflowC := 0, ended := [], flushed := 0, nonzero := 0,
           wideOnly := true, ceilings := [], tiles := [], completed := false, rolling := false, rerunWait := conf }

/-- A unit rolled back with an earlier one: with causes of its own pending, its own replay comes next and serves them (R311). -/
def rolledBack (conf : Bool) (u : ReplayUnit) : ReplayUnit :=
  if u.causes = 0 then freshRun conf u
  else { freshRun conf u with causes := u.causes, causeAt := u.causeAt, checkMask := u.checkMask, overflowC := u.overflowC, rolling := true }

/-- DETAIL of a replay record (R325). -/
def causeDetail (u : ReplayUnit) : Nat :=
  if bit u.causes 0 then u.checkMask.toNat else if bit u.causes 1 then u.overflowC.toNat else 0

/-- A unit past REPLAY_LIMIT fails (R314): its group rolls back and is not re-run, the local flag is set, and the queues
that fed it halt. -/
def failUnit (s : State) (k : Pt) (mark : W32) : State :=
  let p := s.parts[k]
  match unitOf p mark, rollGroup p mark with
  | some u, g =>
    let m := markState p (BitVec.ofNat 16 mark.toNat)
    let s := g.foldl (fun s u => abandonJobs (restoreUnit (revokeSends s k u) k u) k u.mark) s
    let s := s.modPart k fun p => { p with units := p.units.filter fun x => !(g.any fun y => y.mark == x.mark) }
    let s := s.count k fun c => { c with unitsFailed := satAdd c.unitsFailed 1 }
    let s := logPart s k (unitRec s k 0x06 u (u.causes ||| 0x20) u.causeAt.toNat m.level.toNat m.level.toNat m.replays.toNat (causeDetail u))
    let s := setNonfinite s k u.causeAt.toNat 0x20
    g.foldl (fun s u => u.qs.foldl (fun s j => haltQueue s k j 0) s) s
  | none, _ => s

/-- Steps 3 to 6 of R310 for a unit whose causes are served now. -/
def replayUnit (s : State) (k : Pt) (mark : W32) : State :=
  let p := s.parts[k]
  match unitOf p mark with
  | none => s
  | some u =>
    let idx := BitVec.ofNat 16 mark.toNat
    let m := markState p idx
    if p.policy.replayLimit.toNat ≤ m.replays.toNat then failUnit s k mark
    else
      let g := rollGroup p mark
      let up := u.causes &&& 0x06 != 0
      let ran := levelFor p (some mark) idx
      let level := if up then ran + 1 else m.level
      let s := g.foldl (fun s x => rewindJobs (restoreUnit (revokeSends s k x) k x) x.mark) s
      let s := s.modPart k fun p => setMark p { m with level := level, held := if up then 0 else m.held, replays := m.replays + 1 }
      let s := s.count k fun c => if up then { c with escalations := satAdd c.escalations 1 } else { c with replays := satAdd c.replays 1 }
      let s := logPart s k (unitRec s k (if up then 0x02 else 0x01) u u.causes u.causeAt.toNat ran.toNat (if up then level else ran).toNat (m.replays.toNat + 1) (causeDetail u))
      let served := fun (conf : Bool) (x : ReplayUnit) =>
        let y := if x.mark = mark then freshRun conf x else rolledBack conf x
        if up then { y with oldLevels := y.oldLevels.filter fun l => l.1 != idx } else y
      s.modPart k fun p => { p with units := p.units.map fun x => if g.any (fun y => y.mark == x.mark) then served p.conf x else x }

/-- The first unit whose roll-back can be carried out: its group has nothing running. -/
def dueReplay (s : State) (k : Pt) : Option ReplayUnit :=
  s.parts[k].units.find? fun u => u.causes != 0 && u.rolling &&
    (rollGroup s.parts[k] u.mark).all fun x => !unitRunning s k x.mark

def replayLoop (k : Pt) : (fuel : Nat) → State → State
  | 0, s => s
  | fuel + 1, s => match dueReplay s k with
    | none => s
    | some u => replayLoop k fuel (replayUnit s k u.mark)

/-- Replays whose running work has completed begin, and the streams go on. -/
def tryReplay (s : State) (k : Pt) : State := pumpAll (replayLoop k (s.parts[k].units.length + 1) s)

/-- A result that stays saturated: counted, with a CEILING record (R312). -/
def noteCeiling (s : State) (k : Pt) (u : ReplayUnit) (cause : Byte) (cluster : Nat) (cHandle : W32) : State :=
  let idx := BitVec.ofNat 16 u.mark.toNat
  let l := (levelFor s.parts[k] (some u.mark) idx).toNat
  let s := s.count k fun c => { c with ceilings := satAdd c.ceilings 1 }
  logPart s k (unitRec s k 0x04 u cause cluster l l (markState s.parts[k] idx).replays.toNat (if bit cause 1 then cHandle.toNat else 0))

/-- A cause raised for a unit before it retires (R309–R312). OVERFLOW and FLUSH at MAX_LEVEL, or with FP32 write-outs only, leave the
result standing with a CEILING record; while every write-out so far was FP32, an OVERFLOW waits for the first one that is not, or for
the unit's completion. -/
def raiseCause (s : State) (k : Pt) (mark : W32) (cause : Byte) (cluster : Nat) (checkMask cHandle : W32) : State :=
  let p := s.parts[k]
  match unitOf p mark, objOf p mark with
  | some u, some o =>
    if cause &&& 0x06 ≠ 0 ∧ (markMax o ≤ (levelFor p (some mark) o.idx).toNat ∨ (u.wideOnly ∧ cause = 0x04)) then
      noteCeiling s k u cause cluster cHandle
    else if u.wideOnly ∧ cause = 0x02 then
      modUnit s k mark fun u => { u with ceilings := u.ceilings ++ [(BitVec.ofNat 8 cluster, cHandle)] }
    else
      let s := modUnit s k mark fun u =>
        { u with causes := u.causes ||| cause, causeAt := if cluster < u.causeAt.toNat then BitVec.ofNat 8 cluster else u.causeAt,
                 checkMask := u.checkMask ||| checkMask, overflowC := if bit cause 1 then cHandle else u.overflowC }
      tryReplay (beginRoll s k mark) k
  | _, _ => s

/-- The OVERFLOW causes of a unit that waited, once a write-out of another format has been made (R312). -/
def raiseWaiting (s : State) (k : Pt) (mark : W32) : State :=
  match unitOf s.parts[k] mark with
  | some u =>
    if u.wideOnly then s
    else u.ceilings.foldl (fun s x => raiseCause s k mark 0x02 x.1.toNat 0 x.2) (modUnit s k mark fun u => { u with ceilings := [] })
  | none => s

/-- The unit of a write takes its flush counts and whether its format is FP32 (R140, R312). -/
def noteWriteOut (s : State) (k : Pt) (unit : Option W32) (wide : Bool) (flushed nonzero : Nat) : State :=
  match unit with
  | some m => raiseWaiting (modUnit s k m fun u =>
      { u with wideOnly := u.wideOnly && wide, flushed := u.flushed + flushed, nonzero := u.nonzero + nonzero }) k m
  | none => s

/-- The work item of a command has ended on a cluster: with the last one, and nothing left to dispatch, the cluster has
ended the SQ_RUN. Roll-backs that waited for it are carried out. -/
def itemEnded (s : State) (c : Tc) (id : Nat) : State :=
  match s.clusters[c].jobs.find? fun b => b.id == id && b.kind == .run with
  | none => match s.clusters[c].part with | some k => tryReplay s k | none => s
  | some b => tryReplay (pump (endRun (modJob s c id fun b => { b with running := b.running - 1 }) c id) c) b.part

/-- A work item ends with an error status: the command ends with it, on every cluster (R53, R66, R167, R274). -/
def itemFailed (s : State) (c : Tc) (id st : Nat) : State :=
  match s.clusters[c].jobs.find? fun b => b.id == id && b.kind == .run with
  | none => s
  | some b =>
    let s := { s with clusters := vmap s.clusters fun t =>
      { t with jobs := t.jobs.map fun x => if x.id = id ∧ x.kind = .run then { x with left := 0, waits := false, ended := true } else x } }
    let s := match findPending s b.part id with
      | some p => endPending s p st 0 0 0
      | none => s
    tryReplay (pumpAll s) b.part

/-! ## Fences (R717–R719) -/

/-- The data commands that name a cluster (R719). -/
def namesCluster (s : State) (p : Pending) (c : Tc) : Bool :=
  match p.wait with
  | .stream m => bit m c.1
  | .move => s.clusters[c].jobs.any fun b => b.id == p.id && b.kind == .move
  | _ => false

/-- A fence on a cluster takes effect at once (R719). -/
def fenceCluster (s : State) (c : Tc) (cause : Nat) : State :=
  if s.clusters[c].fenced then s
  else
    let s := s.modCluster c fun t => { t with fenced := true, fenceCause := BitVec.ofNat 8 cause }
    match s.clusters[c].part with
    | none => noteFence s 0 c.1 cause true []
    | some k =>
      let s := noteFence s 0 c.1 cause true [k]
      let units := s.parts[k].units.filter fun u => bit (unitClusters s.parts[k] u) c.1
      let s := s.modCluster c fun t => { t with meQueue := [], latches := [], heldWork := [], verdicts := [],
                                                ve := { t.ve with run := none, queue := [], loadWait := none } }
      let s := units.foldl (fun s u => failUnit (beginRoll s k u.mark) k u.mark) s
      let s := { s with waiters := s.waiters.filter fun w => w.src != some c }
      let cmds := s.parts[k].inflight.filter fun p => namesCluster s p c
      let s := { s with clusters := vmap s.clusters fun t => { t with jobs := t.jobs.filter fun b => !(cmds.any fun p => p.id == b.id) } }
      let s := cmds.foldl (fun s p => endPending s p 0x0D 0 0 0) s
      let s := notePart s k 0x31 c.1 0xFFFF 3
      pumpAll s

/-- The fence of a cluster is cleared by the operator (R96, R718). -/
def unfenceCluster (s : State) (c : Tc) : State :=
  if !s.clusters[c].fenced then s
  else
    let s := s.modCluster c fun t => { t with fenced := false, fenceCause := 0 }
    noteFence s 0 c.1 0 false (s.clusters[c].part.toList)

/-- Do the uncorrectable errors of a scratchpad of the last 1,024 ticks reach SPAD_UE_FENCE (R717)? -/
def spadFull (s : State) (c : Tc) : Bool :=
  s.test.spadUe != 0 && !s.clusters[c].fenced && decide (s.test.spadUe.toNat ≤ (recentTicks s.meridian.tick s.clusters[c].ueTicks).length)

/-- Has a command that took s to t found an uncorrectable error in the scratchpad of a cluster, and does the threshold count it? -/
def spadTrips (s t : State) (c : Tc) : Bool := spadFull t c && t.clusters[c].ueTicks != s.clusters[c].ueTicks

/-- The device fences a cluster whose scratchpad errors reach the threshold with one that has just been found. -/
def spadFences (s t : State) : State :=
  if allTcs.any (spadTrips s t) then allTcs.foldl (fun u c => if spadTrips s t c then fenceCluster u c 2 else u) t else t

/-! ## After every command -/

/-- Waiters are served and streams go on, until nothing more follows: a served WAIT may let a program go on, and a command that
ends may signal. -/
def settleRounds : (fuel : Nat) → State → State
  | 0, s => s
  | fuel + 1, s =>
    let t := pumpAll (serveWaiters s)
    if (nextServed t [] t.waiters).isNone then t else settleRounds fuel t

/-- Does the command say that its clock goes on (R79)? -/
def clockGoesOn (s : State) : Bool := s.waiters.any fun w => w.open_

/-- The sync-object file and the streams after a command; while the clock goes on, nothing is served yet. -/
def settle (s : State) : State :=
  if clockGoesOn s then pumpAll { s with waiters := s.waiters.map fun (w : Waiter) => { w with open_ := false } }
  else settleRounds (s.waiters.length + 1) s

/-- The same after a command that took s to t, with the fences that its scratchpad reads set. -/
def settleFrom (s t : State) : State := settle (spadFences s t)

/-- The waiters served and the fixed sources raised after a command that took s to t. -/
def settled (s t : State) : State := raiseChanges s (settleFrom s t)

/-! ## Taking a command -/

/-- A queue takes the command at its head. Where the queue cannot take one, or the entry spells another command, the
event does not occur (notes/assumptions/2.md); a malformed entry ends with the bad-command status (R676). -/
def takeCmd (s : State) (q : QRef) (e : Entry) (op : Nat) (u : Used)
    (body : State → Pending → State) : State :=
  if !canTake s q then s
  else if fld e.w0 63 56 ≠ op ∧ accepts q (fld e.w0 63 56) then s
  else
    let p : Pending := { id := s.nextId, q := q, e := e, items := [], wait := .head }
    let s := { fetchEntry s q with nextId := s.nextId + 1 }
    if accepts q op && entryOk e op u then settle (body s p) else settle (endCmd s p 0x01 0 0 0)

end Sys2Proof.Machine
end

