-- ==== Sys2Proof/Machine/Operands.lean ====
section
/-! DEFINITION. The operand forms of the matrix engine: tile descriptors, the layouts of their arrays in a scratchpad,
row and column scale vectors, and the reading of elements with their block scales
(spec/04_tensor_cluster.md R152–R164, spec/03_number_formats.md R107–R122). -/

namespace Sys2Proof.Machine

open Sys2Proof

/-! ## Tile descriptors (R163, R164) -/

/-- The fields of a tile descriptor. -/
structure TileDesc where
  fmt         : Fmt
  bsz         : Nat
  sfmt        : Option SFmt
  rowMajor    : Bool
  outerBlocks : Bool
  transposed  : Bool
  estimated   : Bool
  estH        : Nat
  estId       : Nat
  elemBase    : Nat
  outerTiles  : Nat
  redTiles    : Nat
  scaleBase   : Nat
  stride      : Nat
  rowScale    : Option Fmt
  colScale    : Option Fmt
  rowBase     : Nat
  estInit     : W32
  colBase     : Nat
deriving DecidableEq, Repr

/-- RSFMT and CSFMT (R116): none for a reserved code. -/
def vecFmt (c : Nat) : Option (Option Fmt) :=
  match c with
  | 0 => some none
  | 1 => some (some .fp32)
  | 2 => some (some .bf16)
  | _ => none

/-- Word i of a setup object's bytes. -/
def objWord (bs : Bytes) (i : Nat) : W64 := BitVec.ofNat 64 (numAt bs (8 * i) 8)

/-- The SFMT of a format: a wide or plain integer format has none, a narrow one has E8M0 or UE6M2 (R112, R164). -/
def scaleOf (f : Fmt) (c : Nat) : Option (Option SFmt) :=
  if f.narrow then (SFmt.ofCode (BitVec.ofNat 2 c)).map some else if c = 0 then some none else none

/-- A descriptor read from its bytes; none for a reserved code or a nonzero reserved bit (R164). -/
def TileDesc.ofBytes (bs : Bytes) : Option TileDesc :=
  let w0 := objWord bs 0
  let w1 := objWord bs 1
  let w2 := objWord bs 2
  let w3 := objWord bs 3
  let reserved := fld w0 39 25 != 0 || fld w1 31 25 != 0 || fld w2 35 25 != 0 || fld w3 31 25 != 0 || !allZero (bs.drop 32)
  if reserved || decide (2 ≤ fld w0 55 54) || decide (2 ≤ fld w0 51 50) then none
  else
    match Fmt.ofCode (BitVec.ofNat 4 (fld w0 63 60)) with
    | none => none
    | some f =>
      match scaleOf f (fld w0 57 56), vecFmt (fld w2 39 38), vecFmt (fld w2 37 36) with
      | some g, some r, some c =>
        some { fmt := f, bsz := 16 * 2 ^ fld w0 59 58, sfmt := g, rowMajor := fld w0 55 54 == 1,
               outerBlocks := bit w0 53, transposed := bit w0 52, estimated := fld w0 51 50 == 1, estH := fld w0 49 48,
               estId := fld w0 47 40, elemBase := fld w0 24 0, outerTiles := fld w1 63 48, redTiles := fld w1 47 32,
               scaleBase := fld w1 24 0, stride := fld w2 63 40, rowScale := r, colScale := c, rowBase := fld w2 24 0,
               estInit := BitVec.ofNat 32 (fld w3 63 32), colBase := fld w3 24 0 }
      | _, _, _ => none

/-- One past the last byte of the operand space and of the accumulator region (R152). -/
def spadEnd : Nat := 0x1800000

/-- Bytes from ELEM_BASE to the end of the element array (R164). -/
def TileDesc.elemBytes (d : TileDesc) : Nat :=
  if d.rowMajor then (d.outerTiles * 32 - 1) * d.stride + d.redTiles * 4 * d.fmt.width
  else d.outerTiles * d.redTiles * 128 * d.fmt.width

/-- Rows and columns of the descriptor as an output (ORIENT of R163). -/
def TileDesc.rows (d : TileDesc) : Nat := if d.transposed then d.redTiles else d.outerTiles
def TileDesc.cols (d : TileDesc) : Nat := if d.transposed then d.outerTiles else d.redTiles

/-- Does an array of n bytes end within the scratchpad? -/
def arrayFits (base n : Nat) : Bool := decide (base + n ≤ spadEnd)

/-- The checks of R164 on extents, alignment and the arrays in use. -/
def TileDesc.ok (d : TileDesc) : Bool :=
  d.outerTiles != 0 && d.redTiles != 0 && d.elemBase % 128 == 0 && (!d.rowMajor || d.stride % 128 == 0) &&
  ((32 * if d.outerBlocks then d.outerTiles else d.redTiles) % d.bsz == 0) &&
  arrayFits d.elemBase d.elemBytes &&
  (d.sfmt.isNone || arrayFits d.scaleBase (d.outerTiles * d.redTiles * 1024 / d.bsz)) &&
  (match d.rowScale with | some f => arrayFits d.rowBase (32 * d.rows * f.width / 8) | none => true) &&
  (match d.colScale with | some f => arrayFits d.colBase (32 * d.cols * f.width / 8) | none => true)

/-- Is a tile descriptor well formed (R164)? -/
def tileDescOk (bs : Bytes) : Bool :=
  match TileDesc.ofBytes bs with
  | some d => d.ok
  | none => false

/-! ## Addresses (R157–R159) -/

/-- The bit at which element (o, k) begins, counted from bit 0 of ELEM_BASE; R108 packs elements at their bit offsets. -/
def TileDesc.elemBit (d : TileDesc) (o k : Nat) : Nat :=
  let w := d.fmt.width
  if d.rowMajor then o * d.stride * 8 + k * w
  else ((o / 32) * d.redTiles + k / 32) * 1024 * w + (o % 32) * 32 * w + (k % 32) * w

/-- Byte offset of the scale of the block that holds element (o, k) (R159). -/
def TileDesc.scaleOff (d : TileDesc) (o k : Nat) : Nat :=
  if d.outerBlocks then (k / 32) * 32 * (d.outerTiles * 32 / d.bsz) + (o / d.bsz) * 32 + k % 32
  else (o / 32) * 32 * (d.redTiles * 32 / d.bsz) + (k / d.bsz) * 32 + o % 32

/-! ## Reading a scratchpad -/

/-- Is byte a one whose value the spec does not give to a reader: in a poisoned word, or past the scratchpad's end? -/
def spadOpen (c : Cluster) (a : Nat) : Bool := decide (spadEnd ≤ a) || Sparse.get false c.poison (a / 8)

/-- Byte a of a scratchpad as a reader takes it: where the spec gives no value, a free value
(notes/assumptions/14.md). -/
def spadByte (c : Cluster) (fresh a : Nat) : Byte :=
  if spadOpen c a then Config.freeByte (fresh + a) else c.spad.read a

/-- A number of k bytes. -/
def spadNum (c : Cluster) (fresh a k : Nat) : Nat := leNat ((List.range k).map fun i => spadByte c fresh (a + i))

/-- The w bits from bit b on of the array at a. -/
def spadBits (c : Cluster) (fresh a b w : Nat) : Nat :=
  spadNum c fresh (a + b / 8) ((b % 8 + w + 7) / 8) / 2 ^ (b % 8) % 2 ^ w

/-- The free bytes that one read of a scratchpad may draw. -/
def spadSpan : Nat := 2 ^ 25

/-- The reader has read the ranges: errors of their words are found (R713), and where a free value was drawn the counter of free values moves on. -/
def spadTouched (s : State) (c : Tc) (ranges : List (Nat × Nat)) : State :=
  let dirty := ranges.any fun (a, n) => (wordsOf a n).any fun w => spadOpen s.clusters[c] (8 * w)
  if dirty then
    let s := ranges.foldl (fun s (a, n) => notePoisonReads s c a n) s
    { s with fresh := s.fresh + spadSpan }
  else noteCleanReads s c ranges

/-- A scale code's value: none is NaN. A descriptor without block scale has scale 1. -/
def TileDesc.scaleAt (d : TileDesc) (c : Cluster) (fresh o k : Nat) : Option Rat :=
  match d.sfmt with
  | none => some 1
  | some g => g.value (spadByte c fresh (d.scaleBase + d.scaleOff o k)).toNat

/-- Element (o, k) as the array receives it: decoded under its block scale (R115, R120). -/
def TileDesc.elemAt (d : TileDesc) (c : Cluster) (fresh o k : Nat) : Val :=
  decodeScaled d.fmt (spadBits c fresh d.elemBase (d.elemBit o k) d.fmt.width) (d.scaleAt c fresh o k)

/-- Row o of the reduction tile kt. -/
def TileDesc.row (d : TileDesc) (c : Cluster) (fresh o kt : Nat) : List Val :=
  (List.range 32).map fun i => d.elemAt c fresh o (32 * kt + i)

/-- A tile of 32 rows from row tile ot at reduction tile kt. -/
def TileDesc.tile (d : TileDesc) (c : Cluster) (fresh ot kt : Nat) : List (List Val) :=
  (List.range 32).map fun i => d.row c fresh (32 * ot + i) kt

/-- Scale bytes that a tile of elements reads. -/
def TileDesc.scaleRanges (d : TileDesc) (ot kt : Nat) : List (Nat × Nat) :=
  match d.sfmt with
  | none => []
  | some _ =>
    let n := (32 + d.bsz - 1) / d.bsz
    (List.range n).map fun i =>
      if d.outerBlocks then (d.scaleBase + d.scaleOff (32 * ot + i * d.bsz) (32 * kt), 32)
      else (d.scaleBase + d.scaleOff (32 * ot) (32 * kt + i * d.bsz), 32)

/-- The byte ranges that a tile of elements and its scales occupy. -/
def TileDesc.tileRanges (d : TileDesc) (ot kt : Nat) : List (Nat × Nat) :=
  ((List.range 32).map fun i => (d.elemBase + d.elemBit (32 * ot + i) (32 * kt) / 8, 4 * d.fmt.width)) ++ d.scaleRanges ot kt

/-- Is a block scale of the tile NaN (R182)? -/
def TileDesc.nanScale (d : TileDesc) (c : Cluster) (fresh ot kt : Nat) : Bool :=
  d.sfmt.isSome && (d.scaleRanges ot kt).any fun (a, n) => (List.range n).any fun i => spadByte c fresh (a + i) == 0xFF

/-- Exponent of a scale code (R227): E − 127 for E8M0, E − 48 for UE6M2. -/
def SFmt.exponent (g : SFmt) (code : Nat) : Int :=
  match g with
  | .e8m0 => (code % 256 : Nat) - 127
  | .ue6m2 => (code % 256 / 4 : Nat) - 48

/-- Entry i of a row- or column-scale vector (R116). -/
def vecAt (f : Fmt) (c : Cluster) (fresh base i : Nat) : Val :=
  f.decode (spadNum c fresh (base + i * (f.width / 8)) (f.width / 8))

/-! ## The two parts of an FP32 operand (R121) -/

/-- HI and LO of a finite value held in FP32: the upper 12 bits of its 24-bit significand, and the rest. -/
def split32 (v : Val) : List Val :=
  match v with
  | .fin s q =>
    if q = 0 then [.fin s 0, .fin s 0]
    else
      let ulp := pow2 (max (ilog2 q) (-126) - 23)
      let n := (q / ulp).floor.toNat
      let lead := Nat.log2 n
      let unit := if 11 ≤ lead then 2 ^ (lead - 11) else 1
      let hi := n / unit * unit
      [.fin s ((hi : Rat) * ulp), .fin s (((n - hi : Nat) : Rat) * ulp)]
  | w => [w]

/-- An operand as the multipliers take it. -/
def parts (f : Fmt) (v : Val) : List Val := if f = .fp32 then split32 v else [v]

/-! ## Tiles of the accumulator region (R195–R198) -/

/-- Address of FP32 tile t of partition p. -/
def accAddr (p : Partition) (t : Nat) : Nat := p.accBase.toNat + t * 4096

/-- Tiles that the region holds in a mode (R196). -/
def accTiles (p : Partition) (long : Bool) : Nat := p.accSize.toNat / (if long then 20480 else 4096)

/-- First FP32 index of a tile of a mode. -/
def headOf (long : Bool) (t : Nat) : Nat := if long then 5 * t else t

/-- FP32 indices that a tile occupies. -/
def tileSpan (long : Bool) (t : Nat) : List Nat := if long then (List.range 5).map (5 * t + ·) else [t]

/-- Elements of a tile, row by row (R197, R198). -/
def readTile (c : Cluster) (fresh : Nat) (p : Partition) (long : Bool) (t : Nat) : List LongElem :=
  let a := accAddr p (headOf long t)
  (List.range 1024).map fun e =>
    if long then BitVec.ofNat 160 ((List.range 5).foldl (fun n q => n + spadNum c fresh (a + 4096 * q + 4 * e) 4 * 2 ^ (32 * q)) 0)
    else BitVec.ofNat 160 (spadNum c fresh (a + 4 * e) 4)

/-- The bytes of a tile, plane by plane (R197, R198). -/
def tileBytes (long : Bool) (es : List LongElem) : Bytes :=
  (List.range (if long then 5 else 1)).flatMap fun q => es.flatMap fun e => leBytes 4 (e.toNat / 2 ^ (32 * q))

/-- A tile written to the scratchpad. -/
def writeTile (c : Cluster) (p : Partition) (long : Bool) (t : Nat) (es : List LongElem) : Cluster :=
  spadWrite c (accAddr p (headOf long t)) (clean (tileBytes long es)) false

/-- A tile written by the drain, which keeps a copy in the drain buffer (R210). -/
def drainTile (c : Cluster) (p : Partition) (long : Bool) (t : Nat) (es : List LongElem) : Cluster :=
  { writeTile c p long t es with drainBuf := some { long := long, tile := t, addr := accAddr p (headOf long t), es := es } }

/-- The copy of a tile in the drain buffer, where the tile and the mode are those of the last drain or merge and nothing else has
written a line of the tile since (R210). -/
def bufferedTile (c : Cluster) (long : Bool) (t : Nat) : Option (List LongElem) :=
  match c.drainBuf with
  | some b => if b.long = long ∧ b.tile = t then some b.es else none
  | none => none

/-- The old tile as the drain takes it: from the buffer, or from the scratchpad (R210). -/
def oldTile (c : Cluster) (fresh : Nat) (p : Partition) (long : Bool) (t : Nat) : List LongElem :=
  (bufferedTile c long t).getD (readTile c fresh p long t)

/-- The scratchpad ranges that the drain reads for the old tile. -/
def oldRanges (c : Cluster) (p : Partition) (long : Bool) (t : Nat) : List (Nat × Nat) :=
  if (bufferedTile c long t).isSome then [] else [(accAddr p (headOf long t), if long then 20480 else 4096)]

end Sys2Proof.Machine
end

