-- ==== Sys2Proof/Machine/Flags.lean ====
section
/-! DEFINITION. Encoding a write: block scales, element codes, and everything that a write counts or raises
(spec/03_number_formats.md R123–R140, spec/04_tensor_cluster.md R170–R175). -/

namespace Sys2Proof.Machine

open Sys2Proof

/-! ## Tallies -/

/-- What a write counts (R142) and raises (R131, R136, R138): saturated elements, underflow, flushed, zero blocks,
non-finite sources, NaNs to integers, nonzero finite values of block-scaled writes (R140), and the OVERFLOW event. -/
structure Tally where
  sat      : Nat
  under    : Nat
  flushed  : Nat
  zeroBlk  : Nat
  nonfin   : Nat
  invalid  : Nat
  nonzero  : Nat
  overflow : Bool
deriving DecidableEq, Repr

def Tally.zero : Tally := ⟨0, 0, 0, 0, 0, 0, 0, false⟩

def Tally.add (a b : Tally) : Tally :=
  ⟨a.sat + b.sat, a.under + b.under, a.flushed + b.flushed, a.zeroBlk + b.zeroBlk, a.nonfin + b.nonfin,
   a.invalid + b.invalid, a.nonzero + b.nonzero, a.overflow || b.overflow⟩

def Tally.sum (ts : List Tally) : Tally := ts.foldl Tally.add Tally.zero

/-- The tally in the counters of a partition (R142). -/
def countTally (s : State) (k : Pt) (t : Tally) : State :=
  s.count k fun c =>
    { c with saturate := satAdd c.saturate t.sat, underflow := satAdd c.underflow t.under,
             flushed := satAdd c.flushed t.flushed, zeroBlock := satAdd c.zeroBlock t.zeroBlk,
             nonfinite := satAdd c.nonfinite t.nonfin, invalidConv := satAdd c.invalidConv t.invalid,
             overflows := satAdd c.overflows t.overflow.toNat }

/-! ## Elements and blocks -/

/-- What one conversion adds to a tally; `blocked` where a flush counts (R139), `low` where it counts as underflow. -/
def convTally (c : Conv) (v : Val) (blocked low : Bool) : Tally :=
  { sat := c.sat.toNat, under := (blocked && low && c.zeroed).toNat, flushed := (blocked && !low && c.zeroed).toNat,
    zeroBlk := 0, nonfin := c.nonfin.toNat, invalid := c.invalid.toNat,
    nonzero := (blocked && v.isFinite && !v.isZero).toNat, overflow := c.finSat }

/-- The codes of a block with its scale code and what it counts. -/
structure BlockOut where
  codes : List Nat
  scale : Nat
  tally : Tally
deriving DecidableEq, Repr

/-- What the other parts of an estimated block of 64 or 128 elements hold, of which the ME writes a part at a time: a NaN, a value that is
not zero, an element that is not masked; and whether every one of them has been written (notes/assumptions/53.md). -/
structure BlockRest where
  nan     : Bool
  nonzero : Bool
  live    : Bool
  done    : Bool
deriving DecidableEq, Repr

/-- The rest of a block that is written whole. -/
def BlockRest.whole : BlockRest := ⟨false, false, false, true⟩

/-- How the scale of a block is chosen: from its values (R133), from an estimate (R174), or given by the store (R267). -/
inductive ScaleMode where
  | onWrite
  | estimate (est : W32) (rest : BlockRest)
  | given (code : Nat)
deriving DecidableEq, Repr

/-- Elements encoded under a scale; a masked element, which is none, gets the mask code and counts nothing (R172). -/
def encodeElems (f : Fmt) (ieee : Bool) (scale : Rat) (blocked low : Bool) : List (Option Val) → List Nat × Tally
  | [] => ([], Tally.zero)
  | none :: vs =>
    let (cs, t) := encodeElems f ieee scale blocked low vs
    (f.maskCode :: cs, t)
  | some v :: vs =>
    let c := encodeScaled f ieee scale v
    let (cs, t) := encodeElems f ieee scale blocked low vs
    (c.code :: cs, (convTally c v blocked low).add t)

/-- A write of a format without block scale. -/
def encodeWide (f : Fmt) (ieee : Bool) (vs : List (Option Val)) : List Nat × Tally := encodeElems f ieee 1 false false vs

/-- The largest finite magnitude among values. -/
def amaxOf (vs : List (Option Val)) : Rat :=
  vs.foldl (fun a v => match v with | some (.fin _ q) => if a < q then q else a | _ => a) 0

/-- The scale that the device chooses (R133–R137): code, whether the scale needed is above the greatest, and whether
it is below the least. A NaN estimate is at least no scale, as every comparison with it is false (R141). -/
def chooseScale (f : Fmt) (g : SFmt) (m : ScaleMode) (vs : List (Option Val)) : Nat × Bool × Bool :=
  let allZ := vs.all fun v => match v with | some x => x.isZero | none => true
  match m with
  | .given c => (c, false, false)
  | .onWrite =>
    let a := amaxOf vs
    if a = 0 then (0, false, false)
    else
      let ideal := a / f.maxFinite
      let (c, big) := g.pick ideal
      (c, big, decide (ideal < g.minValue))
  | .estimate est rest =>
    if allZ && rest.done && !rest.nonzero then (0, false, true)
    else
      match f32 (toF32 ((f32 est).div (.fin false f.maxFinite))) with
      | .fin sg q =>
        let ideal := if sg then -q else q
        let (c, big) := g.pick ideal
        (c, big, decide (ideal < g.minValue))
      | .inf true => (0, false, true)
      | .inf false => (0xFE, true, false)
      | .nan => (0xFE, false, false)

/-- An element of a block whose scale is NaN: its code is 0 (R128), a non-finite source counts (R131), and under a scale that the
store gave a nonzero finite value counts as flushed (R139). -/
def nanScaled (chosen : Bool) (v : Option Val) : Tally :=
  match v with
  | some x =>
    let nz := (x.isFinite && !x.isZero).toNat
    { Tally.zero with nonfin := (!x.isFinite).toNat, nonzero := nz, flushed := if chosen then 0 else nz }
  | none => Tally.zero

/-- A block encoded (R128, R133–R139): a NaN makes the scale NaN and every unmasked code 0. -/
def encodeBlock (f : Fmt) (g : SFmt) (m : ScaleMode) (ieee : Bool) (vs : List (Option Val)) : BlockOut :=
  let isNan := fun (v : Option Val) => match v with | some .nan => true | _ => false
  let chosen := match m with | .given _ => false | _ => true
  let nanOut := fun (code : Nat) =>
    (⟨vs.map fun v => if v.isNone then f.maskCode else 0, code, Tally.sum (vs.map (nanScaled chosen))⟩ : BlockOut)
  let rest := match m with | .estimate _ r => r | _ => BlockRest.whole
  if vs.any isNan || rest.nan then nanOut 0xFF
  else
    let (code, big, low) := chooseScale f g m vs
    match g.value code with
    | none => nanOut code
    | some sc =>
      let (cs, t) := encodeElems f ieee sc true low vs
      let zero := chosen && (vs.any Option.isSome || rest.live) && rest.done && !rest.nonzero &&
        vs.all fun v => match v with | some x => x.isZero | none => true
      ⟨cs, code, { t with zeroBlk := zero.toNat, overflow := t.overflow || big }⟩

/-! ## Scale estimators (R173–R177) -/

/-- The estimator in its state when the partition is created: no sample, so the estimate is 0
(notes/assumptions/15.md). -/
def Estimator.reset : Estimator := ⟨[], 0, 0⟩

def estGet (c : Cluster) (id : Nat) : Estimator := Sparse.get Estimator.reset c.est id
def estSet (c : Cluster) (id : Nat) (e : Estimator) : Cluster := { c with est := Sparse.set Estimator.reset c.est id e }

/-- max(w) * 2^h * 4^c, in FP32. -/
def Estimator.estimate (e : Estimator) (h : Nat) : W32 :=
  let m := (e.w.map f32).foldl Val.max .nan
  let m := if e.w.isEmpty then 0 else toF32 m
  fmul (fmul m (toF32 (.fin false (pow2 h)))) (toF32 (.fin false (pow2 (2 * e.c.toNat))))

/-- Block values feed the largest magnitude of the step. -/
def Estimator.feed (e : Estimator) (a : Rat) : Estimator := { e with cur := toF32 ((f32 e.cur).max (.fin false a)) }

/-- An OVERFLOW event of a write under the estimator. -/
def Estimator.overflow (e : Estimator) : Estimator := { e with c := if e.c = 15 then 15 else e.c + 1 }

/-- The end of a step that was applied, and of one that was skipped. -/
def Estimator.stepApplied (e : Estimator) : Estimator :=
  { w := (if e.w.length < 16 then e.w else e.w.drop 1) ++ [e.cur], cur := 0, c := 0 }
def Estimator.stepSkipped (e : Estimator) : Estimator := { e.overflow with cur := 0 }

/-- Every estimator of an unfrozen cluster at a step end (R176, R177). One without a sample holds the values of reset
(R174) and is taken as one that the step end changes too. -/
def clusterStepEnd (c : Cluster) (applied : Bool) : Cluster :=
  if c.frozen then c
  else
    (List.range 256).foldl (fun c i =>
      estSet c i (if applied then (estGet c i).stepApplied else (estGet c i).stepSkipped)) c

end Sys2Proof.Machine
end

