-- ==== Sys2Proof/Machine/Matrix.lean ====
section
/-! DEFINITION. The matrix engine: dispatch, passes, latches, the drain and the write-out, CHECK, the estimators'
reset, and the merge window (spec/04_tensor_cluster.md R146–R193, spec/05_accumulation_and_reduction.md R194–R234,
spec/02_meridian_and_scheduling.md R52–R55). -/

namespace Sys2Proof

open Sys2Proof.Machine

/-! ## Fields of a matrix instruction (R165) -/

def MatWords.opcode (w : MatWords) : Nat := fld w.w0 63 56
def MatWords.budget (w : MatWords) : Nat := fld w.w0 55 36
def MatWords.ksteps (w : MatWords) : Nat := fld w.w0 35 32 + 1
def MatWords.accTile (w : MatWords) : Nat := fld w.w0 31 21
def MatWords.seqCtx (w : MatWords) : Nat := fld w.w0 20 15
def MatWords.mask (w : MatWords) : Bool := bit w.w0 14
def MatWords.signal (w : MatWords) : Bool := bit w.w0 13
def MatWords.long (w : MatWords) : Bool := bit w.w0 12
def MatWords.check (w : MatWords) : Bool := bit w.w0 11
def MatWords.last (w : MatWords) : Bool := bit w.w0 10
def MatWords.first (w : MatWords) : Bool := bit w.w0 9
def MatWords.aHandle (w : MatWords) : Nat := fld w.w1 63 32
def MatWords.bHandle (w : MatWords) : Nat := fld w.w1 31 0
def MatWords.cHandle (w : MatWords) : Nat := fld w.w2 63 32
def MatWords.syncObj (w : MatWords) : Nat := fld w.w2 31 18
def MatWords.signalN (w : MatWords) : Nat := fld w.w2 17 2
def MatWords.rowTile (w : MatWords) : Nat := fld w.w3 63 48
def MatWords.colTile (w : MatWords) : Nat := fld w.w3 47 32
def MatWords.kTile (w : MatWords) : Nat := fld w.w3 31 16
def MatWords.wexp (w : MatWords) : Nat := fld w.w3 15 6
def MatWords.reservedOk (w : MatWords) : Bool := fld w.w0 8 0 == 0 && fld w.w2 1 0 == 0 && fld w.w3 5 0 == 0

end Sys2Proof

namespace Sys2Proof.Machine

open Sys2Proof

/-! ## Dispatch by an SQ (R52–R55, R65, R66, R166) -/

/-- The SQ of a cluster can dispatch: the cluster is present, unfenced and owned, a program runs, and no work item is
held before this one. -/
def sqReady (s : State) (c : Tc) : Option (Pt × SqJob) :=
  let t := s.clusters[c]
  if !tcPresent s c.1 || t.fenced then none
  else match t.part, currentRun t with
    | some k, some b => if unitRolls s.parts[k] b.unit then none else some (k, b)
    | _, _ => none

/-- A budget that is rejected at dispatch (R52, R53). -/
def badBudget (s : State) (budget : Nat) : Bool :=
  budget == 0 || decide (s.meridian.periodUs.toNat * 1500 - 512 < budget)

/-- At throttle steps 6 and 7 an SQ dispatches only before the cut-off at 75 % or 50 % of the tick (R697). -/
def beforeCutOff (s : State) (clocksLeft : Nat) : Bool :=
  let total := s.meridian.periodUs.toNat * s.power.mhz.toNat
  let gone := total - clocksLeft
  match s.power.step.toNat with
  | 6 => decide (4 * gone < 3 * total)
  | 7 => decide (2 * gone < total)
  | _ => true

/-- May a work item be dispatched: its budget fits into the clocks left, counted at half while the limiter runs (R54, R55),
before the cut-off of the throttle step? -/
def fitsClocks (s : State) (budget clocksLeft : Nat) : Bool :=
  decide (budget ≤ if s.power.limiter then clocksLeft / 2 else clocksLeft) && beforeCutOff s clocksLeft

/-- What a handle gives a command of partition k: the bytes of an active object, a wait for a pending one (R65), or
the bad-handle error (R66). -/
inductive Found where
  | ok (bytes : Bytes)
  | wait
  | bad
deriving DecidableEq, Repr

def findObj (s : State) (k : Pt) (typ : Nat) (h : W32) : Found :=
  if fld h 31 28 ≠ typ ∨ fld h 27 26 ≠ k.1 then .bad
  else match objOf s.parts[k] h with
    | none => .bad
    | some o =>
      match o.st with
      | .active => .ok o.bytes
      | .pending => .wait
      | _ => .bad

/-- The handle that is executed in place of a matrix instruction's, for a command of the unit (R302). -/
def tileHandle (s : State) (k : Pt) (unit : Option W32) (h : Nat) : W32 := substitute s.parts[k] unit (BitVec.ofNat 32 h)

/-- SIGNAL of a work item on completion (R169, R292). -/
def itemSignal (s : State) (k : Pt) (c : Tc) (on : Bool) (obj n : Nat) : State :=
  if on then signalSync s (some k) c.1 obj n else s

/-! ## Sequence masks (R184–R190) -/

/-- The rule of the context's KIND; `seg` tells whether the segment IDs of two positions are equal. -/
def kindKeeps (ctx : Bytes) (q k : Nat) (seg : Bool) : Bool :=
  let w0 := objWord ctx 0
  let p := fld (objWord ctx 2) 17 0 + 1
  match fld w0 22 20 with
  | 0 => true
  | 1 => decide (k ≤ q)
  | 2 => decide (q < k + p ∧ k ≤ q)
  | 3 => decide (k < p ∨ k ≤ q)
  | 4 => seg && (!bit w0 23 || decide (k ≤ q))
  | 5 => decide ((if q ≤ k then k - q else q - k) < p)
  | _ => false

/-- Query and key position of element (i, j) of an output tile (R186). -/
def queryPos (ctx : Bytes) (rowTile i : Nat) : Nat := fld (objWord ctx 1) 17 0 + rowTile * 32 + i
def keyPos (ctx : Bytes) (colTile j : Nat) : Nat := fld (objWord ctx 1) 49 32 + colTile * 32 + j

/-- Is the element kept (R187)? -/
def kept (ctx : Bytes) (seg : Nat → Nat → Bool) (rowTile colTile i j : Nat) : Bool :=
  let q := queryPos ctx rowTile i
  let k := keyPos ctx colTile j
  let len := fld (objWord ctx 0) 18 0
  decide (q < len ∧ k < len) && kindKeeps ctx q k (seg q k)

/-- An output tile without a kept element, which performs no k-steps (R190); segment IDs are not read for this. -/
def tileMasked (ctx : Bytes) (rowTile colTile : Nat) : Bool :=
  !(List.range 32).any fun i => (List.range 32).any fun j => kept ctx (fun _ _ => true) rowTile colTile i j

/-- Are the segment IDs of two positions equal? -/
def segEq (c : Cluster) (fresh : Nat) (ctx : Bytes) (q k : Nat) : Bool :=
  let b := fld (objWord ctx 3) 24 0
  spadNum c fresh (b + 2 * q) 2 == spadNum c fresh (b + 2 * k) 2

/-! ## Tile state (R201–R205) -/

def tileEntry (c : Cluster) (i : Nat) : W32 := Sparse.get (0 : W32) c.tiles i
def setEntry (c : Cluster) (i : Nat) (w : W32) : Cluster := { c with tiles := Sparse.set (0 : W32) c.tiles i w }

/-- The entries of the tile that an entry belongs to. -/
def entrySpan (w : W32) : List Nat :=
  let h := fld w 10 0
  if bit w 30 then (List.range 5).map (h + ·) else [h]

/-- The open tile that holds entry i closes (R202, R204). -/
def closeAt (c : Cluster) (i : Nat) : Cluster :=
  let w := tileEntry c i
  if bit w 31 then (entrySpan w).foldl (fun c j => setEntry c j (setBit (tileEntry c j) 31 false)) c else c

/-- FIRST opens its tile and closes every open tile whose bytes it overlaps; the flags stay until the ME begins the
pass (R202). -/
def openTile (c : Cluster) (long : Bool) (t wexp : Nat) : Cluster :=
  let span := tileSpan long t
  let c := span.foldl closeAt c
  let h := headOf long t
  span.foldl (fun c j =>
    let w := setBit (setBit (setBit (tileEntry c j) 31 true) 30 long) 29 (long && j != h)
    let w := setFld w 10 0 h
    setEntry c j (if long then setFld w 25 16 wexp else w)) c

/-- LOW and RANGE of the tile become those given or what they were; the entries that mirror the head follow. -/
def flagTile (c : Cluster) (long : Bool) (t : Nat) (f : W32 → W32) : Cluster :=
  let h := headOf long t
  (tileSpan long t).foldl (fun c j =>
    let w := tileEntry c j
    if j = h ∨ fld w 10 0 = h then setEntry c j (f w) else c) c

def clearFlags (w : W32) : W32 := setFld w 28 26 0
def orFlags (low range : Bool) (w : W32) : W32 :=
  let l := bit w 27 || low
  let r := bit w 26 || range
  setBit (setBit (setBit w 27 l) 26 r) 28 (l || r)

/-! ## FP32 accumulation (R214–R216) -/

/-- The products of one pair of elements: of their parts where an operand is FP32 (R121, R214). -/
def products (fa fb : Fmt) (a b : Val) : List Val :=
  if a.isFinite && b.isFinite then (parts fa a).flatMap fun x => (parts fb b).map fun y => x.mul y else [a.mul b]

/-- Special values of a sum by IEEE 754: none where every term is finite (R215). -/
def specialOf (ps : List Val) : Option Val :=
  let pos := ps.any fun v => match v with | .inf false => true | _ => false
  let neg := ps.any fun v => match v with | .inf true => true | _ => false
  if ps.any Val.isNan || (pos && neg) then some .nan
  else if pos then some (.inf false)
  else if neg then some (.inf true)
  else none

/-- Magnitude of a finite value. -/
def Val.mag : Val → Rat
  | .fin _ q => q
  | _ => 0

/-- The sum of one k-step in the dot-product window, rounded once to FP32 (R214, R215). -/
def kstepSum (ps : List Val) : W32 :=
  match specialOf ps with
  | some v => toF32 v
  | none =>
    let top := ps.foldl (fun a v => if a < v.mag then v.mag else a) 0
    if top = 0 then (if ps.all Val.sign then 0x80000000 else 0)
    else
      let u := pow2 (ilog2 top - 42)
      let n := ps.foldl (fun (n : Int) v => n + trunc (v.toRat / u)) 0
      if n = 0 then 0 else toF32 (Val.ofRat false ((n : Rat) * u))

/-- The products of row `as` of A with column `bs` of B. -/
def rowProducts (fa fb : Fmt) (as bs : List Val) : List Val :=
  (as.zip bs).flatMap fun (a, b) => products fa fb a b

/-! ## The long accumulator (R219–R223) -/

def longNan : LongElem := BitVec.ofNat 160 (2 ^ 159)
def longNegInf : LongElem := BitVec.ofNat 160 (2 ^ 159 + 1)
def longPosInf : LongElem := BitVec.ofNat 160 (2 ^ 159 - 1)

/-- The greatest finite magnitude in steps of the least bit (R199). -/
def longMax : Int := 2 ^ 159 - 2

def longSpecial (x : LongElem) : Option Val :=
  if x = longNan then some .nan else if x = longNegInf then some (.inf true)
  else if x = longPosInf then some (.inf false) else none

def longOfSpecial : Val → LongElem
  | .inf true => longNegInf
  | .inf false => longPosInf
  | _ => longNan

/-- A finite result held within ±M, and whether RANGE is set (R221). -/
def longClamp (i : Int) : LongElem × Bool :=
  if longMax < i then (BitVec.ofInt 160 longMax, true)
  else if i < -longMax then (BitVec.ofInt 160 (-longMax), true)
  else (BitVec.ofInt 160 i, false)

/-- A sum of two elements (R221, R223). -/
def longAdd (a b : LongElem) : LongElem × Bool :=
  match specialOf ((longSpecial a).toList ++ (longSpecial b).toList) with
  | some v => (longOfSpecial v, false)
  | none => longClamp (a.toInt + b.toInt)

/-- A finite product placed in the window: its steps, LOW and RANGE (R220). -/
def placeLong (w : Int) (v : Val) : Int × Bool × Bool :=
  let q := v.toRat / pow2 (w - 128)
  let i := trunc q
  let low := (i : Rat) != q
  if longMax < i then (longMax, low, true) else if i < -longMax then (-longMax, low, true) else (i, low, false)

/-- The sum of one k-step in long mode with its flags. Flags of the finite products stand where the element turns
special (notes/assumptions/16.md, DEDUCED). -/
def kstepLong (w : Int) (ps : List Val) : LongElem × Bool × Bool :=
  let placed := (ps.filter Val.isFinite).map (placeLong w)
  let low := placed.any fun x => x.2.1
  let range := placed.any fun x => x.2.2
  match specialOf ps with
  | some v => (longOfSpecial v, low, range)
  | none =>
    let (x, r) := longClamp (placed.foldl (fun (n : Int) y => n + y.1) 0)
    (x, low, range || r)

/-- A long element rounded once to FP32, saturating (R224). -/
def longToF32 (w : Int) (x : LongElem) : Conv :=
  match longSpecial x with
  | some v => encode .fp32 false v
  | none => encode .fp32 false (Val.ofRat false ((x.toInt : Rat) * pow2 (w - 128)))

/-! ## A pass (R147, R206, R214–R223) -/

/-- The window exponent of an item as an integer. -/
def wexpInt (w : BitVec 10) : Int := w.toInt

/-- A running element: its sum with LOW and RANGE. -/
abbrev Run3 := LongElem × Bool × Bool

/-- One element of the latch after one more k-step. -/
def latchStep (long : Bool) (w : Int) (acc : Option Run3) (ps : List Val) : Run3 :=
  let (x, l, r) := if long then kstepLong w ps else ((kstepSum ps).setWidth 160, false, false)
  match acc with
  | none => (x, l, r)
  | some (y, l', r') =>
    if long then
      let (z, r'') := longAdd y x
      (z, l || l', r || r' || r'')
    else ((fadd (y.setWidth 32) (x.setWidth 32)).setWidth 160, false, false)

/-- The sums of a pass in its latch, row by row; `as` and `bs` hold, per k-step, the 32 rows of A and of B. -/
def passSums (fa fb : Fmt) (long : Bool) (w : Int) (as bs : List (List (List Val))) : List Run3 :=
  (List.range 1024).map fun e =>
    ((as.zip bs).foldl (fun acc (a, b) =>
      some (latchStep long w acc (rowProducts fa fb (a.getD (e / 32) []) (b.getD (e % 32) [])))) none).getD (0, false, false)

/-! ## CHECK (R178–R180) -/

/-- The consecutive scale exponents over which a k-step of two narrow operands is exact (R179, R228). A pair with one E8M0 and one UE6M2
scale takes d and h of R227 for each of its operands (notes/assumptions/169.md, DEDUCED). -/
def exactSpan (a b : TileDesc) : Int :=
  let wide : Int := match (decide (a.fmt = .e5m2)).toNat + (decide (b.fmt = .e5m2)).toNat with | 0 => 102 | 1 => 88 | _ => 74
  let scale := fun (d : TileDesc) => if d.sfmt = some .ue6m2 then (3 : Int) else 0
  wide - scale a - scale b

/-- d of R227, and q, the exponent of the smallest step of a narrow format. -/
def scaleLow (d : TileDesc) : Int := if d.sfmt = some .ue6m2 then 2 else 0
def fmtLow : Fmt → Int
  | .e4m3 => -9 | .e5m2 => -16 | .e3m2 => -4 | .e2m3 => -3 | .e2m1 => -1 | _ => 0

/-- The scale exponent of an element, 0 where the operand has no block scale. -/
def TileDesc.scaleExp (d : TileDesc) (c : Cluster) (fresh o k : Nat) : Int :=
  match d.sfmt with | some g => g.exponent (spadByte c fresh (d.scaleBase + d.scaleOff o k)).toNat | none => 0

/-- The least and the greatest scale exponent among the elements of tile `ot` at reduction index k: one element for each block. -/
def TileDesc.expsAt (d : TileDesc) (c : Cluster) (fresh ot k : Nat) : Int × Int :=
  let n := if d.outerBlocks then min 32 d.bsz else 1
  let es := (List.range (32 / n)).map fun i => d.scaleExp c fresh (32 * ot + i * n) k
  (es.foldl min (es.headD 0), es.foldl max (es.headD 0))

/-- The least and the greatest of the scale exponents σ = eA + eB of the products of a k-step (R227). -/
def sigmaRange (c : Cluster) (fresh : Nat) (a b : TileDesc) (w : MatWords) (kt : Nat) : Int × Int :=
  let n := if a.outerBlocks || b.outerBlocks then 1 else min 32 (min a.bsz b.bsz)
  let xs := (List.range (32 / n)).map fun i =>
    let k := 32 * kt + i * n
    let x := a.expsAt c fresh w.rowTile k
    let y := b.expsAt c fresh w.colTile k
    (x.1 + y.1, x.2 + y.2)
  let x0 := xs.headD (0, 0)
  xs.foldl (fun z x => (min z.1 x.1, max z.2 x.2)) x0

/-- Is a k-step checked exactly: both operands narrow, the scale exponents of its products within the range of R228 (R179)? In long mode
the range begins at the σ0 to which the window exponent belongs (R227); FP32 mode has no window exponent, and any range of that length
will do (notes/assumptions/169.md, DEDUCED). -/
def exactStep (c : Cluster) (fresh : Nat) (a b : TileDesc) (i : MeItem) (kt : Nat) : Bool :=
  let (lo, hi) := sigmaRange c fresh a b i.w kt
  let s0 := wexpInt i.wexp - fmtLow a.fmt - fmtLow b.fmt + scaleLow a + scaleLow b - 128
  a.fmt.narrow && b.fmt.narrow && decide (hi - lo < exactSpan a b) && (!i.long || (decide (s0 ≤ lo) && decide (hi < s0 + exactSpan a b)))

/-- O_j and P_j of an exact k-step: the products of column j summed over the rows, and the column sums of A reduced with column j of B
(R178, R179). -/
def exactColumn (as bs : List (List Val)) (j : Nat) : Rat × Rat :=
  let b := (bs.getD j []).map Val.toRat
  let dot := fun (x : List Rat) => ((x.zip b).map fun (u, v) => u * v).sum
  ((as.map fun r => dot (r.map Val.toRat)).sum,
   dot ((List.range 32).map fun k => (as.map fun r => (r.getD k .nan).toRat).sum))

/-- The output of one dot-product unit for a k-step, as the checker takes it: in long mode rounded to FP32. -/
def unitOut (fa fb : Fmt) (long : Bool) (w : Int) (as bs : List Val) : W32 :=
  let ps := rowProducts fa fb as bs
  if long then BitVec.ofNat 32 (longToF32 w (kstepLong w ps).1).code else kstepSum ps

/-- O_j, P_j and S_j of the k-steps that are not checked exactly, in FP32: k-steps, reduction elements and rows in increasing order
(R178, R180; the order is notes/assumptions/149.md, DESIGN CHOICE). -/
def roundedColumn (fa fb : Fmt) (long : Bool) (w : Int) (steps : List (List (List Val) × List (List Val))) (j : Nat) :
    W32 × W32 × W32 :=
  steps.foldl (fun x (as, bs) =>
    let b := bs.getD j []
    let o := as.foldl (fun o r => fadd o (unitOut fa fb long w r b)) x.1
    (List.range 32).foldl (fun (y : W32 × W32 × W32) k =>
      let col := as.map fun r => toF32 (r.getD k .nan)
      let v := toF32 (b.getD k .nan)
      let sum := col.foldl fadd 0
      let mag := (col.map fun u => u &&& 0x7FFFFFFF).foldl fadd 0
      (y.1, fadd y.2.1 (fmul sum v), fadd y.2.2 (fmul mag (v &&& 0x7FFFFFFF)))) (o, x.2)) (0, 0, 0)

/-- Does |O_j − P_j| exceed 2^(−T) × S_j (R180)? -/
def beyondTol (tol : Nat) (x : W32 × W32 × W32) : Bool :=
  let diff := toF32 ((f32 x.1).add (f32 x.2.1).neg) &&& 0x7FFFFFFF
  Val.lt ((f32 x.2.2).mul (.fin false (pow2 (-(tol : Int))))) (f32 diff)

/-- The columns in which O_j and P_j of a pass differ, as sound arithmetic gives them (R178–R180). -/
def checkMask (c : Cluster) (fresh tol : Nat) (i : MeItem) : W32 :=
  match TileDesc.ofBytes i.a, TileDesc.ofBytes i.b with
  | some a, some b =>
    let kts := (List.range i.w.ksteps).map (i.w.kTile + ·)
    let tiles := fun (ks : List Nat) => ks.map fun kt => (a.tile c fresh i.w.rowTile kt, b.tile c fresh i.w.colTile kt)
    let exact := tiles (kts.filter fun kt => exactStep c fresh a b i kt)
    let rounded := tiles (kts.filter fun kt => !exactStep c fresh a b i kt)
    maskOf 32 fun j =>
      (exact.any fun (x, y) => (exactColumn x y j).1 != (exactColumn x y j).2) ||
      (!rounded.isEmpty && beyondTol tol (roundedColumn a.fmt b.fmt i.long (wexpInt i.wexp) rounded j))
  | _, _ => 0

/-- A pass as the array leaves it: the latch, whether an operand was not finite or a scale NaN (R182), and the byte
ranges read. -/
structure PassOut where
  latch  : Latch
  odd    : Bool
  ranges : List (Nat × Nat)

def runPass (c : Cluster) (fresh : Nat) (i : MeItem) : PassOut :=
  match TileDesc.ofBytes i.a, TileDesc.ofBytes i.b with
  | some a, some b =>
    let kts := (List.range i.w.ksteps).map (i.w.kTile + ·)
    let as := kts.map fun kt => a.tile c fresh i.w.rowTile kt
    let bs := kts.map fun kt => b.tile c fresh i.w.colTile kt
    let sums := passSums a.fmt b.fmt i.long (wexpInt i.wexp) as bs
    let odd := (as ++ bs).any (fun t => t.any fun r => r.any fun v => !v.isFinite) ||
      kts.any fun kt => a.nanScale c fresh i.w.rowTile kt || b.nanScale c fresh i.w.colTile kt
    { latch := { item := i, sums := sums.map (·.1), low := sums.any (·.2.1), range := sums.any (·.2.2), skip := false },
      odd := odd,
      ranges := kts.flatMap fun kt => a.tileRanges i.w.rowTile kt ++ b.tileRanges i.w.colTile kt }
  | _, _ => { latch := { item := i, sums := [], low := false, range := false, skip := true }, odd := false, ranges := [] }

/-- FIRST begins: the flags of its tile are cleared (R202, R222). -/
def beginFirst (c : Cluster) (i : MeItem) : Cluster := if i.first then flagTile c i.long i.tile clearFlags else c

/-- The array takes one pass: the sums reach a latch, and CHECK either gives its verdict later or none (R178–R182). A
fully masked pass performs no k-steps and its CHECK passes (R190). -/
def startPass (s : State) (k : Pt) (c : Tc) (i : MeItem) : State :=
  if i.mask && tileMasked i.ctx i.w.rowTile i.w.colTile then
    let s := s.modCluster c fun t => { beginFirst t i with latches := t.latches ++ [{ item := i, sums := [], low := false, range := false, skip := true }] }
    s.count k fun n => { n with maskSkipped := satAdd n.maskSkipped 1, checkRuns := satAdd n.checkRuns i.check.toNat }
  else
    let r := runPass s.clusters[c] s.fresh i
    let v : Verdict := { unit := i.unit, mask := if i.check && !r.odd then checkMask s.clusters[c] s.fresh s.parts[k].policy.checkTol.toNat i else 0 }
    let s := spadTouched s c r.ranges
    let s := s.modCluster c fun t => { beginFirst t i with latches := t.latches ++ [r.latch] }
    if !i.check then s
    else if r.odd then
      setNonfinite (s.count k fun n => { n with checkSkipped := satAdd n.checkSkipped 1 }) k c.1 0x10
    else s.modCluster c fun t => { t with verdicts := t.verdicts ++ [v] }

/-- Do the tiles of two items share bytes? -/
def sharesTile (i j : MeItem) : Bool := (tileSpan i.long i.tile).any fun x => (tileSpan j.long j.tile).contains x

/-- EST_RESET takes effect (R174); a frozen estimator keeps its state (R177). -/
def applyEstReset (t : Cluster) (i : MeItem) : Cluster :=
  if t.frozen then t else match TileDesc.ofBytes i.c with
  | some d => estSet t d.estId { w := [d.estInit], cur := 0, c := 0 }
  | none => t

/-- The ME goes on with its queue in order: at most two passes lie in latches (R206, R168). A pass that clears the
flags of a tile waits for an earlier write-out on the same bytes (R202). -/
def startMe (k : Pt) (c : Tc) : (fuel : Nat) → State → State
  | 0, s => s
  | fuel + 1, s =>
    let t := s.clusters[c]
    match t.meQueue with
    | [] => s
    | i :: rest =>
      if i.w.opcode = 0x18 then
        if t.latches.isEmpty then
          let s := s.modCluster c fun t => { applyEstReset t i with meQueue := rest }
          let s := itemSignal s k c i.w.signal i.w.syncObj i.w.signalN
          startMe k c fuel (itemEnded s c i.job)
        else s
      else if decide (2 ≤ t.latches.length) || (i.first && t.latches.any fun l => l.item.last && sharesTile l.item i) then s
      else startMe k c fuel (startPass (s.modCluster c fun t => { t with meQueue := rest }) k c i)

/-- A queue of 16 instructions is gone through. -/
def runMe (s : State) (k : Pt) (c : Tc) : State := startMe k c 17 s

/-! ## Dispatch of MMA and EST_RESET -/

/-- Is the instruction rejected with the bad-instruction error (R167)? `d` is the C descriptor where LAST is set. R167 rejects INT32 and
INT16 as formats of A and B only; that a C descriptor may have them is a reading (notes/assumptions/17.md, DEDUCED). -/
def badMma (p : Partition) (w : MatWords) (a b : TileDesc) (d : Option TileDesc) : Bool :=
  let intFmt := fun (f : Fmt) => f = .int32 ∨ f = .int16
  decide (intFmt a.fmt ∨ intFmt b.fmt) || decide (a.redTiles < w.kTile + w.ksteps ∨ b.redTiles < w.kTile + w.ksteps) ||
  decide (a.outerTiles ≤ w.rowTile ∨ b.outerTiles ≤ w.colTile) || decide (accTiles p w.long ≤ w.accTile) ||
  (match d with
    | none => w.last
    | some x => decide (x.rows ≤ w.rowTile ∨ x.cols ≤ w.colTile) || (!x.estimated && decide (64 ≤ x.bsz)))

/-- May a pass without FIRST run: the tile is open in the mode of the pass (R203)? -/
def followOk (t : Cluster) (w : MatWords) : Bool :=
  let e := tileEntry t (headOf w.long w.accTile)
  bit e 31 && bit e 30 == w.long && fld e 10 0 == headOf w.long w.accTile

/-- The units that record a tile opened by them (R310). -/
def noteOpened (s : State) (k : Pt) (unit : Option W32) (c : Tc) (span : List Nat) : State :=
  match unit with
  | some m => modUnit s k m fun u => { u with tiles := u.tiles ++ span.map fun t => (c, t) }
  | none => s

/-- The segment IDs that the write-out of a pass reads by R187 (KIND 4): those of the positions of its tile below LEN. -/
def segRanges (ctx : Bytes) (rowTile colTile : Nat) : List (Nat × Nat) :=
  let len := fld (objWord ctx 0) 18 0
  let one := fun (p : Nat) => if p < len then [(fld (objWord ctx 3) 24 0 + 2 * p, 2 * min 32 (len - p))] else []
  if fld (objWord ctx 0) 22 20 = 4 ∧ !tileMasked ctx rowTile colTile then one (queryPos ctx rowTile 0) ++ one (keyPos ctx colTile 0) else []

/-- A pass with LAST whose segment IDs lie in the merge window, which the ME does not reach (R229). -/
def segOutside (w : MatWords) (ctx : Bytes) : Bool :=
  w.last && w.mask && (segRanges ctx w.rowTile w.colTile).any fun (a, n) => decide (spadEnd < a + n)

/-- The sequence context that an MMA with MASK reads at dispatch (R189). -/
def mmaCtx (s : State) (w : MatWords) : Bytes := if w.mask then (s.seqs.toList.getD w.seqCtx ⟨[], none⟩).bytes else []

/-- An accepted MMA enters the ME queue; its tile opens and closes in this clock (R202, R204). -/
def queueMma (s : State) (k : Pt) (c : Tc) (b : SqJob) (w : MatWords) (ba bb bc : Bytes) (cH : W32) (bank drain : Nat) : State :=
  let p := s.parts[k]
  let e := tileEntry s.clusters[c] (headOf w.long w.accTile)
  let i : MeItem :=
    { no := s.clusters[c].accepted + 1, w := w, a := ba, b := bb, c := bc, aH := substitute p b.unit (BitVec.ofNat 32 w.aHandle),
      bH := substitute p b.unit (BitVec.ofNat 32 w.bHandle), cH := cH, ctx := mmaCtx s w,
      long := w.long, first := w.first, last := w.last, check := w.check, mask := w.mask, tile := w.accTile,
      wexp := BitVec.ofNat 10 (if w.first then w.wexp else fld e 25 16), job := b.id, unit := b.unit }
  let s := s.modCluster c fun t =>
    let t := if w.first then openTile t w.long w.accTile w.wexp else t
    let t := if w.last then closeAt t (headOf w.long w.accTile) else t
    { t with meQueue := t.meQueue ++ [i], accepted := t.accepted + 1 }
  let s := if w.first then noteOpened s k b.unit c (tileSpan w.long w.accTile) else s
  let s := s.count k fun n => { n with bankStalls := satAdd n.bankStalls bank, drainStalls := satAdd n.drainStalls drain }
  runMe (itemDispatched s c b.id) k c

/-- The outcome of a dispatch: the state, or a wait for a pending object, which changes nothing. The table of R165 has C_HANDLE null
without LAST; that another value is a nonzero reserved field and so a bad instruction is a reading (notes/assumptions/17.md, DEDUCED). -/
def dispatchMma (s : State) (k : Pt) (c : Tc) (b : SqJob) (w : MatWords) (bank drain : Nat) : State :=
  let p := s.parts[k]
  let cH := tileHandle s k b.unit w.cHandle
  if !w.reservedOk || w.opcode != 0x10 then itemFailed s c b.id 0x06
  else
    match findObj s k 1 (tileHandle s k b.unit w.aHandle), findObj s k 1 (tileHandle s k b.unit w.bHandle) with
    | .bad, _ => itemFailed s c b.id 0x03
    | _, .bad => itemFailed s c b.id 0x03
    | .ok ba, .ok bb =>
      match TileDesc.ofBytes ba, TileDesc.ofBytes bb with
      | some da, some db =>
        if w.cHandle = 0 ∨ !w.last then
          if w.cHandle ≠ 0 ∨ badMma p w da db none then itemFailed s c b.id 0x06
          else if w.mask && !bit p.seqContexts w.seqCtx then itemFailed s c b.id 0x07
          else if !w.first && !followOk s.clusters[c] w then itemFailed s c b.id 0x08
          else queueMma s k c b w ba bb [] 0 bank drain
        else
          match findObj s k 1 cH with
          | .bad => itemFailed s c b.id 0x03
          | .wait => s
          | .ok bc =>
            match TileDesc.ofBytes bc with
            | some dc =>
              if badMma p w da db (some dc) then itemFailed s c b.id 0x06
              else if w.mask && !bit p.seqContexts w.seqCtx then itemFailed s c b.id 0x07
              else if !w.first && !followOk s.clusters[c] w then itemFailed s c b.id 0x08
              else if segOutside w (mmaCtx s w) then itemFailed s c b.id 0x10
              else queueMma s k c b w ba bb bc cH bank drain
            | none => itemFailed s c b.id 0x06
      | _, _ => itemFailed s c b.id 0x06
    | _, _ => s

/-- EST_RESET. The fields that only an MMA uses are ignored, for which the spec gives no check (notes/assumptions/170.md, DESIGN
CHOICE); as a matrix instruction with MASK set it must name a context of its partition (R184). -/
def dispatchEstReset (s : State) (k : Pt) (c : Tc) (b : SqJob) (w : MatWords) : State :=
  if !w.reservedOk then itemFailed s c b.id 0x06
  else if w.mask && !bit s.parts[k].seqContexts w.seqCtx then itemFailed s c b.id 0x07
  else
    match findObj s k 1 (tileHandle s k b.unit w.cHandle) with
    | .bad => itemFailed s c b.id 0x03
    | .wait => s
    | .ok bc =>
      let i : MeItem :=
        { no := s.clusters[c].accepted, w := w, a := [], b := [], c := bc, aH := 0, bH := 0, cH := tileHandle s k b.unit w.cHandle, ctx := [], long := false, first := false,
          last := false, check := false, mask := false, tile := 0, wexp := 0, job := b.id, unit := b.unit }
      runMe (itemDispatched (s.modCluster c fun t => { t with meQueue := t.meQueue ++ [i] }) c b.id) k c

/-- A matrix instruction that the clocks left cover, or that a boundary finds first in the held work. -/
def dispatchMat (s : State) (k : Pt) (c : Tc) (b : SqJob) (w : MatWords) (bank drain : Nat) : State :=
  if w.opcode = 0x18 then dispatchEstReset s k c b w else dispatchMma s k c b w bank drain

/-- Does a matrix instruction wait at the head of the SQ for a pending object (R65)? -/
def matWaits (s : State) (k : Pt) (unit : Option W32) (w : MatWords) : Bool :=
  let f := fun (h : Nat) => findObj s k 1 (tileHandle s k unit h)
  w.reservedOk &&
  (if w.opcode = 0x18 then f w.cHandle == .wait
   else w.opcode == 0x10 && f w.aHandle != .bad && f w.bHandle != .bad &&
     (f w.aHandle == .wait || f w.bHandle == .wait || (w.last && w.cHandle != 0 && f w.cHandle == .wait)))

/-- Does the SQ of a confidential partition fetch from a line that is not marked as code (R513)? -/
def sqFetchBad (s : State) (k : Pt) (c : Tc) (pc : Nat) : Bool := s.parts[k].conf && !Sparse.get false s.clusters[c].code (pc / 128)

/-- That is a partition fault, with which the command ends (R57, R513). -/
def sqFetchFault (s : State) (k : Pt) (c : Tc) (id : Nat) : State := itemFailed (partitionFault s k c 2) c id 0x0D

/-- The SQ reaches a matrix instruction (R52–R55, R165). -/
def sqMat (s : State) (c : Tc) (w : MatWords) (t : SqTime) : State :=
  match sqReady s c with
  | none => s
  | some (k, b) =>
    if sqFetchBad s k c t.pc then sqFetchFault s k c b.id
    else if !s.clusters[c].heldWork.isEmpty || decide (16 ≤ s.clusters[c].meQueue.length) then s
    else if badBudget s w.budget then itemFailed s c b.id 0x04
    else if !fitsClocks s w.budget t.clocksLeft then
      s.modCluster c fun x => { x with heldWork := x.heldWork ++ [{ isVe := false, w := w, budget := BitVec.ofNat 20 w.budget, job := b.id }] }
    else dispatchMat s k c b w t.bankStalls t.drainStalls

/-- MMA: the SQ of cluster c dispatches a matrix instruction. -/
def execMma (c : Tc) (w : MatWords) (t : SqTime) (s : State) : Out :=
  .next (if w.opcode = 0x18 then s else settleFrom s (sqMat s c w t))

/-- EST_RESET: the SQ of cluster c dispatches a reset of an estimator. -/
def execEstReset (c : Tc) (w : MatWords) (t : SqTime) (s : State) : Out :=
  .next (if w.opcode = 0x18 then settle (sqMat s c w t) else s)

/-! ## The merge window (R229–R233) -/

/-- Byte range of a tile. -/
def tileRange (p : Partition) (long : Bool) (t : Nat) : Nat × Nat := (accAddr p (headOf long t), if long then 20480 else 4096)

/-- Merge address t; none where an address is no merge address. -/
def mergeIndex (addr : Nat) : Option Nat :=
  if 0x1800000 ≤ addr ∧ addr < 0x2000000 ∧ addr % 0x1000 = 0 then some ((addr - 0x1800000) / 0x1000) else none

/-- Elements of an image (R230). -/
def imageElems (long : Bool) (bs : Bytes) : List LongElem :=
  (List.range 1024).map fun e =>
    BitVec.ofNat 160 ((List.range (if long then 5 else 1)).foldl (fun n q => n + numAt bs (128 + 4096 * q + 4 * e) 4 * 2 ^ (32 * q)) 0)

def imageBytes (long : Bool) : Nat := if long then 20608 else 4224

/-- The STATE of an image, its mode, and the index of its tile in that mode. -/
def imageState (bs : Bytes) : W32 := BitVec.ofNat 32 (numAt bs 0 4)
def imageLong (bs : Bytes) : Bool := bit (imageState bs) 30
def tileOf (long : Bool) (t : Nat) : Nat := if long then t / 5 else t

/-- The sum of two elements of a mode. -/
def elemAdd (long : Bool) (a b : LongElem) : LongElem × Bool :=
  if long then longAdd a b else ((fadd (a.setWidth 32) (b.setWidth 32)).setWidth 160, false)

/-- A load of an image (R232): the elements, and the entries with OPEN 1; a tile that an MMA with FIRST has opened over the same bytes
since the load was accepted is closed, for which the spec gives no outcome (notes/assumptions/171.md, DESIGN CHOICE); the unit of its MOVE has opened the tile. HEAD and CONT are those of the destination
(notes/assumptions/16.md, DEDUCED). -/
def loadImage (s : State) (k : Pt) (c : Tc) (unit : Option W32) (t : Nat) (bs : Bytes) : State :=
  let long := imageLong bs
  let u := tileOf long t
  let head := setBit (setFld (imageState bs) 10 0 t) 31 true
  let p := s.parts[k]
  (noteOpened s k unit c (tileSpan long u)).modCluster c fun x =>
    let x := (tileSpan long u).foldl closeAt x
    let x := writeTile x p long u (imageElems long bs)
    (tileSpan long u).foldl (fun x j => setEntry x j (setBit head 29 (j != t))) x

/-- A merge of an image (R232), through the drain as a pass is (R233). -/
def mergeImage (s : State) (k : Pt) (c : Tc) (t : Nat) (bs : Bytes) : State :=
  let long := imageLong bs
  let u := tileOf long t
  let p := s.parts[k]
  let sums := ((oldTile s.clusters[c] s.fresh p long u).zip (imageElems long bs)).map fun (a, b) => elemAdd long a b
  let st := imageState bs
  let s := spadTouched s c (oldRanges s.clusters[c] p long u)
  let s := s.modCluster c fun x =>
    flagTile (drainTile x p long u (sums.map (·.1))) long u (orFlags (bit st 27) (bit st 26 || sums.any (·.2)))
  s.count k fun n => { n with merges := satAdd n.merges 1 }

/-- The image that a read at merge address t returns (R230, R231); none where no tile of the region has that address. -/
def getImage (s : State) (k : Pt) (c : Tc) (t : Nat) : Option (State × Bytes) :=
  let e := tileEntry s.clusters[c] t
  let long := bit e 30
  let u := tileOf long t
  let p := s.parts[k]
  if headOf long u ≠ t ∨ accTiles p long ≤ u then none
  else
    let es := readTile s.clusters[c] s.fresh p long u
    let head := leBytes 4 e.toNat ++ leBytes 2 s.links.deviceId.toNat ++ [BitVec.ofNat 8 c.1, 0] ++ leBytes 2 u ++ List.replicate 118 0
    some (spadTouched s c [tileRange p long u], head ++ tileBytes long es)

/-- An image written at dst by the mover or a gather engine: the errors of the write are logged, and a write that waits for a
generation slot is kept (R425, R544). -/
def storeImage (s : State) (k : Pt) (c : Tc) (dst : BitVec 52) (bs : Bytes) : State :=
  match firstBad s k 4 dst.toNat bs.length true with
  | some (st, loc) => badRequest s k c.1 st loc
  | none =>
    let (s, st) := writeRange s k dst.toNat (clean bs) false
    if st = stStalled then { s with stalled := s.stalled ++ [.image k c dst bs] }
    else if st = 0 then s
    else badRequest s k c.1 st (addrLoc dst.toNat)

/-- An image read and stored at dst by the mover or a gather engine. -/
def readImageTo (s : State) (k : Pt) (c : Tc) (t : Nat) (dst : BitVec 52) : State :=
  match getImage s k c t with
  | none => s
  | some (s, bs) => storeImage s k c dst bs

/-- The unit that a carrier works for: that of a MOVE. -/
def carrierUnit (s : State) (c : Tc) : ImageBy → Option W32
  | .move id => (s.clusters[c].jobs.find? fun b => b.id == id && b.kind == .move).bind (·.unit)
  | _ => none

/-- A transfer that waited for drains takes effect; one that its carrier takes is left to it. -/
def applyDeferred (k : Pt) (c : Tc) (s : State) (via : ImageBy) : Deferred → State
  | .load t bs => loadImage s k c (carrierUnit s c via) t bs
  | .merge t bs => mergeImage s k c t bs
  | .read t dst => readImageTo s k c t dst
  | .take _ => s

/-- The passes that the ME has accepted and not drained, oldest first. -/
def openPasses (c : Cluster) : List MeItem := c.latches.map (·.item) ++ c.meQueue.filter fun i => i.w.opcode != 0x18

/-- The number of the last pass on these tiles that the ME has accepted and not drained (R233). -/
def lastOnTile (c : Cluster) (long : Bool) (t : Nat) : Option Nat :=
  (((openPasses c).filter fun i => (tileSpan i.long i.tile).any fun x => (tileSpan long t).contains x).map (·.no)).getLast?

/-- Has every pass on the tile of a waiting transfer drained that it waits for? -/
def ripe (c : Cluster) (p : Pinned) : Bool :=
  !(openPasses c).any fun i => decide (i.no ≤ p.after) && (tileSpan i.long i.tile).any fun x => (tileSpan p.long p.tile).contains x

/-- A transfer takes effect after the drain of every pass that the ME has accepted on the tile: now where there is
none (R233). -/
def afterDrains (s : State) (k : Pt) (c : Tc) (long : Bool) (t : Nat) (via : ImageBy) (d : Deferred) : State :=
  match lastOnTile s.clusters[c] long t with
  | none => applyDeferred k c s via d
  | some n => s.modCluster c fun x => { x with window := x.window ++ [{ after := n, long := long, tile := t, what := d, via := via }] }

/-- A write of an image to merge address t of cluster c, whose last line arrives now (R232): the new state and the
status of the transfer, none while it waits for drains. -/
def putImage (s : State) (k : Pt) (c : Tc) (t : Nat) (via : ImageBy) (bs : Bytes) : State × Option Nat :=
  let long := imageLong bs
  let u := tileOf long t
  let e := tileEntry s.clusters[c] t
  let st := if (lastOnTile s.clusters[c] long u).isSome then none else some 0
  if bs.length ≠ imageBytes long ∨ headOf long u ≠ t ∨ accTiles s.parts[k] long ≤ u then (s, some 0x10)
  else if !bit e 31 then (afterDrains s k c long u via (.load t bs), st)
  else if bit e 30 ≠ long ∨ (long ∧ fld e 25 16 ≠ fld (imageState bs) 25 16) ∨ fld e 10 0 ≠ t then
    (s.count k fun n => { n with mergeRefused := satAdd n.mergeRefused 1 }, some 0x09)
  else (afterDrains s k c long u via (.merge t bs), st)

/-- IMAGE_WRITE: the last line of an image has arrived at a merge address (R232, R233); none arrives while a quench holds the partition's
traffic (R93). -/
def execImageWrite (c : Tc) (addr : BitVec 25) (image : Bytes) (s : State) : Out :=
  match s.clusters[c].part, mergeIndex addr.toNat with
  | some k, some t => .next (if s.clusters[c].fenced || !admits s k then s else settleFrom s (putImage s k c t .direct image).1)
  | _, _ => .next s

/-- IMAGE_READ: the tile mover or a gather engine reads an image and stores it at `dst` (R231, R233), unless a quench holds the
partition's traffic (R93). -/
def execImageRead (c : Tc) (addr : BitVec 25) (dst : BitVec 52) (s : State) : Out :=
  match s.clusters[c].part, mergeIndex addr.toNat with
  | some k, some t =>
    let long := bit (tileEntry s.clusters[c] t) 30
    .next (if s.clusters[c].fenced || !admits s k then s else settleFrom s (afterDrains s k c long (tileOf long t) .direct (.read t dst)))
  | _, _ => .next s

/-! ## The drain and the write-out (R169–R175, R209, R216, R221–R225) -/

/-- The FP32 values of a tile at write-out, with what their rounding counts (step 1 of R170, R224). -/
def tileF32 (long : Bool) (w : Int) (es : List LongElem) : List Conv :=
  if long then es.map (longToF32 w) else es.map fun e => Conv.plain (e.setWidth 32 : W32).toNat

/-- Row and column scales (R117), in the saturating mode of every write-out (R126). -/
def scaleVec (f : Option Fmt) (c : Cluster) (fresh base i : Nat) (x : Conv) : Conv :=
  match f with
  | some g => encode .fp32 false ((f32 (BitVec.ofNat 32 x.code)).mul (vecAt g c fresh base i))
  | none => Conv.plain x.code

/-- What the conversions before the encoding of a write count: their saturations, which raise OVERFLOW where the source was finite
(R125, R138, R224). -/
def satTally (cs : List Conv) : Tally := { Tally.zero with sat := (cs.filter (·.sat)).length, overflow := cs.any (·.finSat) }

/-- Blocks of an output tile by R111 and R163: each a list of the element offsets (o, k) within the tile. A format
without block scale is written row by row. -/
def tileBlocks (d : TileDesc) : List (List (Nat × Nat)) :=
  let n := min 32 (if d.sfmt.isSome then d.bsz else 32)
  (List.range 32).flatMap fun r => (List.range (32 / n)).map fun b => (List.range n).map fun e =>
    if d.sfmt.isSome && d.outerBlocks then (b * n + e, r) else (r, b * n + e)

/-- Row o of the output as bytes: 32 codes of w bits packed by R108. -/
def packCodes (w : Nat) (codes : List Nat) : Bytes :=
  leBytes (codes.length * w / 8) ((codes.zip (List.range codes.length)).foldl (fun n (c, i) => n + c % 2 ^ w * 2 ^ (w * i)) 0)

/-- What a write-out gives: the cluster, the tally, and the largest finite magnitude written. -/
structure WriteOut where
  c     : Cluster
  tally : Tally
  amax  : Rat

/-- The encoded blocks of an output tile, each with its element offsets. -/
def encodeTile (d : TileDesc) (m : List (Nat × Nat) → ScaleMode) (val : Nat → Nat → Option Val) : List (List (Nat × Nat) × BlockOut) :=
  (tileBlocks d).map fun b =>
    let vs := b.map fun (o, k) => val o k
    match d.sfmt with
    | some g => (b, encodeBlock d.fmt g (m b) false vs)
    | none =>
      let (cs, t) := encodeWide d.fmt false vs
      (b, ⟨cs, 0, t⟩)

/-- The address of the scale byte of an element, and the number of its part of 32 within its block. -/
def TileDesc.scaleAddr (d : TileDesc) (o k : Nat) : Nat := d.scaleBase + d.scaleOff o k
def TileDesc.partNo (d : TileDesc) (o k : Nat) : Nat := (if d.outerBlocks then o else k) / 32 % (d.bsz / 32)

/-- Is the block of a write-out one that the ME writes in parts? -/
def TileDesc.inParts (d : TileDesc) : Bool := d.estimated && d.sfmt.isSome && decide (32 < d.bsz)

/-- What the parts written so far have given for the block of an element; a part that is written again begins its block anew
(notes/assumptions/53.md, DEDUCED). -/
def blockParts (c : Cluster) (d : TileDesc) (o k : Nat) : BlockParts :=
  let r := Sparse.get BlockParts.none c.blocks (d.scaleAddr o k)
  if r.parts.testBit (d.partNo o k) then BlockParts.none else r

/-- The scale mode of a block of an output tile whose first element lies at (o, k) of the output: the estimate of a block in parts is that
of its first part, so that all its elements stand under one scale (R134, R175). -/
def blockMode (c : Cluster) (d : TileDesc) (o k : Nat) : ScaleMode :=
  let est := (estGet c d.estId).estimate d.estH
  if !d.estimated then .onWrite
  else if !d.inParts then .estimate est BlockRest.whole
  else
    let r := blockParts c d o k
    .estimate (if r.parts = 0 then est else r.est)
      ⟨r.nan, r.nonzero, r.live, (r.parts ||| 2 ^ d.partNo o k) == 2 ^ (d.bsz / 32) - 1⟩

/-- An element code stored, its neighbours in the same bytes kept. -/
def putCode (c : Cluster) (d : TileDesc) (o k code : Nat) : Cluster :=
  let b := d.elemBit o k
  let a := d.elemBase + b / 8
  let n := (b % 8 + d.fmt.width + 7) / 8
  let old := leNat (c.spad.readBytes a n)
  let keep := old - old / 2 ^ (b % 8) % 2 ^ d.fmt.width * 2 ^ (b % 8)
  spadWrite c a (clean (leBytes n (keep + code * 2 ^ (b % 8)))) false

/-- The codes of the parts of a block that stand already become 0, where a NaN has come into the block; masked elements keep the mask
code (R128). -/
def zeroParts (c : Cluster) (d : TileDesc) (masked : Bool) (parts o k : Nat) : Cluster :=
  (List.range d.bsz).foldl (fun c n =>
    let i := (if d.outerBlocks then o else k) / d.bsz * d.bsz + n
    let (o', k') := if d.outerBlocks then (i, k) else (o, i)
    let code := leNat (c.spad.readBytes (d.elemBase + d.elemBit o' k' / 8) 4) / 2 ^ (d.elemBit o' k' % 8) % 2 ^ d.fmt.width
    if parts.testBit (n / 32) && !(masked && code == d.fmt.maskCode) then putCode c d o' k' 0 else c) c

/-- The record of a block in parts with one more part of values: it goes once the block is whole. -/
def addPart (c : Cluster) (d : TileDesc) (masked : Bool) (o k : Nat) (vs : List (Option Val)) : Cluster :=
  let r := blockParts c d o k
  let nan := vs.any fun v => match v with | some .nan => true | _ => false
  let est := match blockMode c d o k with | .estimate e _ => e | _ => 0
  let r' : BlockParts :=
    { parts := r.parts ||| 2 ^ d.partNo o k, est := est, nan := r.nan || nan, live := r.live || vs.any Option.isSome,
      nonzero := r.nonzero || vs.any fun v => match v with | some x => !x.isZero | none => false }
  let c := if nan && !r.nan then zeroParts c d masked r.parts o k else c
  { c with blocks := Sparse.set BlockParts.none c.blocks (d.scaleAddr o k) (if r'.parts = 2 ^ (d.bsz / 32) - 1 then BlockParts.none else r') }

/-- Bytes by address, cut into runs of successive addresses. -/
def byteRuns : List (Nat × Byte) → List (Nat × Bytes)
  | [] => []
  | (a, x) :: xs =>
    match byteRuns xs with
    | (b, bs) :: rs => if a + 1 = b then (a, x :: bs) :: rs else (a, [x]) :: (b, bs) :: rs
    | [] => [(a, [x])]

/-- Codes and scales of an output tile stored: rows in increasing o (R158), then the scales (R159). Within a row the element of the
greatest k is written last, which decides where an output column shares bytes (notes/assumptions/17.md, DEDUCED). Scale bytes of
successive addresses are one write, so that they reach whole words (R156; notes/assumptions/172.md, DEDUCED). -/
def storeTile (c : Cluster) (d : TileDesc) (ot kt : Nat) (blocks : List (List (Nat × Nat) × BlockOut)) : Cluster :=
  let codes : Sparse Nat := (blocks.flatMap fun (b, o) => (b.zip o.codes).map fun ((r, k), x) => (r * 32 + k, x)).foldl
    (fun m (i, x) => Sparse.set 0 m i x) []
  let c := (List.range 32).foldl (fun c r =>
    spadWrite c (d.elemBase + d.elemBit (32 * ot + r) (32 * kt) / 8)
      (clean (packCodes d.fmt.width ((List.range 32).map fun k => Sparse.get 0 codes (r * 32 + k)))) false) c
  if d.sfmt.isNone then c
  else
    let scales : Sparse Nat := (blocks.filterMap fun (b, o) => b.head?.map fun (r, k) => (d.scaleAddr (32 * ot + r) (32 * kt + k), o.scale)).foldl
      (fun m (a, x) => Sparse.put m a x) []
    (byteRuns (scales.map fun (a, x) => (a, BitVec.ofNat 8 x))).foldl (fun c (a, bs) => spadWrite c a (clean bs) false) c

/-- Steps 2 to 6 of R170 on the FP32 values of a tile. -/
def writeOut (c : Cluster) (fresh : Nat) (d : TileDesc) (i : MeItem) (xs : List Conv) : WriteOut :=
  let seg := segEq c fresh i.ctx
  let elem := fun (r j : Nat) =>
    if i.mask && !kept i.ctx seg i.w.rowTile i.w.colTile r j then none
    else
      let x := xs.getD (32 * r + j) (Conv.plain 0)
      let y := scaleVec d.rowScale c fresh d.rowBase (32 * i.w.rowTile + r) x
      let z := scaleVec d.colScale c fresh d.colBase (32 * i.w.colTile + j) y
      some (f32 (BitVec.ofNat 32 z.code), satTally [x, y, z])
  let cells : List (Option (Val × Tally)) := (List.range 1024).map fun e => elem (e / 32) (e % 32)
  let vals : List (Option Val) := cells.map fun x => x.map (·.1)
  let at' := fun (o k : Nat) => if d.transposed then vals.getD (32 * k + o) none else vals.getD (32 * o + k) none
  let (ot, kt) := if d.transposed then (i.w.colTile, i.w.rowTile) else (i.w.rowTile, i.w.colTile)
  let blocks := encodeTile d (fun b => match b with
    | (o, n) :: _ => blockMode c d (32 * ot + o) (32 * kt + n)
    | [] => .onWrite) at'
  let t := storeTile c d ot kt blocks
  let t := if d.inParts then (tileBlocks d).foldl (fun t b => match b with
      | (o, n) :: _ => addPart t d i.mask (32 * ot + o) (32 * kt + n) (b.map fun (o, n) => at' o n)
      | [] => t) t else t
  { c := t, tally := (Tally.sum (cells.map fun x => (x.map (·.2)).getD Tally.zero)).add (Tally.sum (blocks.map fun b => b.2.tally)),
    amax := amaxOf vals }

/-- The byte ranges that a write-out reads beside its tile: scale vectors and segment IDs; none where every element is masked (R190). -/
def writeOutReads (d : TileDesc) (i : MeItem) : List (Nat × Nat) :=
  if i.mask && tileMasked i.ctx i.w.rowTile i.w.colTile then [] else
  (match d.rowScale with | some f => [(d.rowBase + 32 * i.w.rowTile * (f.width / 8), 32 * (f.width / 8))] | none => []) ++
  (match d.colScale with | some f => [(d.colBase + 32 * i.w.colTile * (f.width / 8), 32 * (f.width / 8))] | none => []) ++
  (if i.mask then segRanges i.ctx i.w.rowTile i.w.colTile else [])

/-- The estimator takes the samples and the OVERFLOW event of a write, unless it is frozen (R174, R177). -/
def feedEstimator (c : Cluster) (d : TileDesc) (amax : Rat) (ovf : Bool) : Cluster :=
  if !d.estimated || c.frozen then c
  else
    let e := (estGet c d.estId).feed amax
    estSet c d.estId (if ovf then e.overflow else e)

/-- The write-out of a drained item (R170, R224, R225). -/
def doWriteOut (s : State) (k : Pt) (c : Tc) (i : MeItem) (es : List LongElem) : State :=
  match TileDesc.ofBytes i.c with
  | none => s
  | some d =>
    let w := writeOut s.clusters[c] s.fresh d i (tileF32 i.long (wexpInt i.wexp) es)
    let e := tileEntry s.clusters[c] (headOf i.long i.tile)
    let s := spadTouched s c (writeOutReads d i)
    let s := s.modCluster c fun t =>
      feedEstimator { t with spad := w.c.spad, blocks := w.c.blocks, spadCe := w.c.spadCe, poison := w.c.poison, poisonNew := w.c.poisonNew, ueNew := w.c.ueNew, soft := w.c.soft, code := w.c.code, drainBuf := w.c.drainBuf } d w.amax w.tally.overflow
    let s := countTally s k w.tally
    let s := noteWriteOut s k i.unit (decide (d.fmt = .fp32)) (if d.sfmt.isSome then w.tally.flushed else 0)
      (if d.sfmt.isSome then w.tally.nonzero else 0)
    let s := if i.long && bit e 28 then
        let s := s.count k fun n => { n with inexactTiles := satAdd n.inexactTiles 1, rangeTiles := satAdd n.rangeTiles (bit e 26).toNat }
        let detail := i.tile + (if bit e 27 then 2 ^ 31 else 0) + (if bit e 26 then 2 ^ 30 else 0)
        match i.unit.bind (unitOf s.parts[k]) with
        | some u =>
          let m := markState s.parts[k] (BitVec.ofNat 16 u.mark.toNat)
          logPart s k (unitRec s k 0x05 u 0 c.1 m.level.toNat m.level.toNat m.replays.toNat detail)
        | none => notePart s k 0x05 c.1 0xFFFF detail
      else s
    let s := if w.tally.nonfin = 0 then s else setNonfinite s k c.1 0x10
    match i.unit, w.tally.overflow with
    | some m, true => raiseCause s k m 0x02 c.1 0 i.cH
    | _, _ => s

/-- The sum of tile and latch (R209, R216, R221): elements, LOW and RANGE. -/
def drainSums (c : Cluster) (fresh : Nat) (p : Partition) (l : Latch) : List LongElem × Bool :=
  if l.item.first then (l.sums, false)
  else
    let old := oldTile c fresh p l.item.long l.item.tile
    let sums := (old.zip l.sums).map fun (a, b) => elemAdd l.item.long a b
    (sums.map (·.1), sums.any (·.2))

/-- The sums that a latch holds: a pass that performs no k-steps adds nothing, and with FIRST it leaves its tile zero (R165, R190). -/
def Latch.whole (l : Latch) : Latch := if l.skip && l.item.first then { l with sums := List.replicate 1024 0, skip := false } else l

/-- Does a pass belong to a chain that a FIRST pass already begun on its tile has abandoned? Its flags are those of no chain any more
(R222). -/
def abandoned (t : Cluster) (i : MeItem) : Bool := (t.latches.drop 1).any fun l => l.item.first && sharesTile l.item i

/-- The oldest latch drains into its tile; with LAST the write-out follows, and the instruction completes. -/
def drainLatch (s : State) (k : Pt) (c : Tc) (latch : Latch) : State :=
  let l := latch.whole
  let i := l.item
  let p := s.parts[k]
  let t := s.clusters[c]
  let (es, r) := if l.skip then ([], false) else drainSums t s.fresh p l
  let s := if l.skip || i.first then s else spadTouched s c (oldRanges t p i.long i.tile)
  let s := s.modCluster c fun t =>
    let stale := abandoned t i
    let t := { t with latches := t.latches.drop 1, drains := t.drains + 1 }
    if l.skip then t
    else
      let t := drainTile t p i.long i.tile es
      if i.long && !stale then flagTile t true i.tile (orFlags l.low (l.range || r)) else t
  let s := if i.last then doWriteOut s k c i es else s
  let s := itemSignal s k c i.w.signal i.w.syncObj i.w.signalN
  runMe (itemEnded s c i.job) k c

/-! ## CHECK (R181, R714–R716) -/

/-- A mismatch is counted on the cluster, which may become suspect. -/
def noteMismatch (s : State) (k : Pt) (c : Tc) : State :=
  let ts := recentTicks s.meridian.tick s.clusters[c].mismatch ++ [s.meridian.tick]
  let s := s.modCluster c fun t => { t with mismatch := ts }
  if s.test.suspectAt ≠ 0 ∧ s.test.suspectAt.toNat ≤ ts.length ∧ !s.clusters[c].suspect then
    let s := s.modCluster c fun t => { t with suspect := true }
    let s := notePart s k 0x39 c.1 0xFFFF ts.length
    if s.parts[k].conf then s else noteOp s 0x39 c.1 0xFFFF ts.length
  else s

/-- CHECK_VERDICT: the verdict of the oldest checked pass of cluster c is ready. `mismatch` marks the columns in which the hardware's
comparison came out otherwise than sound arithmetic gives it: a fault of the array, or another order of the FP32 sums of R180. -/
def execCheckVerdict (c : Tc) (mismatch : BitVec 32) (s : State) : Out :=
  match s.clusters[c].part, s.clusters[c].verdicts with
  | some k, v :: rest =>
    let mismatch := v.mask ^^^ mismatch
    let s := s.modCluster c fun t => { t with verdicts := rest }
    let s := s.count k fun n => { n with checkRuns := satAdd n.checkRuns 1 }
    if mismatch = 0 then .next (settle (tryReplay s k))
    else
      let s := s.count k fun n => { n with checkMismatch := satAdd n.checkMismatch 1 }
      let s := noteMismatch s k c
      .next (settle (match v.unit with
        | some m => raiseCause s k m 0x01 c.1 mismatch 0
        | none => s))
  | _, _ => .next s

end Sys2Proof.Machine
end

