-- ==== Sys2Proof/Machine/Vector.lean ====
section
/-! DEFINITION. The vector instruction set that the vector engines and the presses share, and the vector engine: work
items, fetch, loops, faults, memory instructions and summaries (spec/06_vector_engine.md R235–R293,
spec/08_press.md R331, spec/03_number_formats.md R141). -/

namespace Sys2Proof.Machine

open Sys2Proof

/-! ## Fields (R247, R248); f is bits [55:0] of an instruction -/

def vTy (f : BitVec 56) : Nat := fld f 55 52
def vMen (f : BitVec 56) : Bool := bit f 51
def vMsel (f : BitVec 56) : Nat := fld f 50 48
def vZm (f : BitVec 56) : Bool := bit f 47
def vVd (f : BitVec 56) : Nat := fld f 46 42
def vVa (f : BitVec 56) : Nat := fld f 41 37
def vVb (f : BitVec 56) : Nat := fld f 36 32
def vVc (f : BitVec 56) : Nat := fld f 31 27
def vSx (f : BitVec 56) : Nat := fld f 26 23
def vBs (f : BitVec 56) : Bool := bit f 22
def vIeee (f : BitVec 56) : Bool := bit f 21
def vMd (f : BitVec 56) : Nat := fld f 20 18
def vSub (f : BitVec 56) : Nat := fld f 17 16
def mSbase (f : BitVec 56) : Nat := fld f 31 28
def mSstr (f : BitVec 56) : Nat := fld f 27 24
def mSscale (f : BitVec 56) : Nat := fld f 23 20
def mBsz (f : BitVec 56) : Nat := 16 * 2 ^ fld f 19 18
def mSfmt (f : BitVec 56) : Option SFmt := SFmt.ofCode (BitVec.ofNat 2 (fld f 17 16))
def mIeee (f : BitVec 56) : Bool := bit f 15
def mMcode (f : BitVec 56) : Bool := bit f 14
def mScstr (f : BitVec 56) : Nat := fld f 13 8
def sSd (f : BitVec 56) : Nat := fld f 55 52
def sSa (f : BitVec 56) : Nat := fld f 51 48
def sSb (f : BitVec 56) : Nat := fld f 47 44
def sN (f : BitVec 56) : Nat := fld f 43 32
def sImm (f : BitVec 56) : Int := (BitVec.ofNat 32 (fld f 31 0)).toInt

/-- The whole instruction word. -/
def vWord (op : Nat) (f : BitVec 56) : W64 := BitVec.ofNat 64 (op * 2 ^ 56 + f.toNat)

/-! ## The opcode map (R250, R331) -/

/-- Instruction classes of R247 and R332. -/
inductive VClass where
  | scalar
  | arith
  | memory
  | press
deriving DecidableEq, Repr

def opClass (op : Nat) : Option VClass :=
  if op ≤ 0x08 then some .scalar
  else if op ≤ 0x0A ∨ (0x10 ≤ op ∧ op ≤ 0x1E) ∨ (0x20 ≤ op ∧ op ≤ 0x26) ∨ (0x30 ≤ op ∧ op ≤ 0x32) ∨
      (0x40 ≤ op ∧ op ≤ 0x49) ∨ (0x50 ≤ op ∧ op ≤ 0x56) ∨ (0x60 ≤ op ∧ op ≤ 0x67) ∨ (0x70 ≤ op ∧ op ≤ 0x73) then some .arith
  else if (0x80 ≤ op ∧ op ≤ 0x83) ∨ (0x88 ≤ op ∧ op ≤ 0x8C) then some .memory
  else if [0x8D, 0x90, 0x91, 0x98, 0x9C, 0x9E].contains op then some .press
  else none

/-- Type codes that an instruction accepts (R238, R250, R263); none where it has no type: its TY field may then hold any code that is not
reserved (R98; notes/assumptions/148.md, DESIGN CHOICE). -/
def opTypes (op : Nat) : Option (List Nat) :=
  let all := [0x0, 0x1, 0x2, 0xA, 0xB]
  let narrow := [0x3, 0x4, 0x5, 0x6, 0x7, 0x8, 0x9]
  if [0x19, 0x1A, 0x1B, 0x1C, 0x44].contains op then some [0x0]
  else if op = 0x1D ∨ (0x20 ≤ op ∧ op ≤ 0x25) then some [0xA, 0xB]
  else if [0x26, 0x52].contains op then some [0xA]
  else if [0x30, 0x31, 0x40, 0x41, 0x42, 0x43].contains op then some [0x0, 0xA]
  else if [0x32, 0x81, 0x89].contains op then some [0x1, 0x2, 0xB]
  else if (0x45 ≤ op ∧ op ≤ 0x49) ∨ (0x70 ≤ op ∧ op ≤ 0x73) then none
  else if [0x61, 0x67].contains op then some [0x0, 0x1, 0x2]
  else if [0x82, 0x8A, 0x8C].contains op then some narrow
  else if [0x80, 0x88].contains op then some (all ++ narrow)
  else if opClass op = some .arith ∨ op = 0x83 ∨ op = 0x8B then some all
  else none

/-- A block-scaled memory instruction (R265). -/
def blockScaled (op : Nat) (f : BitVec 56) : Bool :=
  [0x80, 0x88, 0x8C].contains op && decide (3 ≤ vTy f ∧ vTy f ≤ 9)

/-- Bits per element of a memory format. -/
def tyWidth (ty : Nat) : Nat := match Fmt.ofCode (BitVec.ofNat 4 ty) with | some g => g.width | none => 0

/-- What R264, R265 and R269 forbid in a memory instruction. SFMT of one that is not block-scaled is ignored, whatever it holds, where
the spec says nothing of it (R112; notes/assumptions/148.md, DESIGN CHOICE). -/
def memLegal (op : Nat) (f : BitVec 56) : Bool :=
  !(blockScaled op f && ((mSfmt f).isNone || mScstr f == 0 || mSstr f != 0)) &&
  !((tyWidth (vTy f) == 4 || tyWidth (vTy f) == 6) && mSstr f != 0) &&
  !(mMcode f && (vMen f || vTy f == 0xA || vTy f == 0xB || op == 0x82 || decide (0x88 ≤ op)))

/-- Legality by the encoding alone (R249): reserved bits, types, and the operand combinations that are forbidden. That a mask-register
number of 8 and more in VA or VB, and a SUB value that the opcode table does not list, are illegal is a reading
(notes/assumptions/173.md, DEDUCED). -/
def encLegal (op : Nat) (f : BitVec 56) : Bool :=
  match opClass op with
  | none => false
  | some .scalar => op != 0x03 || sN f != 0
  | some .press => true
  | some cls =>
    (match opTypes op with | some ts => ts.contains (vTy f) | none => decide (vTy f ≤ 0xB)) &&
    (if cls = .memory then fld f 7 0 == 0 && memLegal op f
     else
      fld f 15 0 == 0 && (!([0x1E, 0x50, 0x51, 0x52].contains op) || vMen f) &&
      !(((0x45 ≤ op && op ≤ 0x48) || (0x70 ≤ op && op ≤ 0x73)) && decide (8 ≤ vVa f)) &&
      !((0x45 ≤ op && op ≤ 0x47) && decide (8 ≤ vVb f)) &&
      !((op == 0x30 || op == 0x32) && decide (2 ≤ vSub f)) && !(op == 0x31 && vSub f == 3))

/-- Legal on a VE: the press opcodes are reserved there (R331). -/
def veLegal (op : Nat) (f : BitVec 56) : Bool := encLegal op f && opClass op != some .press

/-! ## Registers (R236) -/

def vGet (r : VecRegs) (v i : Nat) : W32 := Sparse.get (0 : W32) r.v (256 * v + i)
def vPut (r : VecRegs) (v i : Nat) (x : W32) : VecRegs := { r with v := Sparse.set (0 : W32) r.v (256 * v + i) x }
def mGet (r : VecRegs) (i : Nat) : BitVec 256 := r.m.toList.getD i 0
def mPut (r : VecRegs) (i : Nat) (x : BitVec 256) : VecRegs := { r with m := r.m.setIfInBounds i x }

/-- s0 reads 0 and ignores writes. -/
def sGet (r : VecRegs) (i : Nat) : W64 := if i = 0 then 0 else r.s.toList.getD i 0
def sPut (r : VecRegs) (i : Nat) (x : W64) : VecRegs := if i = 0 then r else { r with s := r.s.setIfInBounds i x }

def setVflag (r : VecRegs) (b : Nat) (on : Bool) : VecRegs := if on then { r with flags := setBit r.flags b true } else r

/-- Lane i is active (R252). -/
def laneActive (r : VecRegs) (f : BitVec 56) (i : Nat) : Bool :=
  decide (i < r.vl.toNat) && (!vMen f || bit (mGet r (vMsel f)) i)

/-- Lanes below VL, of which there are at most 256 (R236). -/
def lanes (r : VecRegs) : List Nat := List.range (min r.vl.toNat 256)

/-- The second source of lane i (BS of R248). -/
def vbLane (r : VecRegs) (f : BitVec 56) (i : Nat) : W32 :=
  if vBs f then (sGet r (vVb f % 16)).setWidth 32 else vGet r (vVb f) i

/-- The destination written in active lanes, masked lanes kept or zeroed (R253). -/
def writeLanes (r : VecRegs) (f : BitVec 56) (res : Nat → W32) : VecRegs :=
  (lanes r).foldl (fun t i =>
    if laneActive r f i then vPut t (vVd f) i (res i) else if vZm f then vPut t (vVd f) i 0 else t) r

/-! ## Results -/

/-- What an instruction does to the registers and counts: saturations, NaNs to integers, whether LANE_RANGE or EMPTY
was set, and a summary pushed to the SQ. -/
structure VRes where
  regs    : VecRegs
  sat     : Nat := 0
  invalid : Nat := 0
  range   : Bool := false
  empty   : Bool := false
  push    : Option (Nat × Int) := none

/-- Elements in a lane of a type (R238). -/
def tyPer (ty : Nat) : Nat := if ty = 0x0 ∨ ty = 0xA then 1 else 2
def tyInt (ty : Nat) : Bool := ty == 0xA || ty == 0xB
def tyFmt (ty : Nat) : Fmt := (Fmt.ofCode (BitVec.ofNat 4 ty)).getD .fp32

/-- Element h of a lane, as a code. -/
def elemCode (ty : Nat) (w : W32) (h : Nat) : Nat := if tyPer ty = 1 then w.toNat else fld w (16 * h + 15) (16 * h)
def elemVal (ty : Nat) (w : W32) (h : Nat) : Val := (tyFmt ty).decode (elemCode ty w h)
def elemInt (ty : Nat) (w : W32) (h : Nat) : Int := signedOf (32 / tyPer ty) (elemCode ty w h)

/-- A lane from its element codes. -/
def packLane (ty : Nat) (cs : List Nat) : W32 :=
  match cs with
  | [a] => BitVec.ofNat 32 a
  | a :: b :: _ => if tyPer ty = 1 then BitVec.ofNat 32 a else BitVec.ofNat 32 (a % 2 ^ 16 + b % 2 ^ 16 * 2 ^ 16)
  | [] => 0

/-! ## Element-wise arithmetic (R256–R260) -/

/-- One element of an instruction: on values to a code of the format, and on integers of a width. -/
structure LaneOp where
  srcs : Nat
  flt  : Fmt → List Val → Nat
  int  : Nat → List Int → Int

/-- A value rounded to the element's format, overflowing to an infinity (R256, R260). -/
def roundTo (g : Fmt) (v : Val) : Nat := (encode g true v).code

/-- Operand j of lane i. -/
def srcLane (r : VecRegs) (f : BitVec 56) (i j : Nat) : W32 :=
  match j with
  | 0 => vGet r (vVa f) i
  | 1 => vbLane r f i
  | _ => vGet r (vVc f) i

/-- Element-wise arithmetic: a NaN from operands none of which is NaN sets INV (R260). -/
def arith (o : LaneOp) (r : VecRegs) (f : BitVec 56) : VRes :=
  let ty := vTy f
  let code := fun (i h : Nat) =>
    if tyInt ty then ofInt (32 / tyPer ty) (o.int (32 / tyPer ty) ((List.range o.srcs).map fun j => elemInt ty (srcLane r f i j) h))
    else o.flt (tyFmt ty) ((List.range o.srcs).map fun j => elemVal ty (srcLane r f i j) h)
  let inv := !tyInt ty && (lanes r).any fun i => laneActive r f i && (List.range (tyPer ty)).any fun h =>
    ((tyFmt ty).decode (code i h)).isNan && !((List.range o.srcs).any fun j => (elemVal ty (srcLane r f i j) h).isNan)
  let t := writeLanes r f fun i => packLane ty ((List.range (tyPer ty)).map (code i))
  { regs := setVflag t 4 inv }

def arg (xs : List Val) (i : Nat) : Val := xs.getD i .nan
def argI (xs : List Int) (i : Nat) : Int := xs.getD i 0

/-- An absolute value and a negation give a canonical NaN for a NaN (R104). -/
def Val.abs : Val → Val
  | .fin _ q => .fin false q
  | .inf _ => .inf false
  | .nan => .nan

def opAdd : LaneOp := { srcs := 2, flt := fun g xs => roundTo g ((arg xs 0).add (arg xs 1)), int := fun _ xs => argI xs 0 + argI xs 1 }
def opSub : LaneOp := { srcs := 2, flt := fun g xs => roundTo g ((arg xs 0).add (arg xs 1).neg), int := fun _ xs => argI xs 0 - argI xs 1 }
def opMul : LaneOp := { srcs := 2, flt := fun g xs => roundTo g ((arg xs 0).mul (arg xs 1)), int := fun _ xs => argI xs 0 * argI xs 1 }
def opFma : LaneOp :=
  { srcs := 3, flt := fun g xs => roundTo g (((arg xs 0).mul (arg xs 1)).add (arg xs 2)),
    int := fun _ xs => argI xs 0 * argI xs 1 + argI xs 2 }
def opFnma : LaneOp :=
  { srcs := 3, flt := fun g xs => roundTo g (((arg xs 0).mul (arg xs 1)).neg.add (arg xs 2)),
    int := fun _ xs => argI xs 2 - argI xs 0 * argI xs 1 }
def opMax : LaneOp := { srcs := 2, flt := fun g xs => roundTo g ((arg xs 0).max (arg xs 1)), int := fun _ xs => max (argI xs 0) (argI xs 1) }
def opMin : LaneOp := { srcs := 2, flt := fun g xs => roundTo g ((arg xs 0).min (arg xs 1)), int := fun _ xs => min (argI xs 0) (argI xs 1) }
def opAbs : LaneOp := { srcs := 1, flt := fun g xs => roundTo g (arg xs 0).abs, int := fun _ xs => |argI xs 0| }
def opNeg : LaneOp := { srcs := 1, flt := fun g xs => roundTo g (arg xs 0).neg, int := fun _ xs => -argI xs 0 }
def opDiv : LaneOp := { srcs := 2, flt := fun g xs => roundTo g ((arg xs 0).div (arg xs 1)), int := fun _ _ => 0 }
def opSqrt : LaneOp := { srcs := 1, flt := fun g xs => roundTo g (arg xs 0).sqrt, int := fun _ _ => 0 }
def opExp2 : LaneOp := { srcs := 1, flt := fun _ xs => (fexp2 (toF32 (arg xs 0))).toNat, int := fun _ _ => 0 }
def opLog2 : LaneOp := { srcs := 1, flt := fun _ xs => (flog2 (toF32 (arg xs 0))).toNat, int := fun _ _ => 0 }

/-- An integer held within w bits (R259). -/
def clampInt (w : Nat) (i : Int) : Int := max (-(2 ^ (w - 1) : Int)) (min i (2 ^ (w - 1) - 1))

def opAdds : LaneOp := { srcs := 2, flt := fun _ _ => 0, int := fun w xs => clampInt w (argI xs 0 + argI xs 1) }

/-- A bitwise or shift operation on the w-bit patterns. -/
def bitsOp (g : Nat → Nat → Nat → Nat) : LaneOp :=
  { srcs := 2, flt := fun _ _ => 0, int := fun w xs => (g w (ofInt w (argI xs 0)) (ofInt w (argI xs 1)) : Nat) }

def opAnd : LaneOp := bitsOp fun _ a b => a &&& b
def opOr : LaneOp := bitsOp fun _ a b => a ||| b
def opXor : LaneOp := bitsOp fun _ a b => a ^^^ b
def opShl : LaneOp := bitsOp fun w a b => a * 2 ^ (b % w)
def opShr : LaneOp := bitsOp fun w a b => a / 2 ^ (b % w)
def opSra : LaneOp :=
  { srcs := 2, flt := fun _ _ => 0, int := fun w xs => argI xs 0 / (2 ^ (ofInt w (argI xs 1) % w) : Nat) }

/-- VSEL (R255): every lane below VL is written. -/
def selectLanes (r : VecRegs) (f : BitVec 56) : VRes :=
  { regs := (lanes r).foldl (fun t i =>
      vPut t (vVd f) i (if bit (mGet r (vMsel f)) i then vGet r (vVa f) i else vbLane r f i)) r }

/-- VMVS, VMVV and VIOTA. -/
def moveToScalar (r : VecRegs) (f : BitVec 56) : VRes := { regs := sPut r (vSx f) ((vGet r (vVa f) 0).signExtend 64) }
def moveToLanes (r : VecRegs) (f : BitVec 56) : VRes := { regs := writeLanes r f fun _ => (sGet r (vSx f)).setWidth 32 }
def laneNumbers (r : VecRegs) (f : BitVec 56) : VRes := { regs := writeLanes r f fun i => BitVec.ofNat 32 i }

/-! ## Conversion (R261, R262) -/

/-- Active lanes converted to lists of encodings, with what they count. -/
def convertLanes (r : VecRegs) (f : BitVec 56) (conv : Nat → List Conv) (pack : List Nat → W32) : VRes :=
  let act := (lanes r).filter (laneActive r f)
  let sat := act.foldl (fun n i => n + ((conv i).filter (·.sat)).length) 0
  { regs := setVflag (writeLanes r f fun i => pack ((conv i).map (·.code))) 3 (sat != 0), sat := sat,
    invalid := act.foldl (fun n i => n + ((conv i).filter (·.invalid)).length) 0 }

def intVal (i : Int) : Val := Val.ofRat false (i : Rat)

def cvtLanes (r : VecRegs) (f : BitVec 56) : VRes :=
  convertLanes r f (fun i =>
    let x := vGet r (vVa f) i
    [if vSub f = 0 then encode .int32 (vIeee f) (f32 x) else encode .fp32 (vIeee f) (intVal x.toInt)]) (packLane 0)

/-- The source of VPACK: an FP32 or an INT32 lane by TY. -/
def packSrc (f : BitVec 56) (x : W32) : Val := if vTy f = 0xA then intVal x.toInt else f32 x

def packLanes (r : VecRegs) (f : BitVec 56) : VRes :=
  let g : Fmt := if vSub f = 0 then .bf16 else if vSub f = 1 then .fp16 else .int16
  convertLanes r f (fun i => [encode g (vIeee f) (packSrc f (vGet r (vVa f) i)), encode g (vIeee f) (packSrc f (vbLane r f i))])
    (packLane 1)

def unpackLanes (r : VecRegs) (f : BitVec 56) : VRes :=
  let ty := vTy f
  { regs := writeLanes r f fun i =>
      let x := vGet r (vVa f) i
      if ty = 0xB then BitVec.ofInt 32 (elemInt ty x (vSub f)) else toF32 (elemVal ty x (vSub f)) }

/-! ## Compares and mask logic (R254) -/

/-- A comparison of one lane: on values, and on integers. -/
structure CmpOp where
  flt : Val → Val → Bool
  int : Int → Int → Bool

def compareLanes (o : CmpOp) (r : VecRegs) (f : BitVec 56) : VRes :=
  { regs := mPut r (vMd f) (maskOf 256 fun i => laneActive r f i &&
      if tyInt (vTy f) then o.int (vGet r (vVa f) i).toInt (vbLane r f i).toInt
      else o.flt (f32 (vGet r (vVa f) i)) (f32 (vbLane r f i))) }

def cmpEq : CmpOp := { flt := Val.eqv, int := fun a b => decide (a = b) }
def cmpNe : CmpOp := { flt := fun a b => !a.eqv b, int := fun a b => decide (a ≠ b) }
def cmpLt : CmpOp := { flt := Val.lt, int := fun a b => decide (a < b) }
def cmpLe : CmpOp := { flt := fun a b => a.lt b || a.eqv b, int := fun a b => decide (a ≤ b) }
def cmpUn : CmpOp := { flt := fun a b => a.isNan || b.isNan, int := fun _ _ => false }

/-- Mask logic writes the bits below VL, and 0 beyond. -/
def maskLogic (g : VecRegs → BitVec 56 → Nat → Bool) (r : VecRegs) (f : BitVec 56) : VRes :=
  { regs := mPut r (vMd f) (maskOf 256 fun i => decide (i < r.vl.toNat) && g r f i) }

def maskA (r : VecRegs) (f : BitVec 56) (i : Nat) : Bool := bit (mGet r (vVa f)) i
def maskB (r : VecRegs) (f : BitVec 56) (i : Nat) : Bool := bit (mGet r (vVb f)) i

/-! ## Compression, permutation, slides (R276–R280) -/

/-- Selected lanes, rising. -/
def selected (r : VecRegs) (f : BitVec 56) : List Nat := (lanes r).filter (laneActive r f)

/-- VCOMPRESS and VCIDX: the values of the selected lanes packed low, 0 above them below VL. -/
def compressLanes (val : Nat → W32) (r : VecRegs) (f : BitVec 56) : VRes :=
  let sel := selected r f
  let t := (lanes r).foldl (fun t i => vPut t (vVd f) i (match sel[i]? with | some j => val j | none => 0)) r
  { regs := sPut t (vSx f) (BitVec.ofNat 64 sel.length) }

def expandLanes (r : VecRegs) (f : BitVec 56) : VRes :=
  let sel := selected r f
  { regs := writeLanes r f fun i => vGet r (vVa f) (sel.filter (· < i)).length }

/-- VPERM and VBCAST: nothing happens in a masked lane, whatever ZM (R279). -/
def permLanes (idx : Nat → Nat) (r : VecRegs) (f : BitVec 56) : VRes :=
  let sel := selected r f
  let hit := sel.any fun i => decide (r.vl.toNat ≤ idx i)
  let t := sel.foldl (fun t i => vPut t (vVd f) i (if idx i < r.vl.toNat then vGet r (vVa f) (idx i) else 0)) r
  { regs := setVflag t 0 hit, range := hit }

/-- VSLIDEUP and VSLIDEDN by s[SX], unsigned. -/
def slideLanes (up : Bool) (r : VecRegs) (f : BitVec 56) : VRes :=
  let d := (sGet r (vSx f)).toNat
  { regs := writeLanes r f fun i =>
      if up then (if d ≤ i then vGet r (vVa f) (i - d) else 0)
      else if i + d < r.vl.toNat then vGet r (vVa f) (i + d) else 0 }

/-! ## Reductions (R281–R285) -/

/-- One level of the tree: adjacent nodes combined, an absent input passes the other. -/
def treeLevel {α : Type} (node : α → α → α) : List (Option α) → List (Option α)
  | some a :: some b :: xs => some (node a b) :: treeLevel node xs
  | some a :: none :: xs => some a :: treeLevel node xs
  | none :: x :: xs => x :: treeLevel node xs
  | [x] => [x]
  | [] => []

def treeRun {α : Type} (node : α → α → α) : (levels : Nat) → List (Option α) → List (Option α)
  | 0, xs => xs
  | n + 1, xs => treeRun node n (treeLevel node xs)

/-- The root of the fixed pairwise tree over element positions: 8 levels, 9 for packed types. -/
def treeRoot {α : Type} (node : α → α → α) (xs : List (Option α)) : Option α := (treeRun node 9 xs).headD none

/-- Active element positions of VA, with the lane and half of each. -/
def positions (r : VecRegs) (f : BitVec 56) : List (Option (Nat × Nat)) :=
  let n := tyPer (vTy f)
  (List.range (256 * n)).map fun p => if laneActive r f (p / n) then some (p / n, p % n) else none

/-- The elements of a reduction by position. -/
def redVals (r : VecRegs) (f : BitVec 56) : List (Option Val) :=
  (positions r f).map fun o => o.map fun (i, h) => elemVal (vTy f) (vGet r (vVa f) i) h
def redInts (r : VecRegs) (f : BitVec 56) : List (Option Int) :=
  (positions r f).map fun o => o.map fun (i, h) => elemInt (vTy f) (vGet r (vVa f) i) h

/-- A result that lane 0 and s[SX] take (R283): an FP32 value, or an integer. -/
inductive RedOut where
  | flt (v : Val)
  | int (i : Int)

/-- The destination of a reduction: lane 0 whatever mask and VL, and s[SX]. An integer sum saturates in lane 0. -/
def redWrite (r : VecRegs) (f : BitVec 56) (o : RedOut) (inv empty sum : Bool) : VRes :=
  let r := setVflag (setVflag r 4 inv) 1 empty
  match o with
  | .flt v => { regs := sPut (vPut r (vVd f) 0 (toF32 v)) (vSx f) ((toF32 v).setWidth 64), empty := empty }
  | .int i =>
    let l := if sum then clampInt 32 i else i
    { regs := sPut (vPut r (vVd f) 0 (BitVec.ofInt 32 l)) (vSx f) (BitVec.ofInt 64 i), empty := empty,
      sat := if l = i then 0 else 1 }

/-- A floating-point node, rounded to FP32: the value and whether an operation turned numbers into a NaN. -/
def fltNode (g : Val → Val → Val) (a b : Val × Bool) : Val × Bool :=
  let v := f32 (toF32 (g a.1 b.1))
  (v, a.2 || b.2 || (v.isNan && !a.1.isNan && !b.1.isNan))

/-- A floating-point reduction with the result for no element, finished by `fin` on the number of elements. -/
def redFlt (node : Val → Val → Val) (none' : Val) (fin : Val → Nat → Val) (r : VecRegs) (f : BitVec 56) : VRes :=
  let xs := redVals r f
  match treeRoot (fltNode node) (xs.map fun o => o.map fun v => (v, false)) with
  | none => redWrite r f (.flt none') false true false
  | some (v, inv) =>
    let w := fin v (xs.filter Option.isSome).length
    redWrite r f (.flt w) (inv || (w.isNan && !v.isNan)) false false

def redInt (node : Int → Int → Int) (none' : Int) (sum : Bool) (r : VecRegs) (f : BitVec 56) : VRes :=
  match treeRoot node (redInts r f) with
  | none => redWrite r f (.int none') false true sum
  | some i => redWrite r f (.int i) false false sum

/-- VRSUM, VRMAX and VRMIN by type. -/
def redSum (r : VecRegs) (f : BitVec 56) : VRes :=
  if tyInt (vTy f) then redInt (· + ·) 0 true r f else redFlt Val.add (Val.zero false) (fun v _ => v) r f
def redProd (r : VecRegs) (f : BitVec 56) : VRes := redFlt Val.mul (.fin false 1) (fun v _ => v) r f
def redMean (r : VecRegs) (f : BitVec 56) : VRes :=
  redFlt Val.add .nan (fun v n => f32 (toF32 (v.div (.fin false (n : Rat))))) r f
def redMax (r : VecRegs) (f : BitVec 56) : VRes :=
  if tyInt (vTy f) then redInt max (-(2 ^ (32 / tyPer (vTy f) - 1) : Int)) false r f
  else redFlt Val.max (.inf true) (fun v _ => v) r f
def redMin (r : VecRegs) (f : BitVec 56) : VRes :=
  if tyInt (vTy f) then redInt min (2 ^ (32 / tyPer (vTy f) - 1) - 1) false r f
  else redFlt Val.min (.inf false) (fun v _ => v) r f

/-- Which of two values is the better one by R141, the lower position first; a NaN gives way, and max(−0, +0) is +0. -/
def betterVal (big : Bool) (a b : Val × Nat) : Val × Nat :=
  if b.1.isNan then a
  else if a.1.isNan then b
  else
    let m := if big then a.1.max b.1 else a.1.min b.1
    if m = a.1 then a else b
def betterInt (big : Bool) (a b : Int × Nat) : Int × Nat := if (if big then a.1 < b.1 else b.1 < a.1) then b else a

/-- Elements with their positions. -/
def withPos {α : Type} (xs : List (Option α)) : List (Option (α × Nat)) :=
  (xs.zip (List.range xs.length)).map fun (o, p) => o.map fun v => (v, p)

/-- VRAMAX and VRAMIN: the position, −1 with no element. -/
def redIndex (big : Bool) (r : VecRegs) (f : BitVec 56) : VRes :=
  let root := if tyInt (vTy f) then (treeRoot (betterInt big) (withPos (redInts r f))).map (·.2)
    else (treeRoot (betterVal big) (withPos (redVals r f))).map (·.2)
  match root with
  | none => redWrite r f (.int (-1)) false true false
  | some p => redWrite r f (.int (p : Nat)) false false false

/-- VRCNT: elements that are no zero of either sign. -/
def redCount (r : VecRegs) (f : BitVec 56) : VRes :=
  let xs := if tyInt (vTy f) then (redInts r f).map fun o => o.map fun i => i != 0 else (redVals r f).map fun o => o.map fun v => !v.isZero
  let empty := !xs.any Option.isSome
  redWrite r f (.int ((xs.filter (· == some true)).length : Nat)) false empty false

/-! ## Summaries (R287–R289) -/

/-- A summary over the bits below VL, each ANDed with the governing mask where MEN is 1 (R287); `none'` where no lane
is active (R288). -/
def summarize (kind : Nat) (g : List Bool → Int) (none' : Int) (r : VecRegs) (f : BitVec 56) : VRes :=
  let empty := !(lanes r).any (laneActive r f)
  let bits := (lanes r).map fun i => bit (mGet r (vVa f)) i && (!vMen f || bit (mGet r (vMsel f)) i)
  let v := if empty then none' else g bits
  { regs := setVflag (sPut r (vSx f) (BitVec.ofInt 64 v)) 1 empty, empty := empty,
    push := if bit f 16 then some (kind, v) else none }

def sumAny (bs : List Bool) : Int := if bs.any id then 1 else 0
def sumAll (bs : List Bool) : Int := if bs.all id then 1 else 0
def sumCount (bs : List Bool) : Int := ((bs.filter id).length : Nat)
def sumFirst (bs : List Bool) : Int := match bs.findIdx? id with | some i => (i : Nat) | none => -1

/-! ## Scalar instructions -/

/-- VSETVL with the limit of the unit: 256 lanes, 64 on a press (R331). -/
def setVl (limit : Nat) (r : VecRegs) (f : BitVec 56) : VRes :=
  let n := min (sGet r (sSa f)).toNat limit
  { regs := sPut { r with vl := BitVec.ofNat 9 n } (sSd f) (BitVec.ofNat 64 n) }
def scalarImm (r : VecRegs) (f : BitVec 56) : VRes := { regs := sPut r (sSd f) (BitVec.ofInt 64 (sImm f)) }
def scalarAdd (r : VecRegs) (f : BitVec 56) : VRes :=
  { regs := sPut r (sSd f) (sGet r (sSa f) + sGet r (sSb f) + BitVec.ofInt 64 (sImm f)) }
def scalarMul (r : VecRegs) (f : BitVec 56) : VRes := { regs := sPut r (sSd f) (sGet r (sSa f) * sGet r (sSb f)) }
def readFlags (r : VecRegs) (f : BitVec 56) : VRes := { regs := sPut r (sSd f) (r.flags.setWidth 64) }
/-- VFLAGS bits cleared; a flag that an instruction sets in the same clock reads 1 (R17, R291). -/
def clearVflags (set : BitVec 8) (r : VecRegs) (f : BitVec 56) : VRes :=
  { regs := { r with flags := (r.flags &&& ~~~(BitVec.ofInt 8 (sImm f))) ||| (set &&& 0x3F) } }
def keepRegs (r : VecRegs) (_ : BitVec 56) : VRes := { regs := r }

/-! ## Program flow (R245, R246); instructions lie `w` apart -/

/-- Where the program goes on from `pc`: a loop whose last instruction was executed starts again or ends. -/
def loopNext (w : Nat) : (fuel : Nat) → List Loop → (pc : Nat) → List Loop × Nat
  | 0, ls, pc => (ls, pc)
  | _ + 1, [], pc => ([], pc)
  | fuel + 1, l :: ls, pc =>
    if pc ≠ l.last + w then (l :: ls, pc)
    else if 1 < l.left.toNat then ({ l with left := l.left - 1 } :: ls, l.start)
    else loopNext w fuel ls pc

/-- The registers and the program counter after an instruction at pc. -/
def advance (w : Nat) (r : VecRegs) (pc : Nat) : VecRegs × Nat :=
  let (ls, pc') := loopNext w 3 r.loops (pc + w)
  ({ r with loops := ls }, pc')

/-- VLOOP: the count is read once; 0 skips the body. -/
def enterLoop (w : Nat) (r : VecRegs) (f : BitVec 56) (pc : Nat) : VecRegs × Nat :=
  let n := sGet r (sSa f)
  if n = 0 then
    let (ls, pc') := loopNext w 3 r.loops (pc + w * (1 + sN f))
    ({ r with loops := ls }, pc')
  else ({ r with loops := { start := pc + w, last := pc + w * sN f, left := n } :: r.loops }, pc + w)

/-! ## Counting for the partition (R142, R293) -/

def countVec (s : State) (k : Pt) (v : VRes) : State :=
  s.count k fun c =>
    { c with saturate := satAdd c.saturate v.sat, invalidConv := satAdd c.invalidConv v.invalid,
             laneRange := satAdd c.laneRange v.range.toNat, emptyReduce := satAdd c.emptyReduce v.empty.toNat }

/-! ## Work items of a VE (R240–R244, R274, R292) -/

def State.modVe (s : State) (c : Tc) (f : Ve → Ve) : State := s.modCluster c fun t => { t with ve := f t.ve }

/-- The next queued work item starts: VL, VFLAGS, s1 to s15 from the argument block, and the cache of ICINV (R242,
R244). Work items are numbered from 0 (notes/assumptions/18.md, DEDUCED). -/
def startVe (s : State) (c : Tc) : State :=
  let t := s.clusters[c]
  match t.ve.run, t.ve.queue with
  | none, i :: rest =>
    let num := fun j => BitVec.ofNat 64 (spadNum t s.fresh (i.argBase + 8 * j) 8)
    let s := spadTouched s c [(i.argBase + 8, 120)]
    s.modVe c fun v =>
      let regs := { v.regs with vl := i.vl, flags := 0, loops := [], s := Vector.ofFn fun (j : Fin 16) => if j.1 = 0 then 0 else num j.1 }
      { v with regs := regs, run := some { i with number := v.items }, queue := rest, items := v.items + 1,
               icache := if i.icinv then [] else v.icache, loadWait := none }
  | _, _ => s

/-- The running work item leaves the VE; its flags can be read until the next one completes. -/
def leaveVe (s : State) (c : Tc) : State :=
  s.modVe c fun v => { v with run := none, flagsLast := v.regs.flags, loadWait := none }

/-- VEND (R243): the work item completes. -/
def finishVe (s : State) (k : Pt) (c : Tc) (i : VeItem) : State :=
  let s := itemSignal (leaveVe s c) k c i.signal i.syncObj.toNat i.signalN.toNat
  startVe (itemEnded s c i.job) c

/-- A fault ends the work item with VE_FAULT (R274). -/
def faultVe (s : State) (k : Pt) (c : Tc) (i : VeItem) (kind lane : Nat) : State :=
  let s := (leaveVe s c).modVe c fun v =>
    { v with faultKind := BitVec.ofNat 8 kind, faultPc := BitVec.ofNat 32 i.pc, faultLane := BitVec.ofNat 9 lane }
  let s := s.count k fun n => { n with veFaults := satAdd n.veFaults 1 }
  let s := notePart s k 0x32 c.1 lane (kind * 2 ^ 28 + i.pc % 2 ^ 25)
  startVe (itemFailed s c i.job 0x0C) c

/-! ## Fetch (R244, R513) -/

/-- What a fetch gives: the kind of a fault, or 0 and the word; the cache after it, and whether its line came from the scratchpad. -/
structure Fetched where
  fault : Nat
  word  : W64
  cache : List (Nat × List PByte)
  miss  : Bool
deriving DecidableEq, Repr

/-- The instruction at pc: from a code line only in a confidential partition; from the cache where its line lies there,
else from the scratchpad, with the line taken into the cache of 128 lines in place of the one used least recently
(notes/assumptions/8.md, DESIGN CHOICE). A poisoned word faults, whichever of the two it comes from. -/
def fetchVe (c : Cluster) (conf : Bool) (pc : Nat) : Fetched :=
  let line := pc / 128 * 128
  let cached := c.ve.icache.find? fun e => e.1 == line
  let got := (cached.map (·.2)).getD (spadPeek c line 128)
  let word := (got.drop (pc - line)).take 8
  if conf && !Sparse.get false c.code (pc / 128) then ⟨4, 0, c.ve.icache, false⟩
  else if spadEnd < pc + 8 then ⟨1, 0, c.ve.icache, false⟩
  else
    ⟨if word.any (·.2) then 3 else 0, BitVec.ofNat 64 (leNat (word.map (·.1))),
      ((line, got) :: c.ve.icache.filter fun x => x.1 != line).take 128, cached.isNone⟩

/-- Does a line of a scratchpad hold no error that its read would find? -/
def lineSound (c : Cluster) (line : Nat) : Bool :=
  !(wordsOf line 128).any fun w => Sparse.get false c.poisonNew w || Sparse.get false c.soft w

/-- The line of a fetch is taken into the cache; one that comes from the scratchpad is read there (R156, R244). -/
def takeLine (s : State) (c : Tc) (pc : Nat) (x : Fetched) : State :=
  (if x.miss && !lineSound s.clusters[c] (pc / 128 * 128) then notePoisonReads s c (pc / 128 * 128) 128 else s).modVe c fun v =>
    { v with icache := x.cache }

/-- The VE of cluster c executes an instruction: the word at the program counter must be the one that the command
names; where the fetch faults, or the word is no instruction, the fault happens in its place. -/
def veStep (op : Nat) (body : State → Pt → VeItem → State) (c : Tc) (f : BitVec 56) (s : State) : State :=
  let t := s.clusters[c]
  match t.part, t.ve.run with
  | some k, some i =>
    let x := fetchVe t s.parts[k].conf i.pc
    let done := fun (u : State) => if x.miss && !lineSound t (i.pc / 128 * 128) then spadFences s u else u
    if t.fenced then s
    else if x.fault ≠ 0 then done (faultVe (takeLine s c i.pc x) k c i x.fault 0)
    else if (opClass (fld x.word 63 56)).isNone then done (faultVe (takeLine s c i.pc x) k c i 4 0)
    else if x.word ≠ vWord op f then s
    else
      let s := takeLine s c i.pc x
      done (if veLegal op f && !(op == 0x03 && decide (2 ≤ t.ve.regs.loops.length)) then body s k i else faultVe s k c i 4 0)
  | _, _ => s

/-- The running work item goes on after an instruction that left these registers. -/
def veGoOn (s : State) (c : Tc) (i : VeItem) (r : VecRegs) : State :=
  let (r', pc) := advance 8 r i.pc
  s.modVe c fun v => { v with regs := r', run := some { i with pc := pc } }

/-- An instruction on registers only. A summary pushed to a full queue stalls the VE (R289). -/
def veRegs (fn : VecRegs → BitVec 56 → VRes) (f : BitVec 56) (c : Tc) (s : State) (k : Pt) (i : VeItem) : State :=
  let v := fn s.clusters[c].ve.regs f
  match v.push with
  | none => countVec (veGoOn s c i v.regs) k v
  | some (kind, x) =>
    let e := BitVec.ofNat 64 (2 ^ 63 + kind * 2 ^ 60 + i.number.toNat * 2 ^ 32 + ofInt 32 x)
    if 16 ≤ s.clusters[c].ve.summary.length then s
    else countVec ((veGoOn s c i v.regs).modVe c fun u => { u with summary := u.summary ++ [e] }) k v

/-- VLOOP on a VE. -/
def veLoop (f : BitVec 56) (c : Tc) (s : State) (_ : Pt) (i : VeItem) : State :=
  let (r, pc) := enterLoop 8 s.clusters[c].ve.regs f i.pc
  s.modVe c fun v => { v with regs := r, run := some { i with pc := pc } }

/-! ## Memory instructions of a VE (R263–R273) -/

/-- Bits of one lane's data: two elements for VLDP and VSTP. -/
def laneBits (op : Nat) (f : BitVec 56) : Nat := if op = 0x81 ∨ op = 0x89 then 32 else tyWidth (vTy f)

/-- The bit address of lane i (R264). -/
def laneAddr (op : Nat) (r : VecRegs) (f : BitVec 56) (i : Nat) : Int :=
  let base := (sGet r (mSbase f)).toInt
  if op = 0x83 ∨ op = 0x8B then 8 * (base + (vGet r (vVa f) i).toInt)
  else if mSstr f ≠ 0 then 8 * (base + (i : Int) * (sGet r (mSstr f)).toInt)
  else 8 * base + ((i * laneBits op f : Nat) : Int)

/-- The address of the scale of block b (R265). -/
def scaleAddr (r : VecRegs) (f : BitVec 56) (b : Nat) : Int := (sGet r (mSscale f)).toInt + ((b * mScstr f : Nat) : Int)

/-- Is any byte of a range in a poisoned word? -/
def spadPoisoned (c : Cluster) (a n : Nat) : Bool := (wordsOf a n).any fun w => Sparse.get false c.poison w

/-- The kind of fault that an access of n bits at bit address b raises in a lane, 0 for none (R272); `ew` is the
element width that alignment goes by. -/
def accessFault (c : Cluster) (load : Bool) (b : Int) (n ew : Nat) : Nat :=
  let lo := b / 8
  let hi := (b + n - 1) / 8
  if lo < 0 ∨ (spadEnd : Int) ≤ hi then 1
  else if (ew = 16 ∨ ew = 32) ∧ lo % ((ew / 8 : Nat) : Int) ≠ 0 then 2
  else if load && spadPoisoned c lo.toNat (hi - lo + 1).toNat then 3
  else 0

/-- Faults of the active lanes in increasing lane order, each with its kind and the bytes it names: the element, and
the block's scale at the first active lane of the block. -/
def memFaults (op : Nat) (c : Cluster) (r : VecRegs) (f : BitVec 56) : List (Nat × Nat × Nat × Nat) :=
  let load := decide (op < 0x88)
  let act := selected r f
  act.flatMap fun i =>
    let b := laneAddr op r f i
    let n := laneBits op f
    let e := accessFault c load b n (tyWidth (vTy f))
    let here := if e = 0 then [] else [(i, e, (b / 8).toNat, (n + 7) / 8)]
    let first := blockScaled op f && !(act.any fun j => decide (j < i) && j / mBsz f == i / mBsz f)
    let a := scaleAddr r f (i / mBsz f)
    let se := if first then accessFault c load (8 * a) 8 8 else 0
    here ++ (if se = 0 then [] else [(i, se, a.toNat, 1)])

/-- The lane as a load delivers it (R263, R266): the bits, and whether the conversion saturated. -/
def loadLane (op : Nat) (c : Cluster) (r : VecRegs) (f : BitVec 56) (i : Nat) : W32 × Bool :=
  let b := (laneAddr op r f i).toNat
  let code := spadBits c 0 0 b (laneBits op f)
  let g := tyFmt (vTy f)
  if op = 0x81 then (BitVec.ofNat 32 code, false)
  else if op = 0x82 then (if g.isInt then BitVec.ofInt 32 (signedOf g.width code) else BitVec.ofNat 32 code, false)
  else if g.narrow then
    let scale := (mSfmt f).bind fun sf => sf.value (spadByte c 0 (scaleAddr r f (i / mBsz f)).toNat).toNat
    let v := encode .fp32 (mIeee f) (decodeScaled g code scale)
    (BitVec.ofNat 32 v.code, v.sat)
  else if g.isInt then (BitVec.ofInt 32 (signedOf g.width code), false)
  else (toF32 (g.decode code), false)

/-- Is the code of lane i not the mask code (R269)? Of two elements neither may be it. -/
def notMaskCode (op : Nat) (c : Cluster) (r : VecRegs) (f : BitVec 56) (i : Nat) : Bool :=
  let g := tyFmt (vTy f)
  let b := (laneAddr op r f i).toNat
  (List.range (laneBits op f / g.width)).all fun h => spadBits c 0 0 (b + h * g.width) g.width != g.maskCode

/-- A load that does not fault. -/
def veLoadRegs (op : Nat) (c : Cluster) (f : BitVec 56) : VRes :=
  let r := c.ve.regs
  let out := fun i => loadLane op c r f i
  let sat := ((selected r f).filter fun i => (out i).2).length
  let t := writeLanes r f fun i => (out i).1
  let t := if mMcode f then mPut t (vMsel f) (maskOf 256 fun i => decide (i < r.vl.toNat) && notMaskCode op c r f i) else t
  { regs := setVflag t 3 (sat != 0), sat := sat }

/-- The passes accepted and not drained whose tiles lie in the ranges. -/
def passesOn (p : Partition) (c : Cluster) (ranges : List (Nat × Nat)) : List MeItem :=
  (openPasses c).filter fun i =>
    let (a, n) := tileRange p i.long i.tile
    ranges.any fun (b, m) => overlaps a n b m

/-- The number of the last pass that a load of accumulator tiles must wait for, none where there is none (R271). -/
def drainsFor (p : Partition) (c : Cluster) (ranges : List (Nat × Nat)) : Option Nat := ((passesOn p c ranges).map (·.no)).getLast?

/-- Byte ranges that the active lanes touch. -/
def laneRanges (op : Nat) (r : VecRegs) (f : BitVec 56) : List (Nat × Nat) :=
  (selected r f).map fun i =>
    let b := laneAddr op r f i
    ((b / 8).toNat, ((b + laneBits op f - 1) / 8 - b / 8 + 1).toNat)

/-- A load on a VE: it waits for the drains that the ME had accepted when it issued (R271). -/
def veLoad (op : Nat) (f : BitVec 56) (c : Tc) (s : State) (k : Pt) (i : VeItem) : State :=
  let t := s.clusters[c]
  match (memFaults op t t.ve.regs f).head? with
  | some (lane, kind, a, n) => faultVe (if kind = 3 then notePoisonReads s c a n else s) k c i kind lane
  | none =>
    let ranges := laneRanges op t.ve.regs f
    let wait := match t.ve.loadWait with
      | some n => if (passesOn s.parts[k] t ranges).any fun x => decide (x.no ≤ n) then some n else none
      | none => drainsFor s.parts[k] t ranges
    match wait with
    | some n => s.modVe c fun v => { v with loadWait := some n }
    | none =>
      let v := veLoadRegs op t f
      countVec ((veGoOn (noteCleanReads s c ranges) c i v.regs).modVe c fun u => { u with loadWait := none }) k v

/-! ### Stores -/

/-- Bits set in a byte overlay of a scratchpad. -/
def overlayBits (c : Cluster) (m : Sparse (Option Byte)) (b w code : Nat) : Sparse (Option Byte) :=
  (List.range ((b % 8 + w + 7) / 8)).foldl (fun m j =>
    let a := b / 8 + j
    let old := (Sparse.get none m a).getD (c.spad.read a)
    let word := (code % 2 ^ w) * 2 ^ (b % 8)
    let cover := (2 ^ w - 1) * 2 ^ (b % 8)
    let byte := word / 2 ^ (8 * j) % 256
    let mask := cover / 2 ^ (8 * j) % 256
    Sparse.put m a (some (BitVec.ofNat 8 ((old.toNat &&& (255 - mask)) ||| byte)))) m

/-- Runs of consecutive addresses of an overlay. -/
def overlayRuns : Sparse (Option Byte) → List (Nat × Bytes)
  | [] => []
  | (a, b) :: m =>
    match overlayRuns m with
    | (a', bs) :: rest => if a' = a + 1 then (a, b.getD 0 :: bs) :: rest else (a, [b.getD 0]) :: (a', bs) :: rest
    | [] => [(a, [b.getD 0])]

/-- What a store writes: the overlay, the tally, whether it stored a non-finite value is in the tally, blocks skipped
and whether the write raised OVERFLOW. -/
structure StoreOut where
  bytes   : Sparse (Option Byte)
  tally   : Tally
  skipped : Nat

/-- A block-scaled store (R267): whole blocks only. -/
def storeBlocks (op : Nat) (c : Cluster) (r : VecRegs) (f : BitVec 56) : StoreOut :=
  let g := tyFmt (vTy f)
  let bsz := mBsz f
  let nb := (r.vl.toNat + bsz - 1) / bsz
  (List.range nb).foldl (fun o b =>
    let ls := (List.range bsz).map (b * bsz + ·)
    if !(ls.any (laneActive r f)) then o
    else if !(ls.all (laneActive r f)) then { o with skipped := o.skipped + 1 }
    else match mSfmt f with
      | none => o
      | some sf =>
        let m := if op = 0x8C then ScaleMode.given (fld (vGet r (vVb f) b) 7 0) else .onWrite
        let e := encodeBlock g sf m (mIeee f) (ls.map fun i => some (f32 (vGet r (vVd f) i)))
        let bytes := (ls.zip e.codes).foldl (fun m (i, x) => overlayBits c m (laneAddr op r f i).toNat g.width x) o.bytes
        let bytes := overlayBits c bytes (8 * (scaleAddr r f b).toNat) 8 e.scale
        { bytes := bytes, tally := o.tally.add { e.tally with overflow := e.tally.overflow && op != 0x8C }, skipped := o.skipped })
    { bytes := [], tally := Tally.zero, skipped := 0 }

/-- What one lane of a store without block scale writes (R263): the code, and its tally. -/
def storeCode (op : Nat) (f : BitVec 56) (x : W32) : Nat × Tally :=
  let g := tyFmt (vTy f)
  let odd := fun (vs : List Val) => { Tally.zero with nonfin := (vs.filter fun v => !v.isFinite).length }
  if op = 0x89 then (x.toNat, if g.isInt then Tally.zero else odd [g.decode (fld x 15 0), g.decode (fld x 31 16)])
  else if op = 0x8A then (x.toNat % 2 ^ g.width, if g.isInt then Tally.zero else odd [g.decode (x.toNat % 2 ^ g.width)])
  else
    let v := if g.isInt then intVal x.toInt else f32 x
    let e := encode g (mIeee f) v
    (e.code, { convTally e v false false with overflow := false })

def storeLanes (op : Nat) (c : Cluster) (r : VecRegs) (f : BitVec 56) : StoreOut :=
  (selected r f).foldl (fun o i =>
    let (code, t) := storeCode op f (vGet r (vVd f) i)
    { o with bytes := overlayBits c o.bytes (laneAddr op r f i).toNat (laneBits op f) code, tally := o.tally.add t })
    { bytes := [], tally := Tally.zero, skipped := 0 }

/-- The unit of a write takes its flush counts and its formats (R140, R312). -/
def noteUnitWrite (s : State) (k : Pt) (unit : Option W32) (g : Fmt) (t : Tally) : State :=
  noteWriteOut s k unit (decide (g = .fp32)) (if g.narrow then t.flushed else 0) (if g.narrow then t.nonzero else 0)

/-- A store on a VE: flags SAT, BLOCK_MASK and NF, counts, the non-finite bit, and an OVERFLOW event of a scale that
the device chose (R136, R262, R267, R268). -/
def veStore (op : Nat) (f : BitVec 56) (c : Tc) (s : State) (k : Pt) (i : VeItem) : State :=
  let t := s.clusters[c]
  let r := t.ve.regs
  match (memFaults op t r f).head? with
  | some (lane, kind, _, _) => faultVe s k c i kind lane
  | none =>
    let o := if blockScaled op f then storeBlocks op t r f else storeLanes op t r f
    let r' := setVflag (setVflag (setVflag r 3 (o.tally.sat != 0)) 2 (o.skipped != 0)) 5 (o.tally.nonfin != 0)
    let s := s.modCluster c fun t => (overlayRuns o.bytes).foldl (fun t (a, bs) => spadWrite t a (clean bs) false) t
    let s := veGoOn s c i r'
    let s := countTally s k o.tally
    let s := s.count k fun n => { n with blockMask := satAdd n.blockMask o.skipped }
    let s := noteUnitWrite s k i.unit (tyFmt (vTy f)) o.tally
    let s := if o.tally.nonfin = 0 then s else setNonfinite s k c.1 0x10
    match i.unit, o.tally.overflow with
    | some m, true => raiseCause s k m 0x02 c.1 0 0
    | _, _ => s

/-! ## VEXEC and the summary queue -/

/-- Is a VEXEC malformed (R240)? Its status is bad-instruction (notes/assumptions/18.md, DEDUCED). -/
def vexecBad (w : MatWords) : Bool :=
  fld w.w0 63 56 != 0x20 || fld w.w0 26 14 != 0 || fld w.w0 11 0 != 0 || fld w.w1 63 25 != 0 || fld w.w2 63 32 != 0 ||
  fld w.w2 1 0 != 0 || fld w.w3 63 25 != 0 || decide (256 < fld w.w0 35 27) || fld w.w1 24 0 % 8 != 0 ||
  fld w.w3 24 0 % 128 != 0 || decide (spadEnd < fld w.w3 24 0 + 128)

/-- A VEXEC enters the VE's queue. -/
def dispatchVexec (s : State) (c : Tc) (b : SqJob) (w : MatWords) : State :=
  if vexecBad w then itemFailed s c b.id 0x06
  else
    let i : VeItem :=
      { pc := fld w.w1 24 0, vl := BitVec.ofNat 9 (fld w.w0 35 27), argBase := fld w.w3 24 0, icinv := bit w.w0 12,
        signal := bit w.w0 13, syncObj := BitVec.ofNat 14 (fld w.w2 31 18), signalN := BitVec.ofNat 16 (fld w.w2 17 2),
        budget := BitVec.ofNat 20 w.budget, number := 0, job := b.id, unit := b.unit }
    startVe (itemDispatched (s.modVe c fun v => { v with queue := v.queue ++ [i] }) c b.id) c

/-- VEXEC: the SQ of cluster c dispatches a VE work item (R52–R55, R240, R241). -/
def execVexec (c : Tc) (w : MatWords) (t : SqTime) (s : State) : Out :=
  .next (match sqReady s c with
    | none => s
    | some (k, b) =>
      if sqFetchBad s k c t.pc then settle (sqFetchFault s k c b.id)
      else if !s.clusters[c].heldWork.isEmpty || decide (16 ≤ s.clusters[c].ve.queue.length) then s
      else if badBudget s w.budget then settle (itemFailed s c b.id 0x04)
      else if !fitsClocks s w.budget t.clocksLeft then
        s.modCluster c fun x => { x with heldWork := x.heldWork ++ [{ isVe := true, w := w, budget := BitVec.ofNat 20 w.budget, job := b.id }] }
      else settleFrom s (dispatchVexec s c b w))

/-- VSUMQ: the SQ of cluster c reads the summary queue (R290). The read of an empty queue returns VALID 0 where the VE
has no work item, and stalls the SQ otherwise. -/
def execVsumq (x : SumqIn) (s : State) : Out :=
  let c := x.c
  let t := s.clusters[c]
  .next (match sqReady s c with
    | none => s
    | some (k, b) => if sqFetchBad s k c x.pc then settle (sqFetchFault s k c b.id) else match t.ve.summary with
      | e :: rest => settle (sqIssued (s.modVe c fun v => { v with summary := rest, sumOut := e }) c b.id)
      | [] => if t.ve.run.isNone && t.ve.queue.isEmpty then settle (sqIssued (s.modVe c fun v => { v with sumOut := 0 }) c b.id) else s)

end Sys2Proof.Machine
end

