-- ==== Sys2Proof/Machine/Press.lean ====
section
/-! DEFINITION. The press: images and region descriptors, streams, stochastic rounding, VFACT, grains, passes, faults and
the takeover by the cellar press (spec/08_press.md R330–R379). -/

namespace Sys2Proof.Machine

open Sys2Proof

/-! ## Fields of a press instruction (R332) -/

def pStr (f : BitVec 56) : Nat := fld f 31 28
def pStr2 (f : BitVec 56) : Nat := fld f 27 24
def pSl (f : BitVec 56) : Nat := fld f 23 20
def pSt (f : BitVec 56) : Nat := fld f 19 16
def pMd (f : BitVec 56) : Nat := fld f 15 13
def pSub (f : BitVec 56) : Nat := fld f 12 10

/-- The opcode and the fields of a stored instruction. -/
def insOp (w : W64) : Nat := fld w 63 56
def insF (w : W64) : BitVec 56 := w.setWidth 56

/-! ## Images (R334, R335) -/

/-- An instruction that a press executes, by its encoding alone (R331, R332). -/
def psLegal (w : W64) : Bool :=
  let op := insOp w
  let f := insF w
  match opClass op with
  | some .scalar => encLegal op f
  | some .arith => encLegal op f && !(0x70 ≤ op && op ≤ 0x73)
  | some .press =>
    fld f 9 0 == 0 && decide (vTy f ≤ 0xB) && decide (pStr f ≤ 5) && decide (pStr2 f ≤ 5) &&
    !([0x8D, 0x90, 0x98, 0x9E].contains op && vMen f) && !(op == 0x91 && decide (3 ≤ pSub f)) &&
    !(op == 0x9E && decide (2 ≤ pSub f))
  | _ => false

/-- Does an instruction write a scalar register (R344)? -/
def writesScalar (w : W64) : Bool :=
  let op := insOp w
  [0x02, 0x04, 0x05, 0x06, 0x07, 0x09].contains op ||
  (((0x60 ≤ op && op ≤ 0x67) || op == 0x50 || op == 0x52) && vSx (insF w) != 0)

/-- Stage units of an instruction (R345). -/
def stageUnits (w : W64) : Nat :=
  let op := insOp w
  if opClass op = some .arith then (if 0x19 ≤ op ∧ op ≤ 0x1C then 2 else 1) else 0

/-- Instructions from index i on, up to and without the first with opcode op, with the index of that one. -/
def takeTo (op : Nat) : (i : Nat) → List W64 → Option (List (Nat × W64) × Nat)
  | _, [] => none
  | i, w :: ws => if insOp w = op then some ([], i) else (takeTo op (i + 1) ws).map fun (l, j) => ((i, w) :: l, j)

/-- The prologue of a region and its body without VEND, with the index of PBODY and that of VEND. -/
def regProgram (im : List W64) (d : List W64) : Option (List (Nat × W64) × Nat × List (Nat × W64) × Nat) :=
  match takeTo 0x9C (regEntry d) (im.drop (regEntry d)) with
  | none => none
  | some (pro, i) =>
    match takeTo 0x01 (i + 1) (im.drop (i + 1)) with
    | none => none
    | some (body, j) => if pro.any (fun x => insOp x.2 == 0x01) || body.any (fun x => insOp x.2 == 0x9C) then none else some (pro, i, body, j)

/-- Loops of a piece of program stay within it and nest at most two deep (R246). -/
def loopsOk (last : Nat) : (ends : List Nat) → List (Nat × W64) → Bool
  | _, [] => true
  | ends, (i, w) :: ws =>
    let ends := ends.filter (i ≤ ·)
    if insOp w = 0x03 then
      decide (ends.length < 2) && decide (i + sN (insF w) < last) && loopsOk last ((i + sN (insF w)) :: ends) ws
    else loopsOk last ends ws

/-- A stream instruction names streams that the region has and may use (R340, R366, R368). -/
def streamUseOk (d : List W64) (w : W64) : Bool :=
  let op := insOp w
  let f := insF w
  let has := fun (i : Nat) => decide (i < regNstr d)
  let wr := fun (i : Nat) => has i && strWrite (strWord d i)
  match op with
  | 0x90 => has (pStr f)
  | 0x91 => regKind d == 1
  | 0x98 => wr (pStr f)
  | 0x8D => wr (pStr f) && strScaled (strWord d (pStr f))
  | 0x9E => regKind d == 2 && has (pStr f) && wr (pStr2 f) && strMat (strWord d (pStr f)) && strMat (strWord d (pStr2 f))
  | _ => true

/-- The prologue and body rules of R343 and R344. -/
def programOk (im : List W64) (d : List W64) : Bool :=
  match regProgram im d with
  | none => false
  | some (pro, i, body, j) =>
    (pro.all fun x => !([0x8D, 0x90, 0x91, 0x98, 0x9E].contains (insOp x.2))) && loopsOk i [] pro && loopsOk j [] body &&
    (body.all fun x => streamUseOk d x.2) &&
    (if regKind d = 2 then body.all fun x => insOp x.2 != 0x02
     else (body.all fun x => !writesScalar x.2 && insOp x.2 != 0x03 && insOp x.2 != 0x9E) &&
       decide ((body.map fun x => stageUnits x.2).sum ≤ 64))

/-- A stream word by R339 and R340. -/
def streamOk (d : List W64) (i : Nat) : Bool :=
  let w := strWord d i
  (match strFmt w with
    | none => false
    | some g => if g.narrow then (strSfmt w).isSome else fld w 57 56 == 0) &&
  fld w 53 52 == 0 && fld (rdw d (5 + 2 * i)) 63 52 == 0 && (strScaled w || strScale d i == 0) &&
  !(strMat w && (regKind d != 2 || strFmt w != some .fp32)) && !(i == 0 && strWrite w) &&
  (match regKind d with
    | 0 => !strScaled w || regCount d % strBsz w == 0
    | 1 => !strScaled w || regShape d * 64 % strBsz w == 0
    | _ => true)

/-- A region descriptor by R338 to R341. -/
def regionOk (im : List W64) (d : List W64) : Bool :=
  fld (rdw d 1) 63 52 == 0 && fld (rdw d 2) 63 52 == 0 && rdw d 3 == 0 &&
  decide (1 ≤ regNstr d) && decide (regNstr d ≤ 6) && (regTrack d || regBitmap d == 0) && (regKind d == 1 || regMeta d == 0) &&
  (match regKind d with
    | 0 => regShape d == 0 && regCount d != 0 && regCount d % 64 == 0
    | 1 => regTrack d && decide (1 ≤ regShape d) && decide (regShape d ≤ 128)
    | 2 => [8, 16, 32, 64].contains (regShape d)
    | _ => false) &&
  ((List.range (regNstr d)).all (streamOk d)) && programOk im d

/-- Does a range lie on unit u's stack under a key ID whose masks let the press read it, and write it where it does, or for the cellar press in the partition's
cellar space (R335)? -/
def rangeOk (s : State) (k : Pt) (u : Ps) (addr len : Nat) (write : Bool) : Bool :=
  let loc := addrLoc addr
  (addrKey addr == 0 && !s.parts[k].conf || keyedOk s k (addrKey addr) 3 false && (!write || keyedOk s k (addrKey addr) 3 true)) &&
  (len == 0 ||
    if u.1 < 8 then decide (u.1 * 2 ^ 36 ≤ loc) && decide (loc + len ≤ u.1 * 2 ^ 36 + 22888 * regionBytes)
    else decide (2 ^ 40 ≤ loc) &&
      (List.range ((loc + len - 1) / regionBytes - loc / regionBytes + 1)).all fun i =>
        (objInCellar s.parts[k] ((loc / regionBytes + i) * regionBytes - 2 ^ 40)).isSome)

/-- Bytes of an image with its header (R334). -/
def imageSize (ni nr : Nat) : Nat := if nr = 0 then 64 + 8 * ni else (64 + 8 * ni + 127) / 128 * 128 + 128 * nr

/-- An image from its bytes; none where its header is inconsistent (notes/assumptions/19.md, DEDUCED). -/
def imageOf (bs : Bytes) : Option Image :=
  let len := numAt bs 0 4
  let ni := numAt bs 4 2
  let nr := numAt bs 6 2
  if ni = 0 ∨ 4096 < ni ∨ 512 < nr ∨ !allZero (slice bs 8 56) ∨ len ≠ imageSize ni nr then none
  else
    let at' := (64 + 8 * ni + 127) / 128 * 128
    some { instrs := (List.range ni).map fun i => BitVec.ofNat 64 (numAt bs (64 + 8 * i) 8),
           regions := (List.range nr).map fun r => (List.range 16).map fun i => BitVec.ofNat 64 (numAt bs (at' + 128 * r + 8 * i) 8),
           bytes := slice bs 0 len }

/-- Is an image acceptable on unit u (R335)? -/
def imageOkOn (s : State) (k : Pt) (im : Image) (u : Ps) : Bool :=
  im.instrs.all psLegal && im.regions.all fun d => regionOk im.instrs d && (regAccess d).all fun (a, n, w) => rangeOk s k u a n w

def allPss : List Ps := List.finRange 9

/-- A press unit that the module has. -/
def pressPresent (s : State) (u : Ps) : Bool := u.1 == 8 || hbPresent s u.1

/-- No port carries a cellar read (R417). -/
def cellarDown (s : State) : Bool := !s.cellar.up || (s.cellar.cpUp &&& ~~~s.cellar.cpFenced) == 0

def cellarFail (s : State) (k : Pt) : State := s.count k fun c => { c with cellarFailed := satAdd c.cellarFailed 1 }

def cellarLate (s : State) (k : Pt) : State := s.count k fun c => { c with cellarLate := satAdd c.cellarLate 1 }

/-- Part of an image read: the first error ends it, logged, and what the cellar serves may come late, or fails where it is poisoned, no
port carries it or the CC reports an error (R415, R417, R425). -/
def imageRead (s : State) (k : Pt) (cls : Nat) (x : LoadIn) (addr len : Nat) : RangeRead :=
  match firstBad s k cls addr len false with
  | some (st, loc) => ⟨badRequest s k 0xFF st loc, [], st, none⟩
  | none =>
    let far := servedByCellar s k addr len
    let r := if far && (x.ccError || cellarDown s) then ⟨s, [], 0x19, none⟩
      else if far && x.late then ⟨s, [], 0x18, none⟩
      else readRange s k addr len
    if r.st = 0 then r
    else
      let s := if r.st = 0x19 then cellarFail r.s k else if r.st = 0x18 then cellarLate r.s k else r.s
      { r with s := badRequest s k 0xFF r.st (addrLoc addr) }

/-- The image of a PRESS_LOAD read and put into the named units: with the rights of the SV cores, or in a confidential partition of the
SC (notes/assumptions/19.md, DEDUCED). -/
def pressLoadBody (k : Pt) (x : LoadIn) (s : State) (p : Pending) : State :=
  let units := allPss.filter fun u => bit x.e.w2 u.1
  let addr := fld x.e.w3 51 0
  let cls := if s.parts[k].conf then 2 else 1
  let h := imageRead s k cls x addr 64
  let n := numAt (h.bs.map (·.1)) 0 4
  if h.st ≠ 0 then endCmd h.s p h.st 0 0 0
  else if 98432 < n then endCmd h.s p 0x1E 0 0 0
  else
    let r := imageRead h.s k cls x addr n
    if r.st ≠ 0 then endCmd r.s p r.st 0 0 0
    else match imageOf (r.bs.map (·.1)) with
      | none => endCmd r.s p 0x1E 0 0 0
      | some im =>
        if !(units.all (imageOkOn r.s k im)) then endCmd r.s p 0x1E 0 0 0
        else
          let s := units.foldl (fun s u => s.modPress u fun x => { x with slots := vmod x.slots k fun t => { t with pending := some im } }) r.s
          endCmd s p 0 0 0 0

/-- PRESS_LOAD: the image becomes the pending image of the named units (R334–R337, R515). A quench holds its reads (R93;
notes/assumptions/153.md). -/
def execPressLoad (k : Pt) (x : LoadIn) (s : State) : Out :=
  .next (takeCmd s (.ctrl k) x.e 0x20 { w2 := 0x1FF, w3 := 2 ^ 52 - 1 } fun s p =>
    let units := allPss.filter fun u => bit x.e.w2 u.1
    if s.parts[k].conf && s.parts[k].session.state != 1 then endCmd s p 0x21 0 0 0
    else if !(units.all (pressPresent s)) then endCmd s p 0x01 0 0 0
    else if !admits s k then addPending s { p with wait := .blocked }
    else pressLoadBody k x s p)

/-- Pending images become active at a boundary without an update phase of the partition (R336); PROGRAM_DIGEST follows
from the active images, unit by unit (R337). -/
def activateImages (s : State) (k : Pt) : State :=
  if inUpdate s.parts[k] || !(s.presses.toList.any fun x => x.slots[k].pending.isSome) then s
  else
    let s := { s with presses := vmap s.presses fun x =>
      { x with slots := vmod x.slots k fun t => match t.pending with | some im => { active := some im, pending := none } | none => t } }
    let all := (s.presses.toList.map fun x => match x.slots[k].active with | some im => im.bytes | none => []).flatten
    s.modPart k fun p => { p with step := { p.step with digest := sha384 all } }

/-! ## Streams (R339–R341, R343) -/

/-- The image and the region that a run executes. -/
def runImage (s : State) (r : PressRun) : Option Image := s.presses[r.slotOf].slots[r.part].active
def runRegion (s : State) (r : PressRun) : List W64 :=
  match runImage s r with | some im => im.regions.getD r.region [] | none => []

/-- The first element of stream i that a group of a grain names; row `row` of a MAT stream. -/
def firstElem (d : List W64) (i grain group row : Nat) : Nat :=
  if regKind d = 2 then
    (if strMat (strWord d i) then (grain * regShape d + row) * regShape d else grain * regShape d)
  else grain * grainElems d + 64 * group

/-- Elements of a group: 64, or n for KIND 2. -/
def groupLanes (d : List W64) : Nat := if regKind d = 2 then regShape d else 64

/-- Groups of a grain (R341). -/
def grainGroups (d : List W64) : Nat :=
  match regKind d with
  | 0 => grainElems d / 64
  | 1 => regShape d
  | _ => 1

/-- Codes of n elements of stream i from element e on, with the scale of each, and what the reads gave. -/
structure ElemRead where
  s      : State
  codes  : List Nat
  scales : List (Option Rat)
  ok     : Bool

/-- Element codes packed from bit 0 of the first byte (R108). -/
def unpackCodes (w n : Nat) (bs : Bytes) : List Nat :=
  let v := leNat bs
  (List.range n).map fun i => v / 2 ^ (w * i) % 2 ^ w

/-- n elements of stream i read from element e on: elements, then their block scales. -/
def readElems (s : State) (k : Pt) (d : List W64) (i e n : Nat) : ElemRead :=
  let w := strWord d i
  let r := pressRead s k (strElem w + e * strWidth w / 8) ((n * strWidth w + 7) / 8)
  let codes := unpackCodes (strWidth w) n (r.bs.map (·.1))
  let ok := r.st == 0 && !r.bs.any (·.2)
  match strScaled w, strSfmt w with
  | true, some g =>
    let b0 := e / strBsz w
    let nb := (e + n - 1) / strBsz w - b0 + 1
    let q := pressRead r.s k (strScale d i + b0) nb
    let sc := q.bs.map fun b => g.value b.1.toNat
    ⟨q.s, codes, (List.range n).map fun j => sc.getD ((e + j) / strBsz w - b0) none, ok && q.st == 0 && !q.bs.any (·.2)⟩
  | _, _ => ⟨r.s, codes, List.replicate n (some 1), ok⟩

/-- A stream element decoded to its value; none is a NaN scale. -/
def streamVal (w : W64) (code : Nat) (scale : Option Rat) : Val :=
  match strFmt w with
  | some g => if g.narrow then decodeScaled g code scale else g.decode code
  | none => .nan

/-- A stream element as PLD delivers it, as VLD does in saturating mode (R266, R331). -/
def streamLane (w : W64) (code : Nat) (scale : Option Rat) : W32 × Bool :=
  match strFmt w with
  | some g =>
    if g.narrow then
      let v := encode .fp32 false (decodeScaled g code scale)
      (BitVec.ofNat 32 v.code, v.sat)
    else if g.isInt then (BitVec.ofInt 32 (signedOf g.width code), false)
    else (toF32 (g.decode code), false)
  | none => (0, false)

/-! ## Stochastic rounding (R362–R364) -/

/-- The rounding key of partition k. -/
def roundingKey (p : Partition) : Bytes :=
  kdf p.step.seed "MDR-ROUND" (if p.conf then slice p.session.manifest 0 16 else List.replicate 16 0) 32

/-- The counter block of a word of random values. -/
def roundCounter (n : W64) (unit region stream block word : Nat) : Bytes :=
  leBytes 16 (n.toNat * 2 ^ 64 + unit % 16 * 2 ^ 60 + region % 512 * 2 ^ 51 + stream % 8 * 2 ^ 48 + block % 2 ^ 40 * 2 ^ 8 + word % 256)

/-- The random values of the elements of a block. -/
def roundValues (key : Bytes) (n : W64) (unit region stream block size : Nat) : List Nat :=
  let ks := roundKeys key
  ((List.range ((size + 7) / 8)).map fun w =>
    let out := aesWith ks (roundCounter n unit region stream block w)
    (List.range 8).map fun j => numAt out (2 * j) 2).flatten

/-- One element rounded stochastically by its random value (R362). A quotient beyond the format saturates, as PST does. -/
def stochElem (g : Fmt) (scale : Rat) (u : Nat) (v : Val) : Conv :=
  match v with
  | .fin neg m =>
    let q := m / scale
    if q = 0 ∨ g.maxFinite < q then encodeScaled g false scale v
    else
      let (_, mb, bias) := g.layout
      let step := if g.isInt then 1 else pow2 (max (ilog2 q) (1 - (bias : Int)) - (mb : Int))
      let lo := ((q / step).floor : Rat) * step
      let hi := lo + step
      if q = lo then encode g false (.fin neg q)
      else
        let l := if neg then -hi else lo
        let x := if neg then -q else q
        let p := ((x - l) / step * 65536).floor
        let up := decide ((u : Int) < p)
        let mag := if up != neg then hi else lo
        { encode g false (.fin neg mag) with zeroed := mag == 0 }
  | w => encode g false w

/-- The elements of a block rounded stochastically, with what they count. -/
def stochElems (g : Fmt) (scale : Rat) (low : Bool) : List Nat → List (Option Val) → List Nat × Tally
  | u :: us, some v :: vs =>
    let c := stochElem g scale u v
    let (cs, t) := stochElems g scale low us vs
    (c.code :: cs, (convTally c v true low).add t)
  | _, _ => ([], Tally.zero)

/-- A block as VSTSR writes it: as PST does but for the rounding. -/
def stochBlock (g : Fmt) (sf : SFmt) (us : List Nat) (vs : List (Option Val)) : BlockOut :=
  let b := encodeBlock g sf .onWrite false vs
  let (code, _, low) := chooseScale g sf .onWrite vs
  if b.scale ≠ code then b
  else match sf.value code with
    | none => b
    | some sc =>
      let (cs, t) := stochElems g sc low us vs
      { b with codes := cs, tally := { t with zeroBlk := b.tally.zeroBlk, overflow := t.overflow || b.tally.overflow } }

/-! ## Registers of a running pass -/

def State.modRun (s : State) (p : Ps) (f : PressRun → PressRun) : State := s.modPress p fun x => { x with run := x.run.map f }

/-- The pass goes on after an instruction that left these registers. -/
def psGoOn (s : State) (p : Ps) (r : PressRun) (g : VecRegs) : State :=
  let (g', pc) := advance 1 g r.pc
  s.modPress p fun x => { x with regs := g', run := some { r with pc := pc } }

/-- An instruction on registers only. -/
def psRegs (fn : VecRegs → BitVec 56 → VRes) (f : BitVec 56) (p : Ps) (s : State) (r : PressRun) : State :=
  let v := fn s.presses[p].regs f
  countVec (psGoOn s p r v.regs) r.part v

/-- VLOOP on a press. -/
def psLoop (f : BitVec 56) (p : Ps) (s : State) (r : PressRun) : State :=
  let (g, pc) := enterLoop 1 s.presses[p].regs f r.pc
  s.modPress p fun x => { x with regs := g, run := some { r with pc := pc } }

/-- A press executes an instruction: a pass runs, and the instruction at its program counter is the one that the
command names. -/
def psStep (op : Nat) (body : State → PressRun → State) (p : Ps) (f : BitVec 56) (s : State) : State :=
  let x := s.presses[p]
  match x.run with
  | none => s
  | some r =>
    match runImage s r with
    | none => s
    | some im => if x.faulted || x.fenced || decide (r.pass < 2) || im.instrs[r.pc]? != some (vWord op f) then s else body s r

/-! ## Grain writes (R346, R347, R367) -/

/-- The value that a grain writes to lane j of a group (a row of a MAT stream), with its rounding; the last write of a
lane stands. -/
def pendingLane (ws : List GrainWrite) (stream group lane : Nat) : Option (W32 × Bool) :=
  match (ws.filter fun w => w.stream == stream && w.group == group && decide (lane < w.lanes.length)).getLast? with
  | some w => (w.lanes[lane]?).map fun x => (x, w.stoch)
  | none => none

/-- The elements that a grain writes to stream i: element number and lane value. -/
def grainElemsOf (d : List W64) (r : PressRun) (i : Nat) : List (Nat × W32 × Bool) :=
  let rows := if regKind d = 2 && strMat (strWord d i) then regShape d else grainGroups d
  (List.range rows).flatMap fun g => (List.range (groupLanes d)).filterMap fun j =>
    (pendingLane r.writes i g j).map fun x => (firstElem d i r.grain g g + j, x)

/-- Neighbours in a list kept together while `same` holds. -/
def chunk {α : Type} (same : α → α → Bool) : List α → List (List α)
  | [] => []
  | x :: xs =>
    match chunk same xs with
    | (y :: ys) :: rest => if same x y then (x :: y :: ys) :: rest else [x] :: (y :: ys) :: rest
    | rest => [x] :: rest

/-- The writes of a grain: addresses and bytes, what they count, and where OVERFLOW is raised by R136. -/
structure GrainOut where
  puts  : List (Nat × Bytes)
  tally : Tally
  overflows : Nat

/-- Codes of consecutive elements from element e on as bytes; bits of a last byte that they do not cover keep what is
stored. -/
def elemPut (s : State) (w : W64) (e : Nat) (codes : List Nat) : Nat × Bytes :=
  let n := codes.length * strWidth w
  let a := strElem w + e * strWidth w / 8
  let old := match bankAt s (addrLoc (a + n / 8)) with | some (m, off) => ((bank s m).mem.read off).toNat | none => 0
  let v := (codes.zip (List.range codes.length)).foldl (fun v (c, j) => v + c % 2 ^ strWidth w * 2 ^ (strWidth w * j)) 0
  let v := if n % 8 = 0 then v else v + old / 2 ^ (n % 8) * 2 ^ n
  (a, leBytes ((n + 7) / 8) v)

/-- Puts of successive addresses joined, so that each line is written once (R347). -/
def joinPuts : List (Nat × Bytes) → List (Nat × Bytes)
  | [] => []
  | x :: xs =>
    match joinPuts xs with
    | (b, bs) :: rs => if x.1 + x.2.length = b then (x.1, x.2 ++ bs) :: rs else x :: (b, bs) :: rs
    | [] => [x]

/-- Codes with their element numbers put where they belong: neighbours together. -/
def codePuts (s : State) (w : W64) (es : List (Nat × Nat)) : List (Nat × Bytes) :=
  (chunk (fun (x y : Nat × Nat) => decide (y.1 = x.1 + 1)) es).filterMap fun b => b.head?.map fun x => elemPut s w x.1 (b.map (·.2))

/-- Written elements of one block of stream i: their codes, where the block's scale goes, and what they count; the lanes of both groups
of a grain share it (R346). -/
def blockPut (s : State) (d : List W64) (r : PressRun) (i : Nat) (key : Bytes) (g : Fmt) (sf : SFmt) (b : List (Nat × W32 × Bool)) :
    Option (List (Nat × Nat) × (Nat × Bytes) × Tally) :=
  b.head?.map fun (e, _, stoch) =>
    let bsz := strBsz (strWord d i)
    let vs := b.map fun x => some (f32 x.2.1)
    let us := if stoch then roundValues key s.parts[r.part].step.number r.slotOf.1 r.region i (e / bsz) bsz else []
    let out := if stoch then stochBlock g sf (b.map fun x => us.getD (x.1 % bsz) 0) vs else encodeBlock g sf .onWrite false vs
    ((b.map (·.1)).zip out.codes, (strScale d i + e / bsz, [BitVec.ofNat 8 out.scale]), out.tally)

/-- What a grain writes to stream i (R133, R331, R346, R362): block by block where it has block scales. -/
def streamOut (s : State) (d : List W64) (r : PressRun) (i : Nat) : GrainOut :=
  let w := strWord d i
  let es := grainElemsOf d r i
  match strFmt w with
  | none => ⟨[], Tally.zero, 0⟩
  | some g =>
    match strScaled w, strSfmt w with
    | true, some sf =>
      let key := if es.any (·.2.2) then roundingKey s.parts[r.part] else []
      let blocks := chunk (fun (x y : Nat × W32 × Bool) => decide (x.1 / strBsz w = y.1 / strBsz w)) es
      let outs := blocks.filterMap (blockPut s d r i key g sf)
      { puts := joinPuts (outs.flatMap fun x => codePuts s w x.1) ++ joinPuts (outs.map fun x => x.2.1),
        tally := outs.foldl (fun t x => t.add x.2.2) Tally.zero, overflows := 0 }
    | _, _ =>
      let (codes, t) := encodeWide g false (es.map fun x => some (if g.isInt then intVal x.2.1.toInt else f32 x.2.1))
      { puts := joinPuts (codePuts s w ((es.map (·.1)).zip codes)), tally := { t with overflow := false }, overflows := 0 }

/-- The metadata of a row (R365): address, bytes, and whether the read was clean. -/
def readMeta (s : State) (d : List W64) (r : PressRun) : RangeRead := pressRead s r.part (regMeta d + 16 * r.grain) 16
def rowLast (bs : List PByte) : Nat := numAt (bs.map (·.1)) 0 8
def rowCount (bs : List PByte) : Nat := numAt (bs.map (·.1)) 8 4
def nextCount (bs : List PByte) : Nat := min (rowCount bs + 1) 0xFFFFFFFF

/-! ## The course of a pass (R342, R343, R351, R352) -/

/-- The first grain from g on that the pass updates: rows of a KIND 1 region and in SPARSE service grains of a tracked
region only where they are touched; with it, whether the read of its touched bit failed. -/
def nextGrain (k : Pt) (d : List W64) (sparse : Bool) : (fuel g : Nat) → State → State × Option (Nat × Bool)
  | 0, _, s => (s, none)
  | fuel + 1, g, s =>
    if regGrains d ≤ g then (s, none)
    else if regKind d = 1 ∨ (sparse ∧ regTrack d) then
      let t := readTouched s k (regBitmap d) g
      if t.set then (t.s, some (g, t.st != 0)) else nextGrain k d sparse fuel (g + 1) t.s
    else (s, some (g, false))

/-- The registers at the start of a region (R342). -/
def regionRegs (p : Partition) (pass : Nat) (d : List W64) : VecRegs :=
  { VecRegs.zero with
    s := ((((Vector.replicate 16 (0 : W64)).set 1 (p.step.etaLatched.setWidth 64)).set 2
      (if pass = 2 then p.step.g2.setWidth 64 else 0)).set 3 p.step.number).set 4 (if pass = 3 then 1 else 0),
    vl := BitVec.ofNat 9 (groupLanes d) }

/-- PRS_PROGRESS names the first grain not written. -/
def setProgress (s : State) (p : Ps) (region grain : Nat) : State :=
  s.modPress p fun x => { x with progValid := true, progRegion := BitVec.ofNat 9 region, progGrain := BitVec.ofNat 40 grain }

/-- The pass of a unit's slot is complete. -/
def unitDone (s : State) (k : Pt) (u : Ps) : State :=
  let s := s.modPart k fun p => { p with step := { p.step with unitsDone := setBit p.step.unitsDone u.1 true } }
  s.modPress u fun x => { x with byCellar := setBit x.byCellar k.1 false }

/-- A region begins, and with it its prologue; a pass without a further region ends. The flag says that it goes on. -/
def enterRegion (s : State) (p : Ps) (r : PressRun) : State :=
  match runImage s r with
  | none => unitDone (s.modPress p fun x => { x with run := none }) r.part r.slotOf
  | some im =>
    match im.regions[r.region]? with
    | none => unitDone (setProgress (s.modPress p fun x => { x with run := none }) p r.region 0) r.part r.slotOf
    | some d =>
      s.modPress p fun x => { x with regs := regionRegs s.parts[r.part] r.pass d, run := some { r with pc := regEntry d, body := false, writes := [], bad := 0 } }

/-- A grain begins: every stream pointer at its first element; a KIND 0 or 1 body starts from the prologue's registers. One whose
touched bit could not be read will be kept, as poison in any of its reads has it (R347). -/
def beginGrain (s : State) (p : Ps) (r : PressRun) (d : List W64) (grain : Nat) (lost : Bool) : State :=
  let pc := match runImage s r with
    | some im => match regProgram im.instrs d with | some (_, i, _, _) => i + 1 | none => 0
    | none => 0
  let s := setProgress s p r.region grain
  s.modPress p fun x =>
    { x with
             regs := if regKind d = 2 then x.regs else r.base,
             run := some { r with grain := grain, group := 0, pc := pc, body := true, rows := Vector.replicate 6 0, writes := [], bad := if lost then 0x40 else 0 } }

/-- The next grain from `grain` on, or the next region. -/
def goToGrain (s : State) (p : Ps) (r : PressRun) (d : List W64) (grain : Nat) : State :=
  match nextGrain r.part d (decide (r.pass = 3)) (regGrains d + 1) grain s with
  | (s, some (g, lost)) => beginGrain s p r d g lost
  | (s, none) => enterRegion (setProgress s p (r.region + 1) 0) p { r with region := r.region + 1, grain := 0 }

/-! ### Beginning and ending passes (R372, R373, R377) -/

/-- A pass begins on unit p for a slot: at the slot's start, or in pass 2 where its own press stopped (R377). -/
def beginPass (s : State) (p : Ps) (k : Pt) (pass : Nat) (u : Ps) : State :=
  let old := if p = u then none else s.presses[u].run
  let s := if p = u then s else s.modPress u fun x => { x with run := none }
  let (region, grain) := match old with
    | some r => if r.part = k ∧ r.pass = pass ∧ 2 ≤ pass then (s.presses[u].progRegion.toNat, s.presses[u].progGrain.toNat) else (0, 0)
    | none => (0, 0)
  let r : PressRun := { part := k, pass := pass, slotOf := u, region := region, grain := grain, group := 0, pc := 0, body := false,
                        base := VecRegs.zero, rows := Vector.replicate 6 0, writes := [], bad := 0 }
  let n := s.parts[k].step.number
  let note := fun (x : Press) => { x with stepLow := n.setWidth 32, lastPart := BitVec.ofNat 2 k.1 }
  let s := setProgress ((s.modPress p note).modPress u fun x => { note x with byCellar := setBit x.byCellar k.1 (p != u) }) p region grain
  if pass < 2 then s.modPress p fun x => { x with run := some r } else enterRegion s p r

/-- The pass that unit p takes next: on the cellar press those of taken-over units first, then one that was interrupted,
then its own, in the order in which they became ready. -/
def startNext (s : State) (p : Ps) : State :=
  let x := s.presses[p]
  if x.run.isSome || x.faulted || x.fenced then s
  else
    match x.ready.find? fun y => y.2.2 != p with
    | some (k, pass, u) => beginPass (s.modPress p fun x => { x with ready := x.ready.filter (· != (k, pass, u)) }) p k pass u
    | none =>
      match x.suspended with
      | r :: rest => setProgress (s.modPress p fun x => { x with suspended := rest, run := some r, regs := r.base }) p r.region r.grain
      | [] =>
        match x.ready with
        | (k, pass, u) :: rest => beginPass (s.modPress p fun x => { x with ready := rest }) p k pass u
        | [] => s

/-- Passes that end at once (a slot without regions) make room for the next. -/
def startLoop (p : Ps) : (fuel : Nat) → State → State
  | 0, s => s
  | fuel + 1, s => if s.presses[p].run.isSome then s else startLoop p fuel (startNext s p)

def startUnit (s : State) (p : Ps) : State :=
  startLoop p (s.presses[p].ready.length + s.presses[p].suspended.length + 1) (s.modPress p fun x => { x with fresh := 0 })

/-- A pass becomes ready on unit p: behind those of earlier clocks, and among those of its clock in increasing partition number (R372). -/
def addReady (s : State) (p : Ps) (y : Pt × Nat × Ps) : State :=
  s.modPress p fun x =>
    let n := x.ready.length - x.fresh
    let now := x.ready.drop n
    { x with ready := x.ready.take n ++ (now.filter fun z => z.1 ≤ y.1) ++ y :: (now.filter fun z => ¬ z.1 ≤ y.1), fresh := x.fresh + 1 }

/-! ### Faults, fences and torn updates (R376–R378, R545, R720) -/

/-- The first grain of unit u's slot not written: where a press runs its pass, where the cellar press has interrupted it, or the slot's
start while the pass waits. -/
def unitPointer (s : State) (k : Pt) (u : Ps) : Nat × Nat :=
  match s.presses.toList.find? fun y => match y.run with | some r => r.part == k && r.slotOf == u | none => false with
  | some y => (y.progRegion.toNat, y.progGrain.toNat)
  | none =>
    match s.presses[(8 : Ps)].suspended.find? fun r => r.part == k && r.slotOf == u with
    | some r => (r.region, r.grain)
    | none => (0, 0)

/-- The partitions that a press serves: those with an image in a slot of it. -/
def pressServes (s : State) (p : Ps) : List Pt := allPts.filter fun k => s.presses[p].slots[k].active.isSome

/-- The PRESS_FAULT record of a press that stops goes to the partition of its pass, or where it runs none to each that it serves (R376;
notes/assumptions/152.md). -/
def noteStop (s : State) (p : Ps) : State :=
  let x := s.presses[p]
  let ks := match x.run with | some r => [r.part] | none => pressServes s p
  ks.foldl (fun s k => notePart s k 0x12 p.1 x.progRegion.toNat (x.progGrain.toNat % 2 ^ 32)) s

/-- A press is fenced and stops (R376, R718). -/
def fenceNow (s : State) (p : Ps) (cause : Nat) : State :=
  noteStop (noteFence (s.modPress p fun x => { x with fenced := true, fenceReq := false }) 2 p.1 cause true (pressServes s p)) p

/-- The update phase of partition k stops torn: a record of each pointer of the units that had not finished (R378). A fence asked for
finds its press between grains (R376). -/
def tearUpdate (s : State) (k : Pt) : State :=
  if !inUpdate s.parts[k] then s
  else
    let open' := allPss.filter fun u => !bit s.parts[k].step.unitsDone u.1
    let s := open'.foldl (fun s u =>
      let (region, grain) := unitPointer s k u
      notePart s k 0x14 u.1 region (grain % 2 ^ 32)) s
    let s := s.count k fun c => { c with updatesTorn := satAdd c.updatesTorn 1 }
    let s := { s with presses := vmap s.presses fun x =>
      { x with ready := x.ready.filter fun y => y.1 != k, suspended := x.suspended.filter fun r => r.part != k,
               byCellar := setBit x.byCellar k.1 false,
               run := match x.run with | some r => if r.part = k then none else some r | none => none } }
    let s := s.modPart k fun p => { p with step := { p.step with phase := .torn } }
    let s := allPss.foldl (fun s p => if s.presses[p].fenceReq && s.presses[p].run.isNone then fenceNow s p 1 else s) s
    allPss.foldl startUnit s

/-- A stack fenced during an update phase stops that phase (R720). -/
def tearFenced (s : State) : State :=
  (allPts.filter fun k => inUpdate s.parts[k] && (activeRegions s k).any fun (_, d) => (regRanges d).any fun (a, _) =>
    match locate s (addrLoc a) with | .hbm h _ => s.hbs[h].fenced | _ => false).foldl tearUpdate s

/-- Can the cellar press serve: not faulted, not fenced, and within reach of a cellar port? -/
def cellarServes (s : State) : Bool :=
  !s.presses[8].faulted && !s.presses[8].fenced && s.cellar.up && (s.cellar.cpUp &&& ~~~s.cellar.cpFenced) != 0

/-- May the cellar press serve partition k (R374, R549)? -/
def cellarServesPart (s : State) (k : Pt) : Bool :=
  cellarServes s && (!s.parts[k].conf || (s.cellar.attested && s.parts[k].cellarShare != 0))

/-- The update phases that the cellar press served stop torn: it is faulted, fenced or out of CP reach (R378). -/
def cellarPressLost (s : State) : State :=
  let x := s.presses[(8 : Ps)]
  (allPts.filter fun k => (x.run.map (·.part)) == some k || (x.suspended.any fun r => r.part == k) || (x.ready.any fun y => y.1 == k)).foldl
    tearUpdate s

/-- A press faults, and stops before the grain of PRS_PROGRESS; a fence asked for takes effect with it (R376). Where the cellar press stops,
the update phases that it served are torn. -/
def faultPress (s : State) (p : Ps) : State :=
  let s := s.modPress p fun x => { x with faulted := true }
  let s := if s.presses[p].fenceReq then fenceNow s p 1 else noteStop s p
  if p.1 = 8 then cellarPressLost s else s

/-- A fence on a press takes effect (R376, R718). -/
def fencePress (s : State) (p : Ps) (cause : Nat) : State :=
  if s.presses[p].fenced then s
  else
    let s := fenceNow s p cause
    if p.1 = 8 then cellarPressLost s else s

/-- At a grain boundary a requested fence takes effect, and the cellar press turns to a taken-over unit (R373, R376). -/
def grainBoundary (s : State) (p : Ps) : State :=
  let x := s.presses[p]
  if x.fenceReq then fencePress s p 1
  else match x.run with
    | some r =>
      if p.1 = 8 && r.slotOf == p && x.ready.any (fun y => y.2.2 != p) then
        let r := if !r.body || regKind (runRegion s r) == 2 then { r with base := x.regs } else r
        startUnit (s.modPress p fun x => { x with run := none, suspended := x.suspended ++ [r] }) p
      else s
    | none => startUnit s p

/-! ### The end of a grain (R347) -/

/-- Every write of the grain, with the row's metadata; the writes of one stream raise one OVERFLOW (notes/assumptions/148.md). -/
def grainOut (s : State) (d : List W64) (r : PressRun) (md : List PByte) : GrainOut :=
  let o := (List.range (regNstr d)).foldl (fun o i =>
    let x := streamOut s d r i
    { puts := o.puts ++ x.puts, tally := o.tally.add { x.tally with overflow := false },
      overflows := o.overflows + x.tally.overflow.toNat }) (⟨[], Tally.zero, 0⟩ : GrainOut)
  if regKind d = 1 then
    { o with puts := o.puts ++ [(regMeta d + 16 * r.grain, leBytes 8 s.parts[r.part].step.number.toNat ++ leBytes 4 (nextCount md))] }
  else o

/-- The grain is written, or kept where it would write a non-finite value or read poison. A grain of which a write waits has written
nothing yet (R542, R544). -/
def finishGrain (s : State) (p : Ps) (r : PressRun) (d : List W64) : State :=
  let k := r.part
  let m := if regKind d = 1 then readMeta s d r else ⟨s, [], 0, none⟩
  let o := grainOut m.s d r m.bs
  let bad := r.bad ||| (if m.st ≠ 0 then 0x40 else 0) ||| (if o.tally.nonfin ≠ 0 then 0x10 else 0)
  if bad ≠ 0 then
    let s := m.s.count k fun c => { c with keptGrains := satAdd c.keptGrains 1 }
    let s := logPart s k { partRec s k 0x10 p.1 r.region (r.grain % 2 ^ 32) with causes := bad }
    grainBoundary (goToGrain s p r d (r.grain + 1)) p
  else
    let (t, st) := pressWrites m.s k o.puts
    if st = stStalled then { s with stalled := s.stalled ++ [.grain p] }
    else
    let s := t
    let worn := st == 0x24
    let s := (countTally s k o.tally).count k fun c => { c with overflows := satAdd c.overflows o.overflows }
    let s := if p = r.slotOf then s else s.count k fun c => { c with cellarGrains := satAdd c.cellarGrains 1 }
    if worn then tearUpdate s k else grainBoundary (goToGrain s p r d (r.grain + 1)) p

/-- VEND on a press: the next group of the grain, or the end of the grain. -/
def psEnd (p : Ps) (s : State) (r : PressRun) : State :=
  let d := runRegion s r
  if !r.body || s.stalled.contains (.grain p) then s
  else if r.group + 1 < grainGroups d then
    let pc := match runImage s r with
      | some im => match regProgram im.instrs d with | some (_, i, _, _) => i + 1 | none => 0
      | none => 0
    s.modPress p fun x => { x with regs := r.base, run := some { r with group := r.group + 1, pc := pc } }
  else finishGrain s p r d

/-- PBODY: the prologue has ended. -/
def psBody (p : Ps) (s : State) (r : PressRun) : State :=
  if r.body then s else grainBoundary (goToGrain s p { r with base := s.presses[p].regs } (runRegion s r) r.grain) p

/-! ## Stream instructions (R331, R346, R366) -/

/-- Rows of a MAT stream beyond the matrix of the grain have no stated contents: free values (notes/assumptions/20.md). -/
def freeLanes (s : State) (n : Nat) : State × List W32 :=
  let (s, bs) := s.draw (4 * n)
  (s, (List.range n).map fun j => BitVec.ofNat 32 (numAt bs (4 * j) 4))

/-- PLD: the lanes, with what the reads gave. A row of a MAT stream that the grain has written reads as written. -/
def pldLanes (s : State) (d : List W64) (r : PressRun) (i : Nat) : State × List (W32 × Bool) × Bool :=
  let w := strWord d i
  let n := groupLanes d
  let row := r.rows.toList.getD i 0
  let isMat := regKind d == 2 && strMat w
  if isMat && decide (n ≤ row) then
    let (s, xs) := freeLanes s n
    (s, xs.map fun x => (x, false), true)
  else
    let e := readElems s r.part d i (firstElem d i r.grain r.group row) n
    let lane := fun (j : Nat) =>
      match if isMat then pendingLane r.writes i row j else none with
      | some x => (x.1, false)
      | none => streamLane w (e.codes.getD j 0) (e.scales.getD j none)
    (e.s, (List.range n).map lane, e.ok)

def psLoad (f : BitVec 56) (p : Ps) (s : State) (r : PressRun) : State :=
  let d := runRegion s r
  let i := pStr f
  let (s, xs, ok) := pldLanes s d r i
  let g := s.presses[p].regs
  let act := lanes g
  let sat := (act.filter fun j => (xs.getD j (0, false)).2).length
  let t := act.foldl (fun t j => vPut t (vVd f) j (xs.getD j (0, false)).1) g
  let r := { r with bad := if ok then r.bad else r.bad ||| 0x40,
                    rows := if strMat (strWord d i) then r.rows.setIfInBounds i (r.rows.toList.getD i 0 + 1) else r.rows }
  countVec (psGoOn s p r (setVflag t 3 (sat != 0))) r.part { regs := t, sat := sat }

/-- PMETA: a value of the row, in every lane. -/
def psMeta (f : BitVec 56) (p : Ps) (s : State) (r : PressRun) : State :=
  let d := runRegion s r
  let m := readMeta s d r
  let n := m.s.parts[r.part].step.number
  let v : Int := match pSub f with
    | 0 => max (-2 ^ 31) (min ((n.toNat : Int) - rowLast m.bs) (2 ^ 31 - 1))
    | 1 => min (rowCount m.bs + 1) (2 ^ 31 - 1)
    | _ => (r.grain % 2 ^ 32 : Nat)
  let g := m.s.presses[p].regs
  let r := { r with bad := if m.st = 0 then r.bad else r.bad ||| 0x40 }
  psGoOn m.s p r (writeLanes g f fun _ => BitVec.ofInt 32 v)

/-- PST and VSTSR: the lanes below VL wait for the end of the grain. On a MAT stream each store takes the next row; rows
beyond the matrix are not written (notes/assumptions/20.md). -/
def psStore (stoch : Bool) (f : BitVec 56) (p : Ps) (s : State) (r : PressRun) : State :=
  let d := runRegion s r
  let i := pStr f
  let g := s.presses[p].regs
  let row := if regKind d = 2 && strMat (strWord d i) then (r.writes.filter fun w => w.stream == i).length else r.group
  let w : GrainWrite := { stream := i, group := row, lanes := (lanes g).map fun j => vGet g (vVa f) j, stoch := stoch }
  psGoOn s p { r with writes := r.writes ++ [w] } g

/-! ## VFACT (R368–R370) -/

/-- A product subtracted from a value in FP32. -/
def subProd (a x y : W32) : W32 :=
  if Config.factorFused then toF32 ((f32 a).add ((f32 x).mul (f32 y)).neg) else fadd a (fmul x y ^^^ 0x80000000)

/-- What the products of the columns before j leave of an element. -/
def reduceElem (li lj : List W32) (j : Nat) (a : W32) : W32 :=
  (List.range j).foldl (fun a k => subProd a (li.getD k 0) (lj.getD k 0)) a

/-- How an attempt ended. -/
inductive Attempt where
  | done (l : List (List W32))
  | failed
  | broken

/-- The columns of the factor one after the other: rows hold L so far, `a` the matrix with its damping. -/
def factorCols (n : Nat) (tau : W32) (a : List (List W32)) : (fuel j : Nat) → (l : List (List W32)) → Attempt
  | 0, _, l => .done l
  | fuel + 1, j, l =>
    let elem := fun (i : Nat) => reduceElem (l.getD i []) (l.getD j []) j ((a.getD i []).getD j 0)
    let pivot := elem j
    if !(f32 pivot).isFinite then .broken
    else if (f32 pivot).lt (f32 tau) then .failed
    else
      let root := toF32 (f32 pivot).sqrt
      let col := fun (i : Nat) => if i < j then (0 : W32) else if i = j then root else fdiv (elem i) root
      factorCols n tau a fuel (j + 1) ((List.range n).map fun i => (l.getD i []) ++ [col i])

/-- A with λ on its diagonal. -/
def damped (n : Nat) (a : List (List W32)) (lam : W32) : List (List W32) :=
  (List.range n).map fun i => (List.range n).map fun j =>
    let x := (a.getD i []).getD j 0
    if i = j then fadd x lam else x

/-- At most four attempts (R369): the factor if one succeeded, the damping in force, and the attempts made. -/
def attempts (n : Nat) (tau : W32) (a : List (List W32)) : (fuel made : Nat) → (lam : W32) → Option (List (List W32)) × W32 × Nat
  | 0, made, lam => (none, lam, made)
  | fuel + 1, made, lam =>
    match factorCols n tau (damped n a lam) n 0 (List.replicate n []) with
    | .done l => (some l, lam, made + 1)
    | .broken => (none, lam, made + 1)
    | .failed =>
      attempts n tau a fuel (made + 1) (if (f32 lam).isZero then fmul 0x41200000 tau else fmul lam 0x41200000)

/-- Column c of the inverse of the factor, from row 0 down. -/
def solveCol (n : Nat) (l : List (List W32)) (c : Nat) : List W32 :=
  (List.range n).foldl (fun x i =>
    let b : W32 := if i = c then 0x3F800000 else 0
    x ++ [fdiv (reduceElem (l.getD i []) x i b) ((l.getD i []).getD i 0)]) []

/-- The inverse of L times its transpose: sums over k from the larger index on, symmetric by construction. -/
def inverseOf (n : Nat) (l : List (List W32)) : List (List W32) :=
  let cols := (List.range n).map (solveCol n l)
  let at' := fun (k c : Nat) => (cols.getD c []).getD k 0
  (List.range n).map fun i => (List.range n).map fun j =>
    let m := max i j
    (List.range (n - m)).foldl (fun (a : W32) k => subProd a (at' (m + k) i ^^^ 0x80000000) (at' (m + k) j)) 0

/-- The matrix that VFACT takes: the rows of its stream, with those that the grain has written as written; and whether its reads were
clean. -/
def factRead (f : BitVec 56) (s : State) (r : PressRun) : State × List (List W32) × Bool :=
  let d := runRegion s r
  let n := regShape d
  (List.range n).foldl (fun (acc : State × List (List W32) × Bool) i =>
    let e := readElems acc.1 r.part d (pStr f) (firstElem d (pStr f) r.grain 0 i) n
    let row := (List.range n).map fun j => match pendingLane r.writes (pStr f) i j with | some x => x.1 | none => BitVec.ofNat 32 (e.codes.getD j 0)
    (e.s, acc.2.1 ++ [row], acc.2.2 && e.ok)) (s, [], true)

/-- The factorisation of an n × n matrix by its lower triangle (R369): the factor if an attempt succeeded, the damping in force, and the
attempts made. A lower triangle that is not finite makes one attempt, which fails. -/
def factOutcome (f : BitVec 56) (g : VecRegs) (n : Nat) (a : List (List W32)) : Option (List (List W32)) × W32 × Nat :=
  let lam := (sGet g (pSl f)).setWidth 32
  let tau := (sGet g (pSt f)).setWidth 32
  let lower := (List.range n).all fun i => (List.range (i + 1)).all fun j => (f32 ((a.getD i []).getD j 0)).isFinite
  let sym := (List.range n).map fun i => (List.range n).map fun j => if j ≤ i then (a.getD i []).getD j 0 else (a.getD j []).getD i 0
  if lower then attempts n tau sym 4 0 lam else (none, lam, 1)

/-- The rows that VFACT writes: the factor, or the inverse of the matrix. -/
def factRows (f : BitVec 56) (n : Nat) (l : List (List W32)) : List GrainWrite :=
  ((if pSub f = 0 then l else inverseOf n l).zip (List.range n)).map fun (row, i) => { stream := pStr2 f, group := i, lanes := row, stoch := false }

def psFact (f : BitVec 56) (p : Ps) (s : State) (r : PressRun) : State :=
  let n := regShape (runRegion s r)
  let k := r.part
  let (s, a, ok) := factRead f s r
  let r := { r with bad := if ok then r.bad else r.bad ||| 0x40 }
  let g := s.presses[p].regs
  let (out, used, made) := factOutcome f g n a
  let s := s.count k fun c => { c with vfactRetries := satAdd c.vfactRetries (made - 1) }
  match out with
  | some l =>
    let g := mPut g (pMd f) (maskOf 256 fun i => decide (i < n))
    let g := (lanes g).foldl (fun t i => vPut t (vVd f) i used) g
    psGoOn s p { r with writes := r.writes ++ factRows f n l } g
  | none =>
    let g := mPut g (pMd f) 0
    let g := (lanes g).foldl (fun t i => vPut t (vVd f) i 0) g
    let s := s.count k fun c => { c with vfactSingular := satAdd c.vfactSingular 1 }
    let s := logPart s k { partRec s k 0x11 p.1 r.region (r.grain % 2 ^ 32) with replayNo := BitVec.ofNat 8 made }
    psGoOn s p r g

end Sys2Proof.Machine
end

