-- ==== Sys2Proof/Machine/Setup.lean ====
section
/-! DEFINITION. Partitions and setup objects: PART_CREATE, PART_DESTROY, CREATE, DESTROY, SEQ_CTX_WRITE
(spec/02_meridian_and_scheduling.md R59–R73, spec/14_host_registers.md R676–R679, spec/11_confidential_computing.md
R505–R511, R524–R527). -/

namespace Sys2Proof.Machine

open Sys2Proof

/-! ## The creation record (R678) -/

def recPart (r : Bytes) : Nat := (byteAt r 0).toNat
def recConf (r : Bytes) : Bool := bit (byteAt r 1) 0
def recClusters (r : Bytes) : BitVec 16 := BitVec.ofNat 16 (numAt r 2 2)
def recStacks (r : Bytes) : Byte := byteAt r 4
def recPool (r : Bytes) : Nat := (byteAt r 5).toNat
def recJob (r : Bytes) : Byte := byteAt r 6
def recQueues (r : Bytes) : Nat := (byteAt r 7).toNat
def recSeqs (r : Bytes) : W64 := BitVec.ofNat 64 (numAt r 8 8)
def recAccBase (r : Bytes) : Nat := numAt r 16 4
def recAccSize (r : Bytes) : Nat := numAt r 20 4
def recHoldBase (r : Bytes) : Nat := numAt r 24 4
def recHoldSize (r : Bytes) : Nat := numAt r 28 4
def recSpill (r : Bytes) : Nat := numAt r 32 8
def recCellar (r : Bytes) : Nat := numAt r 40 4
def recSyncFirst (r : Bytes) : Nat := numAt r 44 2
def recSyncCount (r : Bytes) : Nat := numAt r 46 2
def recNoc (r : Bytes) : Nat := numAt r 48 2
def recCkpt (r : Bytes) : List (BitVec 16) := (List.range 16).map fun i => BitVec.ofNat 16 (numAt r (64 + 2 * i) 2)

/-- A region of a scratchpad fixed at partition creation: base and size multiples of 128 KiB, of at most `most` bytes,
within the operand space (R195, R303). -/
def fixedRegionOk (base size most : Nat) : Bool :=
  base % 131072 == 0 && size % 131072 == 0 && decide (size ≤ most) && decide (base + size ≤ spadEnd)

/-- Partitions other than k that exist. -/
def others (s : State) (k : Pt) : List Partition := (allPts.filter fun j => j != k && s.parts[j].live).map fun j => s.parts[j]

/-- The partition that a creation record names. -/
def recPt (r : Bytes) : Pt := ⟨recPart r % 4, Nat.mod_lt _ (by decide)⟩

/-- Is a record malformed (R678: every fault but those that give no-space)? -/
def recordBad (s : State) (r : Bytes) : Bool :=
  let k := recPt r
  decide (4 ≤ recPart r) || decide (2 ≤ (byteAt r 1).toNat) || decide (4 ≤ recPool r) || decide (16 < recQueues r) ||
  !allZero (slice r 50 14) || !allZero (slice r 96 32) || s.parts[k].live ||
  !fixedRegionOk (recAccBase r) (recAccSize r) 0x800000 || !fixedRegionOk (recHoldBase r) (recHoldSize r) 0x400000 ||
  overlaps (recAccBase r) (recAccSize r) (recHoldBase r) (recHoldSize r) ||
  recSpill r % regionBytes != 0 || decide (2 ^ 34 < recSpill r) || decide (16384 < recSyncFirst r + recSyncCount r) ||
  ((List.range 16).any fun c => bit (recClusters r) c && (!tcPresent s c || match s.clusters.toList[c]? with | some t => t.fenced | none => true)) ||
  ((List.range 8).any fun h => bit (recStacks r) h && (!hbPresent s h || match s.hbs.toList[h]? with | some t => t.fenced | none => true)) ||
  (if recConf r then decide (recNoc r < 16) || decide (192 < recNoc r)
   else recNoc r != 0 || !allZero (slice r 64 32) || (recJob r != 0 && (others s k).any fun p => p.jobId == recJob r))

/-- The lowest free run of device data-queue numbers (R678): its first number, none where there is none. -/
def queueRun (s : State) (k : Pt) (n : Nat) : Option Nat :=
  (List.range (65 - n)).find? fun b => (others s k).all fun p => !overlaps b n p.dqBase.toNat p.dataQueues.toNat

/-- Does the fixed range of a record meet a range that belongs to another partition (R72, R73)? A confidential partition
owns its fixed range (notes/assumptions/21.md, DEDUCED). -/
def syncTaken (s : State) (r : Bytes) : Bool :=
  let k := recPt r
  recConf r && (others s k).any fun p =>
    (p.conf && overlaps (recSyncFirst r) (recSyncCount r) p.syncFirst.toNat p.syncCount.toNat) ||
    p.objs.any fun g => g.typ == 5 && overlaps (recSyncFirst r) (recSyncCount r) (numAt g.bytes 0 2) (numAt g.bytes 2 2)

/-- The no-space cases of R678. Ordinary partitions may share stacks, as they may share a pool (R372, R401); a confidential
partition shares none (notes/assumptions/73.md, DEDUCED). -/
def recordNoSpace (s : State) (r : Bytes) : Bool :=
  let k := recPt r
  let ps := others s k
  (ps.any fun p => p.clusters &&& recClusters r != 0 || p.seqContexts &&& recSeqs r != 0 ||
    ((p.conf || recConf r) && p.hbMask &&& recStacks r != 0) ||
    ((p.conf || recConf r) && p.pool.toNat == recPool r)) ||
  (queueRun s k (recQueues r)).isNone || syncTaken s r ||
  (recConf r && decide (224 < recNoc r + (ps.map fun p => p.nocShare.toNat).sum)) ||
  decide (cellarRegions s < recCellar r + (ps.map fun p => p.cellarQuota.toNat).sum)

/-! ## The signed manifest (R505–R508) -/

def manParties (m : Bytes) : Nat := (byteAt m 18).toNat
def manQuorum (m : Bytes) : Nat := (byteAt m 19).toNat
def manRole (m : Bytes) (i : Nat) : Nat := (byteAt m (256 + 104 * i)).toNat
def manKey (m : Bytes) (i : Nat) : Bytes := slice m (264 + 104 * i) 96

/-- The manifest of a signed one, without its signature records. -/
def manOf (signed : Bytes) : Bytes := signed.take (signed.length - 100 * manQuorum signed)

/-- Is a manifest well formed (R505, R506)? -/
def manOk (m : Bytes) : Bool :=
  decide (256 + 104 * manParties m ≤ m.length) && byteAt m 16 == 1 && byteAt m 17 != 0 && decide (1 ≤ manParties m) &&
  decide (manParties m ≤ 40) && decide (1 ≤ manQuorum m) && decide (manQuorum m ≤ manParties m) &&
  decide (48 ≤ numAt m 28 2) && decide (numAt m 28 2 ≤ 512) && byteAt m 27 == 0 && allZero (slice m 30 2) && allZero (slice m 138 118) &&
  ((List.range (manParties m)).all fun i => decide (1 ≤ manRole m i) && decide (manRole m i ≤ 3) &&
    allZero (slice m (257 + 104 * i) 7) && !(manRole m i == 1 && decide (32 ≤ i))) &&
  decide (((List.range (manParties m)).filter fun i => manRole m i == 3).length ≤ 1)

/-- Parties whose signature records verify over the digest of the manifest. -/
def manSigners (signed : Bytes) : List Nat :=
  let m := manOf signed
  let md := sha384 m
  ((List.range (manQuorum m)).filterMap fun i =>
    let r := slice signed (m.length + 100 * i) 100
    let p := (byteAt r 0).toNat
    if p < manParties m && allZero (slice r 1 3) && ecdsaVerify (manKey m p) md (slice r 4 96) then some p else none).dedup

/-- The manifest error of R508, and of R549 for a cellar share without an attested CC. -/
def manifestBad (s : State) (k : Pt) (record : Bytes) : Bool :=
  let signed := s.parts[k].session.held
  let m := manOf signed
  !manOk m || decide ((manSigners signed).length < manQuorum m) || slice m 32 48 != sha384 record ||
  slice m 80 48 != s.sc.dfwDigest || (byteAt m 26) != s.meridian.periodUs ||
  (Sparse.get (0 : W32) s.links.jobSize (byteAt m 17).toNat).toNat != numAt m 20 4 || byteAt m 17 != recJob record ||
  ((others s k).any fun p => p.jobId == recJob record) || decide ((freeSlots s).length < numAt m 28 2) ||
  ((byteAt m 135) != 0 && !s.cellar.attested)

/-! ## PART_CREATE -/

/-- A partition master slot (R570, R576): a root of usage derive in the lowest free general slot. Its MASTERS and LC_MASK
are all ones (notes/assumptions/22.md, PRESUMED). -/
def masterSlot (s : State) (k : Pt) : Option (State × Nat) :=
  match (freeSlots s).head? with
  | none => none
  | some i =>
    let (s, key) := s.draw 32
    some (setSlot s i { valid := true, parent := BitVec.ofNat 10 i, usage := 3, world := 0, part := BitVec.ofNat 3 k.1,
                        masters := 0xFF, lcMask := 0xFF, party := 0xFF, keyId := 0, kgen := 0, key := key }, i)

/-- A slot number as an index of the table. -/
def slotIndex (i : Nat) : Option (Fin 1024) := if h : i < 1024 then some ⟨i, h⟩ else none

/-- The lowest key ID that no binding and no memory slot of the device names. -/
def unboundKeyId (s : State) : Option Nat :=
  ((List.range 255).map (· + 1)).find? fun i =>
    !(allPts.any fun j => s.parts[j].live && s.parts[j].objs.any fun o => o.typ == 4 && (byteAt o.bytes 7).toNat == i) &&
    !(s.sc.keys.slots.any fun x => x.2.valid && x.2.usage == 0 && x.2.keyId.toNat == i)

/-- The rounding key in a slot below the master slot (R364, R568, R577): usage memory, KEY_ID 0, MASTERS PS only. -/
def roundingSlot (s : State) (k : Pt) (master : Nat) (world : BitVec 2) (seed sessionId : Bytes) : Option (State × Nat) :=
  match (freeSlots s).head? with
  | none => none
  | some i => some (setSlot s i { valid := true, parent := BitVec.ofNat 10 master, usage := 0, world := world, part := BitVec.ofNat 3 k.1,
                                  masters := 0x08, lcMask := 0xFF, party := 0xFF, keyId := 0, kgen := 0,
                                  key := kdf seed "MDR-ROUND" sessionId 32 }, i)

/-- A memory slot of a session below its SMK: generation 0 of a key ID (R527, R568, R579). The SC of a new session makes
one for session data, under the lowest key ID that nothing binds (notes/assumptions/32.md, DESIGN CHOICE). -/
def sessionMemSlot (s : State) (k : Pt) (master keyId : Nat) (party : Byte) (sessionId : Bytes) : Option (State × Nat) :=
  match (freeSlots s).head? with
  | none => none
  | some i => some (setSlot s i { valid := true, parent := BitVec.ofNat 10 master, usage := 0, world := 1, part := BitVec.ofNat 3 k.1,
                                  masters := 0x5C, lcMask := 0xFF, party := party, keyId := BitVec.ofNat 8 keyId, kgen := 0,
                                  key := kdf (slot s master).key "MDR-SMEM" (sessionId ++ [BitVec.ofNat 8 keyId] ++ beBytes 3 0) 32 }, i)

/-- The values that a manifest fixes (R508). -/
def manPolicy (m : Bytes) : Policy :=
  let f := BitVec.ofNat 16 (numAt m 128 2)
  let h := BitVec.ofNat 16 (numAt m 132 2)
  ⟨f, f, byteAt m 130, byteAt m 130, h, h, byteAt m 131, byteAt m 131, byteAt m 134, byteAt m 134⟩

/-- A cluster as it begins to serve a partition: tile state, estimators and vector registers at 0 (R174, R201, R237). -/
def joinCluster (k : Pt) (c : Cluster) : Cluster :=
  { c with part := some k, tiles := [], est := [], ve := { Ve.reset with icache := [] }, verdicts := [], jobs := [], drainBuf := none,
           window := [], waitOut := 0, blocks := [] }

/-- The partition as its record makes it: every register of its block at its reset value (R766). -/
def newPartition (s : State) (k : Pt) (r : Bytes) (master : Nat) (seed : Bytes) (round : Nat) : Partition :=
  let p := s.parts[k]
  let m := manOf p.session.held
  let conf := recConf r
  let slotF := slotIndex master
  let roundF := slotIndex round
  { Partition.reset with
    vfAssigned := p.vfAssigned, gens := p.gens, state := if conf then 2 else 1, clusters := recClusters r, hbMask := recStacks r, pool := BitVec.ofNat 8 (recPool r),
    jobId := recJob r, dataQueues := BitVec.ofNat 5 (recQueues r), dqBase := BitVec.ofNat 6 ((queueRun s k (recQueues r)).getD 0),
    seqContexts := recSeqs r, accBase := BitVec.ofNat 32 (recAccBase r), accSize := BitVec.ofNat 32 (recAccSize r),
    holdBase := BitVec.ofNat 32 (recHoldBase r), holdSize := BitVec.ofNat 32 (recHoldSize r),
    spillSize := BitVec.ofNat 64 (recSpill r), cellarQuota := BitVec.ofNat 32 (recCellar r),
    syncFirst := BitVec.ofNat 16 (recSyncFirst r), syncCount := BitVec.ofNat 16 (recSyncCount r),
    nocShare := BitVec.ofNat 16 (recNoc r), ckptObj := recCkpt r, cellarShare := if conf then byteAt m 135 else 0,
    policy := if conf then manPolicy m else Policy.default,
    step := { Step.reset with
        round := (match s.links.jobs.find? fun x => x.id == recJob r with | some x => x.round + 1 | none => 0),
        seed := seed, normWexp := if conf then BitVec.ofNat 16 (numAt m 136 2) else 0 },
    session := if conf then
        { Session.reset with state := 1, manifest := m, held := p.session.held, digest := sha384 m, policy := m.drop (256 + 104 * manParties m), smkSlot := slotF }
      else { Session.reset with roundSlot := roundF },
    pmkSlot := if conf then none else slotF }

/-! ## Grant units of the on-die network (R90, R91) -/

/-- The owner of a unit of the repeating frame of 256; a unit without one serves ordinary partitions and the device under R87.
A unit whose owner sends nothing stays idle (R90). -/
def nocOwner (s : State) (u : Nat) : Option Pt := Sparse.get none s.noc (u % 256)

/-- The first free unit from `u` on, around the frame. -/
def nocFree (f : Sparse (Option Pt)) (u : Nat) : Nat :=
  (((List.range 256).map fun i => (u + i) % 256).find? fun v => (Sparse.get none f v).isNone).getD (u % 256)

/-- The units of a confidential partition, spread evenly over the frame: unit i of n at position 256 i / n, or at the next free
one (R91). -/
def placeUnits (f : Sparse (Option Pt)) (k : Pt) (n : Nat) : Sparse (Option Pt) :=
  (List.range n).foldl (fun f i => Sparse.set none f (nocFree f (256 * i / n)) (some k)) f

/-- The units of a partition return to the free pool (R679). -/
def freeUnits (f : Sparse (Option Pt)) (k : Pt) : Sparse (Option Pt) := f.filter fun e => e.2 != some k

/-- A unit's slot for a new partition is empty, and PRS_PROGRESS of a press that no other partition uses starts anew (R333, R379). -/
def freshPress (s : State) (k : Pt) (u : Ps) (x : Press) : Press :=
  let x := { x with slots := vmod x.slots k fun _ => { active := none, pending := none } }
  let serves := fun (p : Partition) => u.1 == 8 || bit p.hbMask u.1
  if serves s.parts[k] && !(allPts.any fun j => j != k && s.parts[j].live && serves s.parts[j]) then
    { x with progValid := false, progRegion := 0, progGrain := 0 }
  else x

/-- PART_CREATE (R508, R601, R678), once it has been taken from the admin queue. -/
def createPartition (record : Bytes) (s : State) (p : Pending) : State :=
    let r := slice record 0 128
    let k := recPt r
    if !s.links.locked then endCmd s p 0x2A 0 0 0
    else if recordBad s r || (recConf r && s.sc.lc != 5) then endCmd s p 0x01 0 0 0
    else if recConf r && manifestBad s k r then endCmd s p 0x1F 0 0 0
    else if recordNoSpace s r then endCmd s p 0x02 0 0 0
    else if s.sc.esState ≠ 0 then endCmd s p 0x28 0 0 0
    else match masterSlot s k with
      | none => endCmd s p 0x02 0 0 0
      | some (s, i) =>
        let (s, seed) := if recConf r then (s, []) else s.draw 32
        let s := { s with sc := { s.sc with roundReqs := if recConf r then s.sc.roundReqs else s.sc.roundReqs % 65536 + 1 } }
        let below := if recConf r then sessionMemSlot s k i ((unboundKeyId s).getD 255) 0xFF (slice (manOf s.parts[k].session.held) 0 16)
          else roundingSlot s k i 0 seed (List.replicate 16 0)
        match below with
        | none => endCmd (setSlot s i KeySlot.empty) p 0x02 0 0 0
        | some (s, j) =>
        let q := newPartition s k r i seed j
        let s := s.modPart k fun _ => q
        let s := { s with clusters := Vector.ofFn fun c => if bit (recClusters r) c.1 then joinCluster k s.clusters[c] else s.clusters[c],
                          noc := if recConf r then placeUnits (freeUnits s.noc k) k (recNoc r) else s.noc,
                          presses := Vector.ofFn fun u => freshPress s k u s.presses[u] }
        endCmd s p 0 k.1 0 0

/-! ## PART_DESTROY (R679) -/

def execPartDestroy (e : Entry) (s : State) : Out :=
  .next (takeCmd s .admin e 0x02 { w2 := 3 } fun s p =>
    let k : Pt := ⟨fld e.w2 1 0 % 4, Nat.mod_lt _ (by decide)⟩
    let q := s.parts[k]
    if !q.live || q.destroying.isSome then endCmd s p 0x01 0 0 0
    else if q.conf && q.session.state != 4 then endCmd s p 0x20 0 0 0
    else addPending (s.modPart k fun t => { t with destroying := some (false, s.meridian.tick) }) { p with wait := .partDestroy k })

/-! ## Setup objects (R62–R70, R299–R304, R447–R452, R524–R527) -/

/-- The handle of an object of partition k. -/
def handleOf (k : Pt) (typ gen idx : Nat) : W32 := BitVec.ofNat 32 (typ * 2 ^ 28 + k.1 * 2 ^ 26 + gen % 1024 * 2 ^ 16 + idx)

/-- Objects of a type that one partition may hold (R63). -/
def typeLimit (typ : Nat) : Nat :=
  match typ with
  | 1 => 65536 | 2 => 4096 | 3 => 36 | 4 => 256 | 5 => 64 | 6 => 8192 | _ => 0

/-- The size of an object (R63); none for a reserved type. -/
def typeSize (typ : Nat) (bs : Bytes) : Option Nat :=
  match typ with
  | 1 => some 64 | 2 => some 64 | 3 => some (16 + (byteAt bs 1).toNat * 1024) | 4 => some 32 | 5 => some 16 | 6 => some 384 | _ => none

/-- The key of an index in the table of generations. -/
def genKey (typ idx : Nat) : Nat := typ * 65536 + idx

/-- The lowest index of a type that no object holds. -/
def freeIndex (p : Partition) (typ : Nat) : Option Nat :=
  (List.range (typeLimit typ)).find? fun i => !p.objs.any fun o => o.typ.toNat == typ && o.idx.toNat == i

/-- A sync-object group (R73): 0, bad-command or no-space. -/
def groupStatus (s : State) (k : Pt) (bs : Bytes) : Nat :=
  let first := numAt bs 0 2
  let n := numAt bs 2 2
  let p := s.parts[k]
  if !allZero (slice bs 5 11) ∨ n = 0 ∨ 16384 < n ∨ 16384 < first + n ∨ 2 ≤ (byteAt bs 4).toNat then 0x01
  else if ((others s k).any fun q => (q.objs.any fun g => g.typ == 5 && overlaps first n (numAt g.bytes 0 2) (numAt g.bytes 2 2)) ||
      (q.conf && overlaps first n q.syncFirst.toNat q.syncCount.toNat)) then 0x02
  else if p.conf && !(decide (p.syncFirst.toNat ≤ first) && decide (first + n ≤ p.syncFirst.toNat + p.syncCount.toNat)) then 0x02
  else 0

/-- A key binding (R524–R527). Its slot must be the partition's memory slot of generation 0 of the key ID; which error another slot gives
in an ordinary partition is not said (notes/assumptions/23.md, DEDUCED). -/
def bindingStatus (s : State) (k : Pt) (bs : Bytes) : Nat :=
  let w := objWord bs 0
  let keyId := fld w 63 56
  let sl := fld w 55 46
  let p := s.parts[k]
  if keyId = 0 ∨ fld w 45 40 ≠ 0 ∨ fld w 15 0 ≠ 0 ∨ !allZero (slice bs 8 24) then 0x26
  else if p.conf && (fld w 39 32 &&& 0xA2 != 0 || fld w 31 24 &&& 0xA2 != 0) then 0x26
  else if (slot s sl).part.toNat ≠ k.1 ∨ (slot s sl).usage ≠ 0 ∨ (slot s sl).keyId.toNat ≠ keyId ∨ (slot s sl).kgen ≠ 0 then 0x26
  else if !slotLive s sl then 0x27
  else if allPts.any fun j => s.parts[j].live && s.parts[j].objs.any fun o => o.typ == 4 && (byteAt o.bytes 7).toNat == keyId then 0x26
  else 0

/-- The fields of a route (R451). -/
def rtOp (bs : Bytes) : Nat := fld (objWord bs 0) 63 60
def rtPort (bs : Bytes) : Nat := fld (objWord bs 0) 59 55
def rtElem (bs : Bytes) : Nat := fld (objWord bs 0) 54 53
def rtPeerRoute (bs : Bytes) : Nat := fld (objWord bs 0) 51 40
def rtPeer (bs : Bytes) : Nat := fld (objWord bs 0) 39 24
def rtAddr (bs : Bytes) : Nat := fld (objWord bs 1) 51 0
def rtLen (bs : Bytes) : Nat := fld (objWord bs 2) 31 0
def rtUnit (bs : Bytes) : W32 := BitVec.ofNat 32 (fld (objWord bs 3) 63 32)
def rtSync (bs : Bytes) : Nat := fld (objWord bs 3) 31 18
def rtN (bs : Bytes) : Nat := fld (objWord bs 3) 17 2
def rtNext (bs : Bytes) : W32 := BitVec.ofNat 32 (fld (objWord bs 4) 63 32)
def rtErr (bs : Bytes) : Nat := fld (objWord bs 4) 31 18
def rtChildren (bs : Bytes) : Nat := fld (objWord bs 5) 63 46
def rtParent (bs : Bytes) : Nat := fld (objWord bs 5) 45 41

/-- The merge window as a location of R384 or an address within a cluster (R205, R229). -/
def mergeWindowAt (loc : Nat) : Bool :=
  decide (2 ^ 41 ≤ loc) && decide (loc < 2 ^ 41 + 16 * 2 ^ 25) && (mergeIndex ((loc - 2 ^ 41) % 2 ^ 25)).isSome

/-- The code of a slot in SLOT_MAP (R442). -/
def slotCode (m : Bytes) (sl : Nat) : Nat := (byteAt m (sl / 2)).toNat / 16 ^ (sl % 2) % 16

/-- The ports that a NORM route names: its parent and its children. -/
def normPorts (bs : Bytes) : List Nat :=
  (if rtParent bs = 0x1F then [] else [rtParent bs]) ++ (List.range 18).filter fun i => rtChildren bs / 2 ^ i % 2 == 1

/-- Does partition k own an L2 slot on a port that is present (R442, R476)? -/
def ownsSlot (s : State) (k : Pt) (p : Nat) : Bool :=
  lpPresent s p && match s.ports.toList[p]? with
    | some x => (List.range 63).any fun i => slotCode x.slotMap (i + 1) == k.1
    | none => false

/-- A route by R451, R452 and R476; a faulty one gives bad-command (notes/assumptions/24.md, DEDUCED). -/
def routeOk (s : State) (k : Pt) (bs : Bytes) : Bool :=
  let w0 := objWord bs 0
  let op := rtOp bs
  decide (1 ≤ op) && decide (op ≤ 5) && fld w0 23 0 == 0 && fld w0 52 52 == 0 && fld (objWord bs 1) 63 52 == 0 &&
  fld (objWord bs 2) 63 32 == 0 && fld (objWord bs 3) 1 0 == 0 && fld (objWord bs 4) 17 0 == 0 && fld (objWord bs 5) 40 0 == 0 &&
  allZero (slice bs 48 16) && decide (rtPort bs < 18) && (op == 5 || lpPresent s (rtPort bs)) && rtLen bs != 0 && rtLen bs % 4 == 0 &&
  (op != 3 || decide (rtElem bs ≤ 2)) &&
  (op != 4 || (mergeWindowAt (rtAddr bs) && (rtLen bs == imageBytes false || rtLen bs == imageBytes true))) &&
  (op != 5 || (normPorts bs).all (ownsSlot s k))

/-- A slot record of a slot table: phase, slot and entry (R447). -/
def stPort (bs : Bytes) : Nat := (byteAt bs 0).toNat
def stPhases (bs : Bytes) : Nat := (byteAt bs 1).toNat
def stEntry (bs : Bytes) (phase sl i : Nat) : W32 := BitVec.ofNat 32 (numAt bs (16 + (64 * phase + sl) * 16 + 4 * i) 4)

/-- A link slot table by R447 and R448: entries only in slots that the partition owns as L2. -/
def slotTableOk (s : State) (k : Pt) (bs : Bytes) : Bool :=
  let map := match s.ports.toList[stPort bs]? with | some p => p.slotMap | none => []
  lpPresent s (stPort bs) && decide (1 ≤ stPhases bs) && decide (stPhases bs ≤ 16) && allZero (slice bs 2 14) &&
  (List.range (stPhases bs)).all fun ph => (List.range 64).all fun sl => (List.range 4).all fun i =>
    let w := stEntry bs ph sl i
    decide (fld w 7 6 ≤ 1) && fld w 5 0 == 0 && (fld w 7 6 == 0 || (sl != 0 && slotCode map sl == k.1))

/-- The next rung of a format (R298). -/
def nextRung : Fmt → Option Fmt
  | .e2m1 => some .e3m2
  | .int4 => some .int8
  | .e3m2 | .e2m3 => some .e4m3
  | .e4m3 | .e5m2 | .int8 => some .bf16
  | .bf16 | .fp16 => some .fp32
  | _ => none

/-- Do an alternate and its base agree in the fields of R299? -/
def altAgrees (a b : TileDesc) : Bool :=
  a.outerTiles == b.outerTiles && a.redTiles == b.redTiles && a.rowMajor == b.rowMajor && a.outerBlocks == b.outerBlocks &&
  a.transposed == b.transposed

/-- The tile descriptor that a handle names in partition k, if its object can be named (R66). -/
def tileNamed (s : State) (k : Pt) (h : W32) : Option TileDesc :=
  if fld h 27 26 ≠ k.1 then none
  else match objOf s.parts[k] h with
    | some o => if o.typ == 1 && (o.st == .pending || o.st == .active) then TileDesc.ofBytes o.bytes else none
    | none => none

/-- Alternates above a level, from the format and the handle of the level below (R299): each names the next rung; past
FP32 the handle stays. -/
def altsOk (s : State) (k : Pt) (base : TileDesc) (max : Nat) : (level : Nat) → (fmt : Fmt) → (prev : W32) → List W32 → Bool
  | _, _, _, [] => true
  | l, f, prev, h :: hs =>
    if max < l then h == 0 && altsOk s k base max (l + 1) f prev hs
    else if f = .fp32 then h == prev && altsOk s k base max (l + 1) f prev hs
    else match nextRung f, tileNamed s k h with
      | some g, some d => d.fmt == g && altAgrees d base && altsOk s k base max (l + 1) g h hs
      | _, _ => false

/-- Bytes that the capture of a mark takes from one cluster (R304). -/
def captureBytes (bs : Bytes) : Nat := ((markInputs bs).map fun x => if x.1 then 0 else x.2.2).sum

/-- Spill bytes that a mark needs over its clusters. -/
def spillNeed (p : Partition) (bs : Bytes) : Nat :=
  (captureBytes bs - p.holdSize.toNat) * popcount (BitVec.ofNat 16 (numAt bs 4 2))

/-- Does a range lie wholly in one stack that is present (R297, R384)? -/
def inStack (s : State) (loc len : Nat) : Bool :=
  match locate s loc, locate s (loc + len - 1) with
  | .hbm h _, .hbm g _ => h == g
  | _, _ => false

/-- A replay mark by R297 to R304. -/
def markOk (s : State) (k : Pt) (bs : Bytes) : Bool :=
  let p := s.parts[k]
  let w0 := objWord bs 0
  let o : SetupObj := { typ := 6, gen := 0, idx := 0, bytes := bs, st := .pending }
  let nin := fld w0 3 0
  let nb := fld w0 11 8
  let clusters := BitVec.ofNat 16 (fld w0 47 32)
  !bit w0 28 && fld w0 15 12 == 0 && fld w0 7 4 == 0 && decide (nin ≤ 8) && decide (nb ≤ 8) && decide (markMax o ≤ 4) && decide (2 ≤ markCmds o) &&
  clusters &&& ~~~p.clusters == 0 &&
  allZero (slice bs (8 + 16 * nin) (16 * (8 - nin))) && allZero (slice bs (8 * (17 + 3 * nb)) (8 * (3 * (8 - nb)))) && allZero (slice bs 328 56) &&
  ((List.range nin).all fun i =>
    let a := objWord bs (1 + 2 * i)
    let b := objWord bs (2 + 2 * i)
    fld a 62 32 == 0 && fld a 31 0 != 0 && fld a 31 0 % 4096 == 0 && fld b 63 52 == 0 &&
    (if bit a 63 then inStack s (fld b 43 0) (fld a 31 0) else fld b 51 25 == 0 && decide (fld b 24 0 + fld a 31 0 ≤ spadEnd))) &&
  ((List.range nb).all fun j =>
    let (base, alts) := markBinding o j
    fld (objWord bs (19 + 3 * j)) 31 0 == 0 &&
    (match tileNamed s k base with
      | some d => altsOk s k d (markMax o) 1 d.fmt base alts
      | none => false) &&
    !(p.objs.any fun m => m.typ == 6 && (List.range (markBinds m)).any fun i => (markBinding m i).1 == base)) &&
  decide (spillNeed p bs ≤ p.spillSize.toNat)

/-- The status of a CREATE whose type and length are right. A slot table counts against R63 until it is removed
(notes/assumptions/175.md, DESIGN CHOICE). -/
def createStatus (s : State) (k : Pt) (typ : Nat) (bs : Bytes) : Nat :=
  match typ with
  | 1 => if tileDescOk bs then 0 else 0x05
  | 2 => if routeOk s k bs then 0 else 0x01
  | 3 =>
    if !slotTableOk s k bs then 0x01
    else if 2 ≤ (s.parts[k].objs.filter fun o => o.typ == 3 && stPort o.bytes == stPort bs).length ||
        (s.parts[k].objs.any fun o => o.typ == 3 && stPort o.bytes == stPort bs && o.st == .pending) then 0x02
    else 0
  | 4 => bindingStatus s k bs
  | 5 => groupStatus s k bs
  | _ => if markOk s k bs then 0 else 0x0A

/-- The SYNC_OVERFLOW flag of a group, which its creation and its destruction clear (R75). -/
def clearOvf (p : Partition) (o : SetupObj) : Partition :=
  if o.typ = 5 then { p with syncOvf := p.syncOvf &&& ~~~((1 : W64) <<< o.idx.toNat) } else p

/-- CREATE (R62, R63). -/
def execCreate (k : Pt) (e : Entry) (object : Bytes) (s : State) : Out :=
  .next (takeCmd s (.ctrl k) e 0x10 { w2 := 0xF * 2 ^ 60, w3 := 2 ^ 64 - 1, w4 := 2 ^ 32 - 1 } fun s p =>
    let typ := fld e.w2 63 60
    let len := fld e.w4 31 0
    match typeSize typ object with
    | none => endCmd s p 0x01 0 0 0
    | some n =>
      let bs := slice object 0 n
      if len ≠ n then endCmd s p 0x01 0 0 0
      else if createStatus s k typ bs ≠ 0 then endCmd s p (createStatus s k typ bs) 0 0 0
      else match freeIndex s.parts[k] typ with
        | none => endCmd s p 0x02 0 0 0
        | some i =>
          let gen := Sparse.get (0 : BitVec 10) s.parts[k].gens (genKey typ i)
          let o : SetupObj := { typ := BitVec.ofNat 4 typ, gen := gen, idx := BitVec.ofNat 16 i, bytes := bs, st := .pending }
          let marks := s.parts[k].marks.filter fun m => typ != 6 || m.idx.toNat != i
          let s := s.modPart k fun t => clearOvf { t with objs := t.objs ++ [o], marks := marks } o
          endCmd s p 0 (handleOf k typ gen.toNat i).toNat 0 0)

/-- An object leaves the partition; its index gets a new generation (R64). -/
def removeObj (s : State) (k : Pt) (o : SetupObj) : State :=
  s.modPart k fun t =>
    clearOvf { t with objs := t.objs.filter fun x => !(x.typ == o.typ && x.idx == o.idx),
                      gens := Sparse.set (0 : BitVec 10) t.gens (genKey o.typ.toNat o.idx.toNat) (o.gen + 1) } o

/-! ## DESTROY (R66, R69) -/

/-- Does a data command in flight refer to an object (R69)? Commands name marks, routes and, through the objects of
their signals and waits, groups; a tile descriptor is named by the matrix instructions of an SQ_RUN that its SQ holds (R54) or
has dispatched, and that have not completed, under its own handle or as the alternate executed in its place (R302). -/
def refersTo (s : State) (k : Pt) (p : Pending) (o : SetupObj) : Bool :=
  let h := handleOf k o.typ.toNat o.gen.toNat o.idx.toNat
  let op := fld p.e.w0 63 56
  let signals := fld p.e.w0 40 25 != 0 &&
    ((bit p.e.w0 55 && groupReaches o (fld p.e.w0 54 41)) || (fld p.e.w1 63 50 != 0 && groupReaches o (fld p.e.w1 63 50)))
  let names := fun (w : MatWords) (as : Nat → W32) => as w.aHandle == h || as w.bHandle == h || as w.cHandle == h
  let items := op == 0x40 && s.clusters.toList.any fun c =>
    ((c.meQueue ++ c.latches.map (·.item)).any fun i => i.job == p.id &&
      (names i.w (BitVec.ofNat 32) || i.aH == h || i.bH == h || i.cH == h)) ||
    c.heldWork.any fun i => i.job == p.id && !i.isVe &&
      (names i.w (BitVec.ofNat 32) || names i.w (tileHandle s k ((c.jobs.find? (·.id == p.id)).bind (·.unit))))
  ((op == 0x48 || op == 0x49 || op == 0x50) && BitVec.ofNat 32 (fld p.e.w2 31 0) == h) ||
  ((op == 0x58 || op == 0x59) && groupReaches o (fld p.e.w2 13 0)) || signals || items

def isDataCmd (p : Pending) : Bool := match p.q with | .data .. => true | _ => false

/-- The object that a control command's handle names, if it may (R66). -/
def liveObj (s : State) (k : Pt) (h : W32) : Option SetupObj :=
  if fld h 27 26 ≠ k.1 then none
  else match objOf s.parts[k] h with
    | some o => if o.st == .pending || o.st == .active then some o else none
    | none => none

def setObjState (s : State) (k : Pt) (o : SetupObj) (st : ObjState) : State :=
  s.modPart k fun t => { t with objs := t.objs.map fun x => if x.typ = o.typ ∧ x.idx = o.idx then { x with st := st } else x }

/-- Has a data command been issued: it does not wait at the head of its queue for an object or for room (R65, R305, R763)? -/
def issued (p : Pending) : Bool := isDataCmd p && p.wait != .head

/-- Does a replay unit of the mark stand open? Its commands may run again, and refer to the mark (R310; notes/assumptions/174.md,
DEDUCED). -/
def markOpen (p : Partition) (o : SetupObj) (h : W32) : Bool := o.typ == 6 && p.units.any fun u => u.mark == h

/-- DESTROY: it completes at once where no data command issued before refers to the object, and waits otherwise. An object that is still
pending goes without having been active. -/
def execDestroy (k : Pt) (e : Entry) (s : State) : Out :=
  .next (takeCmd s (.ctrl k) e 0x11 { w2 := 2 ^ 32 - 1 } fun s p =>
    let h := BitVec.ofNat 32 (fld e.w2 31 0)
    match liveObj s k h with
    | none => endCmd s p 0x03 0 0 0
    | some o =>
      let users := (s.parts[k].inflight.filter fun x => issued x && refersTo s k x o).map (·.id)
      if o.st = .pending then endCmd (setObjState s k o .withdrawn) p 0 0 0 0
      else if users.isEmpty && !markOpen s.parts[k] o h then endCmd (setObjState s k o .destroyed) p 0 0 0 0
      else addPending (setObjState s k o .destroying) { p with wait := .destroy h users })

/-- Does a command still refer to the object of a DESTROY that waits? -/
def stillUsed (s : State) (k : Pt) (h : W32) (users : List Nat) : Bool :=
  match objOf s.parts[k] h with
  | some o => markOpen s.parts[k] o h || s.parts[k].inflight.any fun x => users.contains x.id && refersTo s k x o
  | none => false

/-- DESTROY_COMPLETE: no data command that was issued before the DESTROY still refers to the object. -/
def execDestroyComplete (handle : W32) (s : State) : Out :=
  let k : Pt := ⟨fld handle 27 26 % 4, Nat.mod_lt _ (by decide)⟩
  .next (match s.parts[k].inflight.find? fun p => match p.wait with | .destroy h _ => h == handle | _ => false with
    | some p =>
      match p.wait with
      | .destroy h users =>
        if stillUsed s k h users then s
        else match objOf s.parts[k] h with
          | some o => settle (endPending (setObjState s k o .destroyed) p 0 0 0 0)
          | none => settle (endPending s p 0 0 0 0)
      | _ => s
    | none => s)

/-! ## Sequence contexts (R185–R189) -/

/-- Is a context acceptable (R185, R187, R188)? -/
def seqCtxOk (bs : Bytes) : Bool :=
  let w0 := objWord bs 0
  let w1 := objWord bs 1
  let w2 := objWord bs 2
  let w3 := objWord bs 3
  fld w0 63 24 == 0 && decide (1 ≤ fld w0 18 0) && decide (fld w0 18 0 ≤ 262144) && fld w0 19 19 == 0 && decide (fld w0 22 20 ≤ 5) &&
  fld w1 31 18 == 0 && fld w1 63 50 == 0 && fld w2 63 18 == 0 && fld w3 63 25 == 0

/-- SEQ_CTX_WRITE: a context of the partition, in force from the next boundary. A rejected write ends with bad-command
(notes/assumptions/24.md, DEDUCED). -/
def execSeqCtxWrite (k : Pt) (e : Entry) (ctx : Bytes) (s : State) : Out :=
  .next (takeCmd s (.ctrl k) e 0x12 { w2 := 0x3F, w3 := 2 ^ 64 - 1 } fun s p =>
    let i : Fin 64 := ⟨fld e.w2 5 0 % 64, Nat.mod_lt _ (by decide)⟩
    let bs := slice ctx 0 32
    if !bit s.parts[k].seqContexts i.1 || !seqCtxOk bs then endCmd s p 0x01 0 0 0
    else endCmd { s with seqs := vmod s.seqs i fun c => { c with next := some bs } } p 0 0 0 0)

end Sys2Proof.Machine
end

