-- ==== Sys2Proof/Machine/VecRows.lean ====
section
/-! DEFINITION. The meaning of each vector and press instruction, on the vector engine of a cluster or on a press
(spec/06_vector_engine.md R250, spec/08_press.md R331). -/

namespace Sys2Proof.Machine

open Sys2Proof

/-- An instruction on registers only, on either kind of unit. -/
def vecOp (op : Nat) (fn : VecRegs → BitVec 56 → VRes) (u : VUnit) (f : BitVec 56) (s : State) : Out :=
  .next (settleFrom s (match u with
    | .ve c => veStep op (veRegs fn f c) c f s
    | .ps p => tearFenced (psStep op (psRegs fn f p) p f s)))

/-- An instruction that only the vector engine has: no press image holds it (R331, R335). -/
def veOnly (op : Nat) (body : Tc → State → Pt → VeItem → State) (u : VUnit) (f : BitVec 56) (s : State) : Out :=
  .next (settleFrom s (match u with
    | .ve c => veStep op (body c) c f s
    | .ps _ => s))

/-- An instruction that only a press has: on a vector engine its opcode is reserved (R331). -/
def psOnly (op : Nat) (body : Ps → State → PressRun → State) (u : VUnit) (f : BitVec 56) (s : State) : Out :=
  .next (settleFrom s (match u with
    | .ve c => veStep op (fun s _ _ => s) c f s
    | .ps p => tearFenced (psStep op (body p) p f s)))

/-! ## Scalar instructions, arithmetic, conversion, masks, permutation, reductions -/

/-- VNOP (R250). -/
def execVnop (u : VUnit) (f : BitVec 56) (s : State) : Out := vecOp 0x00 keepRegs u f s

/-- VSLI (R250). -/
def execVsli (u : VUnit) (f : BitVec 56) (s : State) : Out := vecOp 0x04 scalarImm u f s

/-- VSADD (R250). -/
def execVsadd (u : VUnit) (f : BitVec 56) (s : State) : Out := vecOp 0x05 scalarAdd u f s

/-- VSMUL (R250). -/
def execVsmul (u : VUnit) (f : BitVec 56) (s : State) : Out := vecOp 0x06 scalarMul u f s

/-- VFRD (R250). -/
def execVfrd (u : VUnit) (f : BitVec 56) (s : State) : Out := vecOp 0x07 readFlags u f s

/-- VFCLR (R291). -/
def execVfclr (u : VUnit) (f : ClearIn) (s : State) : Out := vecOp 0x08 (clearVflags f.set) u f.instr s

/-- VMVS (R250). -/
def execVmvs (u : VUnit) (f : BitVec 56) (s : State) : Out := vecOp 0x09 moveToScalar u f s

/-- VMVV (R250). -/
def execVmvv (u : VUnit) (f : BitVec 56) (s : State) : Out := vecOp 0x0A moveToLanes u f s

/-- VADD (R256). -/
def execVadd (u : VUnit) (f : BitVec 56) (s : State) : Out := vecOp 0x10 (arith opAdd) u f s

/-- VSUB (R256). -/
def execVsub (u : VUnit) (f : BitVec 56) (s : State) : Out := vecOp 0x11 (arith opSub) u f s

/-- VMUL (R256). -/
def execVmul (u : VUnit) (f : BitVec 56) (s : State) : Out := vecOp 0x12 (arith opMul) u f s

/-- VFMA (R257). -/
def execVfma (u : VUnit) (f : BitVec 56) (s : State) : Out := vecOp 0x13 (arith opFma) u f s

/-- VFNMA (R257). -/
def execVfnma (u : VUnit) (f : BitVec 56) (s : State) : Out := vecOp 0x14 (arith opFnma) u f s

/-- VMAX (R141). -/
def execVmax (u : VUnit) (f : BitVec 56) (s : State) : Out := vecOp 0x15 (arith opMax) u f s

/-- VMIN (R141). -/
def execVmin (u : VUnit) (f : BitVec 56) (s : State) : Out := vecOp 0x16 (arith opMin) u f s

/-- VABS (R250). -/
def execVabs (u : VUnit) (f : BitVec 56) (s : State) : Out := vecOp 0x17 (arith opAbs) u f s

/-- VNEG (R250). -/
def execVneg (u : VUnit) (f : BitVec 56) (s : State) : Out := vecOp 0x18 (arith opNeg) u f s

/-- VDIV (R258). -/
def execVdiv (u : VUnit) (f : BitVec 56) (s : State) : Out := vecOp 0x19 (arith opDiv) u f s

/-- VSQRT (R258). -/
def execVsqrt (u : VUnit) (f : BitVec 56) (s : State) : Out := vecOp 0x1A (arith opSqrt) u f s

/-- VEXP2 (R258). -/
def execVexp2 (u : VUnit) (f : BitVec 56) (s : State) : Out := vecOp 0x1B (arith opExp2) u f s

/-- VLOG2 (R258). -/
def execVlog2 (u : VUnit) (f : BitVec 56) (s : State) : Out := vecOp 0x1C (arith opLog2) u f s

/-- VADDS (R259). -/
def execVadds (u : VUnit) (f : BitVec 56) (s : State) : Out := vecOp 0x1D (arith opAdds) u f s

/-- VSEL (R255). -/
def execVsel (u : VUnit) (f : BitVec 56) (s : State) : Out := vecOp 0x1E selectLanes u f s

/-- VAND (R250). -/
def execVand (u : VUnit) (f : BitVec 56) (s : State) : Out := vecOp 0x20 (arith opAnd) u f s

/-- VOR (R250). -/
def execVor (u : VUnit) (f : BitVec 56) (s : State) : Out := vecOp 0x21 (arith opOr) u f s

/-- VXOR (R250). -/
def execVxor (u : VUnit) (f : BitVec 56) (s : State) : Out := vecOp 0x22 (arith opXor) u f s

/-- VSHL (R259). -/
def execVshl (u : VUnit) (f : BitVec 56) (s : State) : Out := vecOp 0x23 (arith opShl) u f s

/-- VSHR (R259). -/
def execVshr (u : VUnit) (f : BitVec 56) (s : State) : Out := vecOp 0x24 (arith opShr) u f s

/-- VSRA (R259). -/
def execVsra (u : VUnit) (f : BitVec 56) (s : State) : Out := vecOp 0x25 (arith opSra) u f s

/-- VIOTA (R250). -/
def execViota (u : VUnit) (f : BitVec 56) (s : State) : Out := vecOp 0x26 laneNumbers u f s

/-- VCVT (R261). -/
def execVcvt (u : VUnit) (f : BitVec 56) (s : State) : Out := vecOp 0x30 cvtLanes u f s

/-- VPACK (R262). -/
def execVpack (u : VUnit) (f : BitVec 56) (s : State) : Out := vecOp 0x31 packLanes u f s

/-- VUNPK (R262). -/
def execVunpk (u : VUnit) (f : BitVec 56) (s : State) : Out := vecOp 0x32 unpackLanes u f s

/-- VCMPEQ (R254). -/
def execVcmpeq (u : VUnit) (f : BitVec 56) (s : State) : Out := vecOp 0x40 (compareLanes cmpEq) u f s

/-- VCMPNE (R254). -/
def execVcmpne (u : VUnit) (f : BitVec 56) (s : State) : Out := vecOp 0x41 (compareLanes cmpNe) u f s

/-- VCMPLT (R254). -/
def execVcmplt (u : VUnit) (f : BitVec 56) (s : State) : Out := vecOp 0x42 (compareLanes cmpLt) u f s

/-- VCMPLE (R254). -/
def execVcmple (u : VUnit) (f : BitVec 56) (s : State) : Out := vecOp 0x43 (compareLanes cmpLe) u f s

/-- VCMPUN (R254). -/
def execVcmpun (u : VUnit) (f : BitVec 56) (s : State) : Out := vecOp 0x44 (compareLanes cmpUn) u f s

/-- VMAND (R254). -/
def execVmand (u : VUnit) (f : BitVec 56) (s : State) : Out := vecOp 0x45 (maskLogic fun r g i => maskA r g i && maskB r g i) u f s

/-- VMOR (R254). -/
def execVmor (u : VUnit) (f : BitVec 56) (s : State) : Out := vecOp 0x46 (maskLogic fun r g i => maskA r g i || maskB r g i) u f s

/-- VMXOR (R254). -/
def execVmxor (u : VUnit) (f : BitVec 56) (s : State) : Out := vecOp 0x47 (maskLogic fun r g i => maskA r g i != maskB r g i) u f s

/-- VMNOT (R254). -/
def execVmnot (u : VUnit) (f : BitVec 56) (s : State) : Out := vecOp 0x48 (maskLogic fun r g i => !maskA r g i) u f s

/-- VMFIRSTN (R250). -/
def execVmfirstn (u : VUnit) (f : BitVec 56) (s : State) : Out := vecOp 0x49 (maskLogic fun r g i => decide (i < (sGet r (vSx g)).toNat)) u f s

/-- VCOMPRESS (R276). -/
def execVcompress (u : VUnit) (f : BitVec 56) (s : State) : Out := vecOp 0x50 (fun r g => compressLanes (fun j => vGet r (vVa g) j) r g) u f s

/-- VEXPAND (R277). -/
def execVexpand (u : VUnit) (f : BitVec 56) (s : State) : Out := vecOp 0x51 expandLanes u f s

/-- VCIDX (R276). -/
def execVcidx (u : VUnit) (f : BitVec 56) (s : State) : Out := vecOp 0x52 (compressLanes fun j => BitVec.ofNat 32 j) u f s

/-- VPERM (R278). -/
def execVperm (u : VUnit) (f : BitVec 56) (s : State) : Out := vecOp 0x53 (fun r g => permLanes (fun i => (vbLane r g i).toNat) r g) u f s

/-- VSLIDEUP (R280). -/
def execVslideup (u : VUnit) (f : BitVec 56) (s : State) : Out := vecOp 0x54 (slideLanes true) u f s

/-- VSLIDEDN (R280). -/
def execVslidedn (u : VUnit) (f : BitVec 56) (s : State) : Out := vecOp 0x55 (slideLanes false) u f s

/-- VBCAST (R278). -/
def execVbcast (u : VUnit) (f : BitVec 56) (s : State) : Out := vecOp 0x56 (fun r g => permLanes (fun _ => (sGet r (vSx g)).toNat) r g) u f s

/-- VRSUM (R282). -/
def execVrsum (u : VUnit) (f : BitVec 56) (s : State) : Out := vecOp 0x60 redSum u f s

/-- VRPROD (R282). -/
def execVrprod (u : VUnit) (f : BitVec 56) (s : State) : Out := vecOp 0x61 redProd u f s

/-- VRMAX (R282). -/
def execVrmax (u : VUnit) (f : BitVec 56) (s : State) : Out := vecOp 0x62 redMax u f s

/-- VRMIN (R282). -/
def execVrmin (u : VUnit) (f : BitVec 56) (s : State) : Out := vecOp 0x63 redMin u f s

/-- VRAMAX (R282). -/
def execVramax (u : VUnit) (f : BitVec 56) (s : State) : Out := vecOp 0x64 (redIndex true) u f s

/-- VRAMIN (R282). -/
def execVramin (u : VUnit) (f : BitVec 56) (s : State) : Out := vecOp 0x65 (redIndex false) u f s

/-- VRCNT (R282). -/
def execVrcnt (u : VUnit) (f : BitVec 56) (s : State) : Out := vecOp 0x66 redCount u f s

/-- VRMEAN (R282). -/
def execVrmean (u : VUnit) (f : BitVec 56) (s : State) : Out := vecOp 0x67 redMean u f s

/-- VEND (R243, R343). -/
def execVend (u : VUnit) (f : BitVec 56) (s : State) : Out :=
  .next (settleFrom s (match u with
    | .ve c => veStep 0x01 (fun s k i => finishVe s k c i) c f s
    | .ps p => psStep 0x01 (psEnd p) p f s))

/-- VSETVL (R250, R331): the limit is 256 lanes, 64 on a press. -/
def execVsetvl (u : VUnit) (f : BitVec 56) (s : State) : Out :=
  .next (settleFrom s (match u with
    | .ve c => veStep 0x02 (veRegs (setVl 256) f c) c f s
    | .ps p => psStep 0x02 (psRegs (setVl 64) f p) p f s))

/-- VLOOP (R246). -/
def execVloop (u : VUnit) (f : BitVec 56) (s : State) : Out :=
  .next (settleFrom s (match u with
    | .ve c => veStep 0x03 (veLoop f c) c f s
    | .ps p => psStep 0x03 (psLoop f p) p f s))

/-! ## Summaries -/

/-- VANY (R287). -/
def execVany (u : VUnit) (f : BitVec 56) (s : State) : Out := veOnly 0x70 (veRegs (summarize 0 sumAny 0) f) u f s

/-- VALL (R287, R288). -/
def execVall (u : VUnit) (f : BitVec 56) (s : State) : Out := veOnly 0x71 (veRegs (summarize 1 sumAll 1) f) u f s

/-- VCOUNT (R287). -/
def execVcount (u : VUnit) (f : BitVec 56) (s : State) : Out := veOnly 0x72 (veRegs (summarize 2 sumCount 0) f) u f s

/-- VFIRST (R287, R288). -/
def execVfirst (u : VUnit) (f : BitVec 56) (s : State) : Out := veOnly 0x73 (veRegs (summarize 3 sumFirst (-1)) f) u f s

/-! ## Memory instructions of the vector engine -/

/-- VLD (R266). -/
def execVld (u : VUnit) (f : BitVec 56) (s : State) : Out := veOnly 0x80 (veLoad 0x80 f) u f s

/-- VLDP (R263). -/
def execVldp (u : VUnit) (f : BitVec 56) (s : State) : Out := veOnly 0x81 (veLoad 0x81 f) u f s

/-- VLDR (R263). -/
def execVldr (u : VUnit) (f : BitVec 56) (s : State) : Out := veOnly 0x82 (veLoad 0x82 f) u f s

/-- VLDX (R264). -/
def execVldx (u : VUnit) (f : BitVec 56) (s : State) : Out := veOnly 0x83 (veLoad 0x83 f) u f s

/-- VST (R267). -/
def execVst (u : VUnit) (f : BitVec 56) (s : State) : Out := veOnly 0x88 (veStore 0x88 f) u f s

/-- VSTP (R263). -/
def execVstp (u : VUnit) (f : BitVec 56) (s : State) : Out := veOnly 0x89 (veStore 0x89 f) u f s

/-- VSTR (R263). -/
def execVstr (u : VUnit) (f : BitVec 56) (s : State) : Out := veOnly 0x8A (veStore 0x8A f) u f s

/-- VSTX (R270). -/
def execVstx (u : VUnit) (f : BitVec 56) (s : State) : Out := veOnly 0x8B (veStore 0x8B f) u f s

/-- VSTB (R267). -/
def execVstb (u : VUnit) (f : BitVec 56) (s : State) : Out := veOnly 0x8C (veStore 0x8C f) u f s

/-! ## Press instructions -/

/-- VSTSR (R331, R362). -/
def execVstsr (u : VUnit) (f : BitVec 56) (s : State) : Out := psOnly 0x8D (psStore true f) u f s

/-- PLD (R331). -/
def execPld (u : VUnit) (f : BitVec 56) (s : State) : Out := psOnly 0x90 (psLoad f) u f s

/-- PMETA (R366). -/
def execPmeta (u : VUnit) (f : BitVec 56) (s : State) : Out := psOnly 0x91 (psMeta f) u f s

/-- PST (R331). -/
def execPst (u : VUnit) (f : BitVec 56) (s : State) : Out := psOnly 0x98 (psStore false f) u f s

/-- PBODY (R343). -/
def execPbody (u : VUnit) (f : BitVec 56) (s : State) : Out := psOnly 0x9C psBody u f s

/-- VFACT (R369). -/
def execVfact (u : VUnit) (f : BitVec 56) (s : State) : Out := psOnly 0x9E (psFact f) u f s

end Sys2Proof.Machine
end

