-- ==== Sys2Proof/Machine/Tiers.lean ====
section
/-! DEFINITION. Memory objects, pools and eviction, the cellar's copies and notices, MOVE, keys, scrubbing and re-keying
(spec/09_memory_tiers.md R393–R425, spec/11_confidential_computing.md R539–R550, spec/12_keys_lifecycle_boot.md
R577–R580). -/

namespace Sys2Proof.Machine

open Sys2Proof

/-! ## Regions, quotas and runs (R392, R402, R405) -/

def runSum (rs : List (Nat × Nat)) : Nat := (rs.map (·.2)).sum

/-- Every object of the device with its partition. -/
def allObjs (s : State) : List (Pt × MemObj) := allPts.flatMap fun k => s.parts[k].mem.map fun o => (k, o)

/-- The lowest run of n regions below `total` that meets none of the runs held. -/
def lowestRun (held : List (Nat × Nat)) (total n : Nat) : Option Nat :=
  let ok := fun (b : Nat) => decide (b + n ≤ total) && held.all fun r => !overlaps b n r.1 r.2
  ((0 :: held.map fun r => r.1 + r.2).filter ok).foldl (fun m b => match m with | some x => some (min x b) | none => some b) none

/-- Regions of a stack and of the cellar that are being cleared after their partition has gone (R679). -/
def clearingRuns (rs : List Nat) : List (Nat × Nat) := rs.map fun r => (r, 1)

/-- What stack h holds when the objects of `gone` are freed. -/
def stackHeld (s : State) (h : Hb) (gone : List (Pt × BitVec 16)) : List (Nat × Nat) :=
  ((allObjs s).filter fun x => !gone.contains (x.1, x.2.obj)).flatMap (fun x => heldRuns x.2 h) ++ clearingRuns s.hbs[h].clearing

/-- Regions that two runs share. -/
def sharedLen (a b : Nat × Nat) : Nat := min (a.1 + a.2) (b.1 + b.2) - max a.1 b.1

/-- An object that an eviction is freeing, until the boundary (R406). -/
def MemObj.leaving (o : MemObj) : Bool := o.st == .evicting || o.st == .evictingFreed

/-- How many regions of stack h an object holds (R426): one that an eviction frees and that an allocation has taken already counts once
(R405, R406). -/
def stackUsed (s : State) (h : Hb) : Nat :=
  let leaving := (allObjs s).flatMap fun x => if x.2.leaving then heldRuns x.2 h else if x.2.stack = h then x.2.oldRuns else []
  let staying := ((allObjs s).filter fun x => !x.2.leaving).flatMap fun x => hbmRuns x.2 h
  runSum leaving + runSum staying - (leaving.flatMap fun a => staying.map fun b => sharedLen a b).sum

def cellarHeld (s : State) : List (Nat × Nat) := (allObjs s).flatMap (fun x => celRuns x.2) ++ clearingRuns s.cellar.clearing

/-- The pool of a partition. -/
def poolOf (p : Partition) : Pt := ⟨p.pool.toNat % 4, Nat.mod_lt _ (by decide)⟩

/-- Regions charged to a pool on a stack (R402); those that an eviction is freeing are no longer charged. -/
def poolUse (s : State) (pl : Pt) (h : Hb) (gone : List (Pt × BitVec 16)) : Nat :=
  (((allObjs s).filter fun x => s.parts[x.1].live && poolOf s.parts[x.1] == pl && !x.2.leaving && !gone.contains (x.1, x.2.obj)).map
    fun x => runSum (hbmRuns x.2 h)).sum

/-- Regions charged to the CELLAR_QUOTA of a partition (R402, R550). -/
def cellarUse (p : Partition) : Nat := (p.mem.map fun o => runSum (celRuns o)).sum

/-- Group roots in use at the controller of stack h (R532). -/
def rootsUsed (s : State) (h : Hb) : Nat :=
  ((allObjs s).map fun x => if x.2.stack = h ∧ x.2.metaBase.isSome then (x.2.regions + 26) / 27 else 0).sum

/-- Is a range of an object locked against writes (R306, R349, R397)? -/
def objLocked (s : State) (k : Pt) (o : MemObj) : Bool :=
  let part := fun (loc : Nat) => replayLocked s.parts[k] loc (o.regions * regionBytes) || updateLocked s k loc (o.regions * regionBytes)
  (match o.hbmBase with | some b => part (bankLoc (hbBank o.stack) (b * regionBytes)) | none => false) ||
  (match o.celBase with | some b => part (bankLoc cellarBank (b * regionBytes)) | none => false)

/-- The runs of an evicted copy that is replaced or dropped stay taken until the boundary (R406). -/
def keptRuns (o : MemObj) : List (Nat × Nat) := o.oldRuns ++ if o.leaving then hbmRuns o o.stack else []

/-- Is an object evictable (R404)? -/
def evictable (s : State) (k : Pt) (o : MemObj) : Bool :=
  o.hbmBase.isSome && o.st == .usable && !o.pin && ((o.place == 0 && o.sealed) || o.place == 2) &&
  decide (o.lastUse.toNat + 1 < s.meridian.tick.toNat) && !objLocked s k o

/-- The order of R405. -/
def before (a b : Pt × MemObj) : Bool :=
  decide (a.2.lastUse < b.2.lastUse) || (a.2.lastUse == b.2.lastUse &&
    (decide (a.1 < b.1) || (a.1 == b.1 && decide (a.2.obj ≤ b.2.obj))))

def insertBy (x : Pt × MemObj) : List (Pt × MemObj) → List (Pt × MemObj)
  | [] => [x]
  | y :: ys => if before x y then x :: y :: ys else y :: insertBy x ys

def evictOrder : List (Pt × MemObj) → List (Pt × MemObj)
  | [] => []
  | x :: xs => insertBy x (evictOrder xs)

/-- A place for n regions and m metadata regions on stack h with the objects of `gone` freed. -/
def place (s : State) (pl : Pt) (h : Hb) (n m : Nat) (gone : List (Pt × BitVec 16)) : Option (Nat × Option Nat) :=
  if (Vector.get (s.pools[pl]).quota h).toNat < poolUse s pl h gone + n + m then none
  else match lowestRun (stackHeld s h gone) 22888 n with
    | none => none
    | some b =>
      if m = 0 then some (b, none)
      else match lowestRun ((b, n) :: stackHeld s h gone) 22888 m with
        | some c => some (b, some c)
        | none => none

/-- How an allocation on a stack ends: a place with the objects to evict, or pool-full (true) or fragmented. -/
inductive Placed where
  | at_ (base : Nat) (mbase : Option Nat) (evict : List (Pt × BitVec 16))
  | short (quota : Bool)

def choose (s : State) (pl : Pt) (h : Hb) (n m : Nat) : List (Pt × MemObj) → (gone : List (Pt × BitVec 16)) → Placed
  | [], gone =>
    match place s pl h n m gone with
    | some (b, c) => .at_ b c gone
    | none => .short (decide ((Vector.get (s.pools[pl]).quota h).toNat < poolUse s pl h gone + n + m))
  | o :: os, gone =>
    match place s pl h n m gone with
    | some (b, c) => .at_ b c gone
    | none => choose s pl h n m os (gone ++ [(o.1, o.2.obj)])

/-- The eviction algorithm (R405). -/
def placeOn (s : State) (k : Pt) (h : Hb) (n m : Nat) : Placed :=
  let pl := poolOf s.parts[k]
  choose s pl h n m (evictOrder ((allObjs s).filter fun x =>
    s.parts[x.1].live && poolOf s.parts[x.1] == pl && x.2.stack == h && evictable s x.1 x.2)) []

def modObj (s : State) (k : Pt) (obj : BitVec 16) (f : MemObj → MemObj) : State :=
  s.modPart k fun p => { p with mem := p.mem.map fun o => if o.obj = obj then f o else o }

def memObj (p : Partition) (obj : BitVec 16) : Option MemObj := p.mem.find? fun o => o.obj == obj

/-- An object is evicted (R406). -/
def evict (s : State) (h : Hb) (x : Pt × BitVec 16) : State :=
  match memObj s.parts[x.1] x.2 with
  | none => s
  | some o =>
    let s := modObj s x.1 x.2 fun o => { o with st := .evicting }
    let s := s.count x.1 fun c => { c with objEvicted := satAdd c.objEvicted 1 }
    let s := s.modPool (poolOf s.parts[x.1]) fun p => { p with evictions := satAdd p.evictions 1 }
    notePart s x.1 0x37 h.1 x.2.toNat (runSum (hbmRuns o h))

/-- An allocation has failed, on a stack or in the cellar (R405, R429). -/
def allocFailed (s : State) (k : Pt) (p : Pending) (quota : Bool) : State :=
  endCmd (s.modPool (poolOf s.parts[k]) fun x => { x with fails := satAdd x.fails 1 }) p (if quota then 0x1C else 0x1D) 0 0 0

/-! ## MEM_ALLOC and its completion (R394, R395) -/

/-- The lowest free OBJ. -/
def freeObj (p : Partition) : Option (BitVec 16) :=
  ((List.range p.mem.length.succ).find? fun i => !p.mem.any fun o => o.obj.toNat == i + 1).bind fun i =>
    if i + 1 ≤ 65535 then some (BitVec.ofNat 16 (i + 1)) else none

/-- The fields of MEM_ALLOC. -/
def maPlace (e : Entry) : Nat := fld e.w2 63 62
def maStack (e : Entry) : Hb := ⟨fld e.w2 61 59 % 8, Nat.mod_lt _ (by decide)⟩
def maKey (e : Entry) : Nat := fld e.w2 55 48
def maRegions (e : Entry) : Nat := fld e.w2 14 0

def newObj (e : Entry) (obj : BitVec 16) (tick : W64) (hb : Option Nat) (mb : Option Nat) (cb : Option Nat) (cm : Option Nat) : MemObj :=
  { obj := obj, place := BitVec.ofNat 2 (maPlace e), stack := maStack e, hbmBase := hb, celBase := cb, regions := maRegions e,
    metaBase := mb, metaRegs := match mb with | some _ => metaFor (maKey e) (maRegions e) | none => 0, celMeta := cm,
    writable := bit e.w2 58, pin := bit e.w2 57, keyId := BitVec.ofNat 8 (maKey e), sealed := false, code := false,
    st := .clearing, lastUse := tick, pages := [], fetching := [], oldRuns := [] }

/-- Is a nonzero key ID usable for an allocation: bound in the partition to a LIVE slot (notes/assumptions/25.md,
DEDUCED)? -/
def allocKeyOk (s : State) (k : Pt) (keyId : Nat) : Bool :=
  keyId == 0 || match bindingOf s k keyId with | some b => slotLive s (bindSlot b) | none => false

/-- MEM_ALLOC: places the object and waits until its regions are cleared. -/
def allocBody (k : Pt) (s : State) (p : Pending) : State :=
  let e := p.e
  let n := maRegions e
  let m := metaFor (maKey e) n
  let h := maStack e
  if maPlace e = 3 ∨ n = 0 ∨ 22888 < n ∨
      (maPlace e ≠ 1 ∧ (!bit s.parts[k].hbMask h.1 ∨ !hbPresent s h.1 ∨ s.hbs[h].fenced)) then endCmd s p 0x01 0 0 0
  else if !allocKeyOk s k (maKey e) then endCmd s p 0x0F 0 0 0
  else match freeObj s.parts[k] with
    | none => endCmd s p 0x02 0 0 0
    | some obj =>
      let add := fun (s : State) (o : MemObj) (tick : W64) =>
        addPending (s.modPart k fun t => { t with mem := t.mem ++ [o] }) { p with wait := .memAlloc obj tick }
      if maPlace e = 0 then
        if maKey e ≠ 0 ∧ 4096 < rootsUsed s h + (n + 26) / 27 then endCmd s p 0x02 0 0 0
        else match placeOn s k h n m with
          | .short q => allocFailed s k p q
          | .at_ b c gone =>
            let s := gone.foldl (fun s x => evict s h x) s
            add s (newObj e obj s.meridian.tick (some b) c none none) (if gone.isEmpty then s.meridian.tick else s.meridian.tick + 1)
      else if s.parts[k].cellarQuota.toNat < cellarUse s.parts[k] + n + m then allocFailed s k p true
      else match lowestRun (cellarHeld s) (cellarRegions s) n with
        | none => allocFailed s k p false
        | some b =>
          if m = 0 then add s (newObj e obj s.meridian.tick none none (some b) none) s.meridian.tick
          else match lowestRun ((b, n) :: cellarHeld s) (cellarRegions s) m with
            | none => allocFailed s k p false
            | some c => add s (newObj e obj s.meridian.tick none none (some b) (some c)) s.meridian.tick

def execMemAlloc (k : Pt) (e : Entry) (s : State) : Out :=
  .next (takeCmd s (.ctrl k) e 0x18 { w2 := 0x1FF * 2 ^ 55 + 0x7F * 2 ^ 48 + 0x7FFF } (allocBody k))

/-- The counter trees of an allocation start at zero (R534). -/
def CtrTree.without (t : CtrTree) (p : Nat → Bool) : CtrTree :=
  { entries := Sparse.clear t.entries p, tags := Sparse.clear t.tags p, cache := t.cache.filter fun c => !p c.1,
    tampered := t.tampered.filter fun n => !p n, failed := t.failed.filter fun n => !p n }

/-- Regions of a bank cleared for an object under a key ID: every line reads as zero with counter 0 under the newest
generation (R395, R534; notes/assumptions/25.md). -/
def clearRegions (b : Bank) (base n : Nat) (gen : BitVec 24) : Bank :=
  { mem := b.mem.zero (base * regionBytes) (n * regionBytes),
    lines := Sparse.clear b.lines fun l => inRange (base * 32768) (n * 32768) l,
    gens := (List.range n).foldl (fun g i => Sparse.set (0 : BitVec 24) g (base + i) gen) b.gens,
    rekeys := b.rekeys.filter fun e => !inRange base n e.region,
    toScrub := b.toScrub.filter fun l => !inRange (base * 32768) (n * 32768) l,
    tree := b.tree.without fun x => inRange base n (nodeFirst x) }

/-- The device physical address of an object's part under its key ID. -/
def objAddr (o : MemObj) (m : Ps) (base : Nat) : Nat := o.keyId.toNat * 2 ^ 44 + bankLoc m (base * regionBytes)

/-- A partition's command with this tag that waits as `f` says. -/
def waitingAs (s : State) (k : Pt) (tag : BitVec 16) (f : Wait → Bool) : Option Pending :=
  s.parts[k].inflight.find? fun p => fld p.e.w0 15 0 == tag.toNat && f p.wait

/-- MEM_ALLOC_COMPLETE: every region reads as zero, and after the boundary if objects were evicted. -/
def execMemAllocComplete (k : Pt) (tag : BitVec 16) (s : State) : Out :=
  .next (match waitingAs s k tag fun w => match w with | .memAlloc .. => true | _ => false with
    | some p =>
      match p.wait with
      | .memAlloc obj notBefore =>
        if s.meridian.tick < notBefore then s
        else match memObj s.parts[k] obj with
          | none => settle (endPending s p 0x1B 0 0 0)
          | some o =>
            let gen : BitVec 24 := if o.keyId = 0 then 0 else BitVec.ofNat 24 (newestGen s k o.keyId.toNat)
            let s := match o.hbmBase with | some b => s.modBank (hbBank o.stack) fun t => clearRegions t b o.regions gen | none => s
            let s := match o.celBase with | some b => s.modBank cellarBank fun t => clearRegions t b o.regions gen | none => s
            let s := modObj s k obj fun o => { o with st := .ready, lastUse := s.meridian.tick }
            settle (endPending s p 0 obj.toNat (match o.hbmBase with | some b => objAddr o (hbBank o.stack) b | none => 0)
              (match o.celBase with | some b => objAddr o cellarBank b | none => 0))
      | _ => s
    | none => s)

/-! ## MEM_SEAL, MEM_FREE (R394–R397, R512, R515) -/

/-- The object that a command names: allocated, its MEM_ALLOC complete. -/
def namedObj (s : State) (k : Pt) (obj : BitVec 16) : Option MemObj :=
  s.parts[k].mem.find? fun o => o.obj == obj && o.st != .clearing

def objField (w : W64) : BitVec 16 := BitVec.ofNat 16 (fld w 15 0)

def execMemSeal (k : Pt) (e : Entry) (s : State) : Out :=
  .next (takeCmd s (.ctrl k) e 0x19 { w2 := 0xFFFF } fun s p =>
    match namedObj s k (objField e.w2) with
    | none => endCmd s p 0x1B 0 0 0
    | some o =>
      let q := s.parts[k]
      if o.place ≠ 0 ∨ o.writable then endCmd s p 0x1B 0 0 0
      else if o.sealed then endCmd s p 0 0 0 0
      else if objLocked s k o then endCmd s p 0x14 0 0 0
      else if q.conf ∧ o.keyId = 0 ∧ q.session.state ≠ 1 then endCmd s p 0x21 0 0 0
      else endCmd (modObj s k o.obj fun o => { o with sealed := true, code := q.conf && o.keyId == 0 }) p 0 0 0 0)

def execMemFree (k : Pt) (e : Entry) (s : State) : Out :=
  .next (takeCmd s (.ctrl k) e 0x1A { w2 := 0xFFFF } fun s p =>
    match namedObj s k (objField e.w2) with
    | none => endCmd s p 0x1B 0 0 0
    | some o =>
      if objLocked s k o then endCmd s p 0x14 0 0 0
      else if o.code ∧ s.parts[k].session.state ≠ 1 then endCmd s p 0x21 0 0 0
      else endCmd (modObj s k o.obj fun o => { o with
        st := if o.leaving then .evictingFreed else if o.st = .ready ∨ o.st = .readyFreed then .readyFreed else .freeing }) p 0 0 0 0)

/-! ## Copies of CACHED objects (R394, R400, R406) -/

/-- Lines of a page of a CACHED object fetched into its copy, up to the first that fails, with its status (R400, R418). -/
def fillLines (k : Pt) (o : MemObj) (cb hb page : Nat) : List Nat → State → State × Nat
  | [], s => (s, 0)
  | i :: is, s =>
    let off := page * 4096 + 64 * i
    let r := readFar s k o.keyId.toNat o (cb * regionBytes + off)
    if r.st ≠ 0 then (r.s, r.st)
    else
      let (s, st) := writeLine r.s k o.keyId.toNat (hbBank o.stack) o ((hb * regionBytes + off) / 64) 0 (clean r.bytes)
      if st = 0 then fillLines k o cb hb page is s else (s, st)

/-- A page fetched into the copy of a CACHED object: valid only if every line came whole. -/
def fillPage (s : State) (k : Pt) (obj : BitVec 16) (page : Nat) : State × Nat :=
  match memObj s.parts[k] obj with
  | none => (s, 0x1B)
  | some o =>
    match o.hbmBase, o.celBase with
    | some hb, some cb =>
      let (s, st) := fillLines k o cb hb page (List.range 64) s
      let s := modObj s k obj fun o => { o with pages := if st == 0 && !o.pages.contains page then o.pages ++ [page] else o.pages }
      (triggerRekeys s k o.keyId.toNat (linesOf (bankLoc (hbBank o.stack) (hb * regionBytes + 4096 * page)) 4096), st)
    | _, _ => (s, 0x1B)

/-- Does a write of n bytes of the copy of a CACHED object, from `off` on, wait (R542, R544)? -/
def copyWaits (s : State) (k : Pt) (obj : BitVec 16) (off n : Nat) : Bool :=
  (memObj s.parts[k] obj).any fun o => o.hbmBase.any fun hb =>
    wouldStall s (o.keyId.toNat * 2 ^ 44 + bankLoc (hbBank o.stack) (hb * regionBytes + off)) n

def execCacheFill (k : Pt) (e : Entry) (s : State) : Out :=
  .next (takeCmd s (.ctrl k) e 0x1C { w2 := 2 ^ 63 + 0xFFFF } fun s p =>
    let eager := bit e.w2 63
    match namedObj s k (objField e.w2) with
    | none => endCmd s p 0x1B 0 0 0
    | some o =>
      let finish := fun (s : State) (tick : W64) =>
        if eager || tick != s.meridian.tick then addPending s { p with wait := .cacheFill o.obj eager tick }
        else endCmd (modObj s k o.obj fun o => { o with lastUse := s.meridian.tick }) p 0 0 0 0
      if o.place ≠ 2 then endCmd s p 0x1B 0 0 0
      else if o.hasCopy then
        finish (modObj s k o.obj fun o => { o with pages := [], fetching := o.fetching.map fun f => { f with good := false } }) s.meridian.tick
      else
        let m := metaFor o.keyId.toNat o.regions
        if o.keyId ≠ 0 ∧ 4096 < rootsUsed s o.stack + (o.regions + 26) / 27 then endCmd s p 0x02 0 0 0
        else match placeOn s k o.stack o.regions m with
          | .short q => allocFailed s k p q
          | .at_ b c gone =>
            let s := gone.foldl (fun s x => evict s o.stack x) s
            let gen : BitVec 24 := if o.keyId = 0 then 0 else BitVec.ofNat 24 (newestGen s k o.keyId.toNat)
            let s := s.modBank (hbBank o.stack) fun t => clearRegions t b o.regions gen
            let s := modObj s k o.obj fun o => { o with
              hbmBase := some b, metaBase := c, metaRegs := m, pages := [], fetching := [], oldRuns := keptRuns o,
              st := match o.st with | .evicting => .usable | .evictingFreed => .freeing | x => x }
            finish s (if gone.isEmpty then s.meridian.tick else s.meridian.tick + 1))

def coincide (s : State) (k : Pt) : State := s.count k fun c => { c with cellarCoinc := satAdd c.cellarCoinc 1 }

/-- One page of an EAGER fill: a late or failed read, or a line that cannot be written, leaves it invalid and is counted and logged; the
command ends with the first such error (R415–R418, R425; notes/assumptions/151.md). -/
def fillOne (k : Pt) (obj : BitVec 16) (f : FillIn) (a : State × Nat) (page : Nat) : State × Nat :=
  let (s, st) := a
  let loc := match (memObj s.parts[k] obj).bind (·.celBase) with | some b => bankLoc cellarBank (b * regionBytes + 4096 * page) | none => 0
  let bad := fun (s : State) (e : Nat) => (badRequest s k 0xFF e loc, if st = 0 then e else st)
  if cellarDown s || f.failed.contains page then bad (cellarFail s k) 0x19
  else if f.late.contains page then bad (cellarLate s k) 0x18
  else
    match fillPage (if f.coinc.contains page then coincide s k else s) k obj page with
    | (t, 0) => (t, st)
    | (t, 0x19) => bad (cellarFail t k) 0x19
    | (t, e) => bad t e

/-- The fill of a CACHE_FILL ends, unless a write of it waits (R542, R544). -/
def finishFill (s : State) (k : Pt) (f : FillIn) : State :=
  match waitingAs s k f.tag fun w => match w with | .cacheFill .. => true | _ => false with
    | some p =>
      match p.wait with
      | .cacheFill obj eager notBefore =>
        if s.meridian.tick < notBefore || (eager && !admits s k) || s.stalled.contains (.fill k f) then s
        else match memObj s.parts[k] obj with
          | none => settle (endPending s p 0x1B 0 0 0)
          | some o =>
            if eager && copyWaits s k obj 0 (o.regions * regionBytes) then { s with stalled := s.stalled ++ [.fill k f] }
            else
            let (s, st) := if eager then (List.range (512 * o.regions)).foldl (fillOne k obj f) (s, 0) else (s, 0)
            settle (endPending (modObj s k obj fun o => { o with lastUse := s.meridian.tick }) p st 0 0 0)
      | _ => s
    | none => s

/-- CACHE_FILL_COMPLETE: its evictions have taken effect, and with EAGER every page is fetched. -/
def execCacheFillComplete (k : Pt) (f : FillIn) (s : State) : Out := .next (finishFill s k f)

/-- The copy of a CACHED object is released. -/
def dropCopy (o : MemObj) : MemObj :=
  { o with hbmBase := none, metaBase := none, metaRegs := 0, pages := [], fetching := [], oldRuns := keptRuns o,
           st := match o.st with | .evicting => .usable | .evictingFreed => .freeing | x => x }

def execCacheDrop (k : Pt) (e : Entry) (s : State) : Out :=
  .next (takeCmd s (.ctrl k) e 0x1D { w2 := 0xFFFF } fun s p =>
    match namedObj s k (objField e.w2) with
    | none => endCmd s p 0x1B 0 0 0
    | some o =>
      if o.place ≠ 2 then endCmd s p 0x1B 0 0 0
      else if objLocked s k o then endCmd s p 0x14 0 0 0
      else endCmd (modObj s k o.obj dropCopy) p 0 0 0 0)

/-- CACHE_PAGE_REFILL: the whole page has come from the cellar; it becomes valid unless a notice named it meanwhile
(R400, R410), and unless its read was late or failed (R415, R417, R418). -/
def execCachePageRefill (k : Pt) (obj : Nat) (r : RefillIn) (s : State) : Out :=
  let b := BitVec.ofNat 16 obj
  .next (if !admits s k then s else match (memObj s.parts[k] b).bind fun o => o.fetching.find? fun f => f.page == r.page with
    | some f =>
      let s := modObj s k b fun o => { o with fetching := o.fetching.filter fun f => f.page != r.page }
      if f.good && decide (s.meridian.tick < f.due) && !r.ccError && !cellarDown s then
        (if copyWaits s k b (4096 * r.page) 4096 then { s with stalled := s.stalled ++ [.page k b r.page] } else (fillPage s k b r.page).1)
      else s
    | none => s)

/-! ## CELLAR_COPY (R394, R399) -/

/-- The error of a copy, with its location: of its source, or of its destination, which the cellar press writes under its own class and
mask (R37, R526, R528). -/
def copyBad (s : State) (k : Pt) (o : MemObj) (src off len : Nat) : Option (Nat × Nat) :=
  match firstBad s k 3 src len false with
  | some x => some x
  | none =>
    if len = 0 ∨ (if o.keyId = 0 then plainOk s.parts[k] o 3 true else keyedOk s k o.keyId.toNat 3 true) then none
    else some (0x0F, bankLoc cellarBank (o.celBase.getD 0 * regionBytes + off))

def execCellarCopy (k : Pt) (e : Entry) (s : State) : Out :=
  .next (takeCmd s (.ctrl k) e 0x1B { w2 := 0xFFFF, w3 := 2 ^ 52 - 1, w4 := 2 ^ 64 - 1, w5 := 2 ^ 32 - 1 } fun s p =>
    let src := fld e.w3 51 0
    let off := e.w4.toNat
    let len := fld e.w5 31 0
    match namedObj s k (objField e.w2) with
    | none => endCmd s p 0x1B 0 0 0
    | some o =>
      if o.place = 0 ∨ o.st = .ready ∨ o.st = .readyFreed then endCmd s p 0x1B 0 0 0
      else if len % 4096 ≠ 0 then endCmd s p 0x01 0 0 0
      else if o.regions * regionBytes < off + len then endCmd s p 0x10 0 0 0
      else if 2 ^ 40 ≤ addrLoc src then endCmd (badRequest s k 0xFF 0x0F (addrLoc src)) p 0x0F 0 0 0
      else match copyBad s k o src off len with
        | some (st, loc) => endCmd (badRequest s k 0xFF st loc) p st 0 0 0
        | none => addPending s { p with wait := .cellarCopy o.obj (BitVec.ofNat 52 src) off len })

/-- Bytes that the cellar press writes for a copy, cut at the lines of the cellar. -/
def copyPuts (k : Pt) (o : MemObj) : List (Nat × Nat) → (bs : Bytes) → State × Nat → State × Nat
  | [], _, a => a
  | (off, n) :: ps, bs, (s, st) =>
    let (s, e) := cellarPut s k o.keyId.toNat o off (bs.take n)
    copyPuts k o ps (bs.drop n) (s, if st = 0 then e else st)

/-- One source line of a copy: the stack's controller reads it, and the cellar press writes it. A poisoned line is not written. -/
def copyLine (k : Pt) (o : MemObj) (cb src off : Nat) (a : State × Nat) (x : Nat × Nat) : State × Nat :=
  let (r, bs) := readPiece a.1 k (addrKey src) x.1 x.2
  if r.st ≠ 0 then (r.s, if a.2 = 0 then r.st else a.2)
  else copyPuts k o (linesOf (cb * regionBytes + off + (x.1 - addrLoc src)) x.2) (bs.map (·.1)) (r.s, a.2)

/-- Has the cellar press time for a copy: no pass runs on it or waits for it (R373, R374, R399)? -/
def cellarFree (s : State) : Bool :=
  let x := s.presses[(8 : Ps)]
  x.run.isNone && x.ready.isEmpty && x.suspended.isEmpty

/-- The last line of a copy has come, and is written unless a write of the copy waits (R542, R544). -/
def finishCopy (s : State) (k : Pt) (tag : BitVec 16) : State :=
  match waitingAs s k tag fun w => match w with | .cellarCopy .. => true | _ => false with
    | some p =>
      match p.wait with
      | .cellarCopy obj src off len =>
        match (memObj s.parts[k] obj).bind fun o => o.celBase.map fun b => (o, b) with
        | none => settle (endPending s p 0x1B 0 0 0)
        | some (o, cb) =>
          match copyBad s k o src.toNat off len with
          | some (st, loc) => settle (endPending (badRequest s k 0xFF st loc) p st 0 0 0)
          | none =>
            let dst := bankLoc cellarBank (cb * regionBytes + off)
            if !cellarServesPart s k || !cellarFree s || !admits s k || s.stalled.contains (.copy k tag) then s
            else if wouldStall s (o.keyId.toNat * 2 ^ 44 + dst) len then { s with stalled := s.stalled ++ [.copy k tag] }
            else
              let (t, st) := (linesOf (addrLoc src.toNat) len).foldl (copyLine k o cb src.toNat off) (s, 0)
              let t := triggerRekeys t k o.keyId.toNat (linesOf dst len)
              let t := if st = 0 then t else badRequest t k 0xFF st (addrLoc src.toNat)
              settleFrom s (endPending (tearFenced t) p st 0 0 0)
      | _ => s
    | none => s

/-- CELLAR_COPY_COMPLETE: the last line is written. -/
def execCellarCopyComplete (k : Pt) (tag : BitVec 16) (s : State) : Out := .next (finishCopy s k tag)

/-! ## MOVE (R153, R415–R418, R676) -/

def execMove (k : Pt) (j : Fin 16) (e : Entry) (s : State) : Out :=
  .next (takeCmd s (.data k j) e 0x41 { w2 := 2 ^ 52 - 1, w3 := 2 ^ 52 - 1, w4 := 2 ^ 32 - 1, w5 := 0xF0F } fun s p =>
    let c := mvCluster e
    if s.clusters[c].part ≠ some k then endCmd s p 0x01 0 0 0
    else if s.clusters[c].fenced then endCmd s p 0x0D 0 0 0
    else if mvLen e = 0 then endCmd s p 0 0 0 0
    else
      let s := addPending s { p with wait := .move }
      enterStreams s { p with wait := .move } k j .move (setBit (0 : BitVec 16) c.1 true) (openUnitOfQueue s k j))

/-- The tile of a merge address that a tile mover reaches (R229–R233). -/
def mergeAt (s : State) (k : Pt) (addr : Nat) : Option (Tc × Nat) :=
  match locate s (addrLoc addr) with
  | .spad c off => if addrKey addr = 0 ∧ s.clusters[c].part = some k ∧ !s.clusters[c].fenced then (mergeIndex off).map fun t => (c, t) else none
  | _ => none

/-- Does a range lie in code objects only (R512)? -/
def allCode (s : State) (k : Pt) (addr len : Nat) : Bool :=
  s.parts[k].conf && addrKey addr == 0 && (linesOf (addrLoc addr) len).all fun (a, _) =>
    match locate s a with
    | .hbm h off => match objInHbm s.parts[k] h off with | some o => o.code | none => false
    | _ => false

/-- The first error of a MOVE, with the location that raises it. A code object may be copied only into a scratchpad. -/
def moveBad (s : State) (k : Pt) (r : CellarReq) : Option (Nat × Nat) :=
  let side := fun (addr : Nat) (write : Bool) => if (mergeAt s k addr).isSome then none else firstBad s k 4 addr r.len write
  match side r.src false with
  | some x => some x
  | none =>
    match side r.dst true with
    | some x => some x
    | none =>
      match locate s (addrLoc r.dst) with
      | .spad .. => none
      | _ => if s.parts[k].conf && addrKey r.src == 0 && (match locate s (addrLoc r.src) with | .hbm .. => true | _ => false)
             then some (0x0F, addrLoc r.dst) else none

/-- The drains that a MOVE of an image from the merge window waits for (R233). -/
def moveAwaits (s : State) (k : Pt) (r : CellarReq) : Option (Tc × Nat × Bool × Nat) :=
  match mergeAt s k r.src with
  | some (c, t) =>
    let long := bit (tileEntry s.clusters[c] t) 30
    (lastOnTile s.clusters[c] long (tileOf long t)).map fun n => (c, t, long, n)
  | none => none

/-- The bytes that a MOVE reads. -/
def moveRead (s : State) (k : Pt) (r : CellarReq) : RangeRead :=
  match mergeAt s k r.src with
  | some (c, t) =>
    match getImage s k c t with
    | some (s', bs) => if bs.length = r.len then ⟨s', clean bs, 0, none⟩ else ⟨s, [], 0x10, none⟩
    | none => ⟨s, [], 0x10, none⟩
  | none => readRange s k r.src r.len

/-- The poisoned runs of a byte sequence, with the place of each. -/
def poisonRuns : (at_ : Nat) → List PByte → List (Nat × List PByte)
  | _, [] => []
  | i, b :: bs =>
    match poisonRuns (i + 1) bs with
    | (j, r) :: rs => if !b.2 then (j, r) :: rs else if j = i + 1 then (i, b :: r) :: rs else (i, [b]) :: (j, r) :: rs
    | [] => if b.2 then [(i, [b])] else []

/-- What the bytes behind the line that failed in the cellar leave in the destination: scratch, and the poison of lines (R418). -/
def scratchTail (s : State) (cut : Nat) (bs : List PByte) : State × List PByte :=
  let (s, free) := s.draw (bs.length - cut)
  (s, bs.take cut ++ ((bs.drop cut).zip free).map fun (b, x) => if b.2 then b else (x, false))

/-- The bytes of a MOVE written, and its status: none for an image that waits for drains. -/
def moveWrite (s : State) (k : Pt) (r : CellarReq) (bs : List PByte) : State × Option Nat :=
  match mergeAt s k r.dst with
  | some (c, t) => if bs.any (·.2) then (s, some 0x17) else putImage s k c t (.move r.id) (bs.map (·.1))
  | none =>
    let (s, st) := writeRange s k r.dst bs (allCode s k r.src r.len)
    (s, some st)

/-- The request of a MOVE has ended: its part of the stream, its command, and whatever waited behind it. -/
def endMove (s : State) (r : CellarReq) (st : Nat) : State :=
  let k := r.part
  let s := { s with reqs := s.reqs.filter fun x => x.id != r.id }
  let s := s.modCluster r.cluster fun t => { t with jobs := t.jobs.map fun b => if b.id = r.id ∧ b.kind = .move then { b with ended := true } else b }
  let s := match findPending s k r.id with | some p => endPending s p st 0 0 0 | none => s
  settle (tryReplay (pump s r.cluster) k)

/-- Does a MOVE wait for drains, or for a line that it writes, its last byte having arrived (R233, R542, R544)? -/
def movePinned (s : State) (id : Nat) : Bool :=
  (s.clusters.toList.any fun c => c.window.any fun p => p.via == .move id) ||
  s.stalled.any fun x => match x with | .move i _ => i == id | _ => false

/-- Is the request one that its tile mover still carries? -/
def moveRuns (s : State) (r : CellarReq) : Bool :=
  !movePinned s r.id && s.clusters[r.cluster].jobs.any fun b => b.id == r.id && b.kind == .move && b.started && !b.ended

/-- Does the cellar serve any of a MOVE: as it was issued, or now that a page of a copy is no longer valid (R400, R415)? -/
def fromCellar (s : State) (r : CellarReq) : Bool := r.cellar || servedByCellar s r.part r.src r.len

/-- Page fetches that the read of a MOVE has caused carry its deadline (R415). -/
def stampFetches (before : Partition) (s : State) (k : Pt) (due : W64) : State :=
  s.modPart k fun p => { p with mem := p.mem.map fun o =>
    { o with fetching := o.fetching.map fun f =>
        if (before.mem.any fun x => x.obj == o.obj && x.fetching.any fun y => y.page == f.page) then f else { f with due := due } } }

/-- The bytes of a MOVE are read and written; the first error is its status, and an image that waits for drains completes with
them. After an integrity error only the poisoned words are written (R536, R538), and behind a line that failed in the cellar nothing is
certain (R418). -/
def moveBytes (s : State) (r : CellarReq) (ccError : Bool) : State :=
  let start := s
  let k := r.part
  let x := moveRead s k r
  let x : RangeRead := { x with s := stampFetches s.parts[k] x.s k r.deadline }
  if x.st = 0x10 then endMove (badRequest s k r.cluster.1 0x10 (addrLoc r.src)) r 0x10
  else
    let st := x.st
    let (s, bs) := match x.cut with | some n => scratchTail (cellarFail x.s k) n x.bs | none => (x.s, x.bs)
    let (s, wst) := if st = 0x23 then
        (poisonRuns 0 bs).foldl (fun a y =>
          let (s, e) := writeRange a.1 k (r.dst + y.1) y.2 false
          (s, a.2.map fun d => if d = 0 then e else d)) (s, some 0)
      else moveWrite s k r bs
    match wst with
    | none => spadFences start s
    | some wst =>
      if wst = stStalled then { start with stalled := start.stalled ++ [.move r.id ccError] } else
      let (st, loc) := if wst ≠ 0 then (wst, addrLoc r.dst) else (st, addrLoc r.src)
      let s := if st = 0 then s else badRequest s k r.cluster.1 st loc
      endMove (spadFences start (tearFenced s)) r st

/-- A late or failed cellar read ends (R418): what its destination then holds is scratch, a free value. -/
def scratchMove (s : State) (r : CellarReq) (st : Nat) : State :=
  let k := r.part
  let s := if (moveBad s k r).isSome || (mergeAt s k r.dst).isSome || wouldStall s r.dst r.len then s
    else
      let (s, bs) := s.draw r.len
      (writeRange s k r.dst (clean bs) false).1
  endMove (badRequest s k r.cluster.1 st (addrLoc r.src)) r st

/-- The request of a MOVE completes now: bytes move in increasing address order, and a poisoned source poisons its
destination. An image read at the merge window waits for its drains (R233). A cellar read fails where no port carries it or the CC
reports an error (R417). -/
def finishMove (s : State) (r : CellarReq) (ccError : Bool) : State :=
  let k := r.part
  match moveBad s k r with
  | some (st, loc) => endMove (badRequest s k r.cluster.1 st loc) r st
  | none =>
    if fromCellar s r && (ccError || cellarDown s || r.pieces.any fun x => x.2.isNone) then scratchMove (cellarFail s k) r 0x19
    else match moveAwaits s k r with
      | some (c, t, long, n) => s.modCluster c fun x =>
          { x with window := x.window ++ [{ after := n, long := long, tile := tileOf long t, what := .take t, via := .move r.id }] }
      | none => moveBytes s r ccError

/-- A late cellar read (R418). -/
def lateMove (s : State) (r : CellarReq) : State := scratchMove (cellarLate s r.part) r 0x18

/-- MOVE_COMPLETE: the last byte has been moved; a quench holds what has not been (R93). In the clock of its deadline the completion wins (R416). -/
def execMoveComplete (id : Nat) (x : MoveIn) (s : State) : Out :=
  .next (match s.reqs.find? fun r => r.id == id with
    | some r =>
      if !moveRuns s r || !admits s r.part then s
      else if fromCellar s r && decide (r.deadline ≤ s.meridian.tick) then
        (if x.inDeadlineClock then finishMove (coincide s r.part) r x.ccError else lateMove s r)
      else finishMove s r x.ccError
    | none => s)

/-- CELLAR_DEADLINE_EXPIRY: the boundary that ends tick t + D finds the request unfinished (R415–R418). -/
def execCellarDeadlineExpiry (id : Nat) (completesNow : Bool) (s : State) : Out :=
  .next (match s.reqs.find? fun r => r.id == id with
    | some r =>
      if !moveRuns s r || !fromCellar s r || decide (s.meridian.tick < r.deadline) then s
      else if completesNow then finishMove (coincide s r.part) r false
      else lateMove s r
    | none => s)

/-! ## Keys (R579, R580) -/

/-- KEY_NEW: a memory slot under the partition's PMK. An existing key ID takes its next generation. A parent destroyed in
the same clock gives the key-invalid error. -/
def execKeyNew (k : Pt) (e : Entry) (parentDies : Bool) (s : State) : Out :=
  .next (takeCmd s (.ctrl k) e 0x28 { w2 := 0xFF * 2 ^ 56 + 0xFFFF * 2 ^ 28 } fun s p =>
    let keyId := fld e.w2 63 56
    let masters := BitVec.ofNat 8 (fld e.w2 43 36)
    let lcMask := BitVec.ofNat 8 (fld e.w2 35 28)
    let bad := fun (s : State) => endCmd (keyInvalidUse s) p 0x27 0 0 0
    if s.parts[k].conf then endCmd s p 0x21 0 0 0
    else if keyId = 0 then endCmd s p 0x01 0 0 0
    else match s.parts[k].pmkSlot with
      | none => bad s
      | some i =>
        let m := slot s i.1
        if parentDies || !slotLive s i.1 || m.usage != 3 || masters &&& ~~~m.masters != 0 || lcMask &&& ~~~m.lcMask != 0 then bad s
        else match (freeSlots s).head? with
          | none => endCmd s p 0x02 0 0 0
          | some j =>
            let gen := if (s.sc.keys.slots.any fun x => x.2.valid && x.2.usage == 0 && x.2.keyId.toNat == keyId && x.2.part.toNat == k.1)
              then nextGen s k keyId else 0
            endCmd (setSlot (if gen = 0 then s else setLastGen s k keyId gen) j
                                { valid := true, parent := BitVec.ofNat 10 i.1, usage := 0, world := m.world, part := BitVec.ofNat 3 k.1,
                                  masters := masters, lcMask := lcMask, party := 0xFF, keyId := BitVec.ofNat 8 keyId,
                                  kgen := BitVec.ofNat 24 gen, key := memKey s k keyId gen }) p 0 j 0 0)

/-- A slot is destroyed: VALID falls, and the sweep is due (R580). -/
def killSlot (s : State) (i : Nat) : State :=
  let s := setSlot s i { slot s i with valid := false }
  if h : i < 1024 then { s with sc := { s.sc with keys := { s.sc.keys with dying := s.sc.keys.dying ++ [⟨i, h⟩] } } } else s

def execKeyDestroy (k : Pt) (e : Entry) (s : State) : Out :=
  .next (takeCmd s (.ctrl k) e 0x29 { w2 := 0x3FF } fun s p =>
    let i := fld e.w2 9 0
    let x := slot s i
    if s.parts[k].conf then endCmd s p 0x21 0 0 0
    else if !x.valid || x.part.toNat != k.1 || x.usage != 0 || x.keyId == 0 then endCmd (keyInvalidUse s) p 0x27 0 0 0
    else endCmd (killSlot s i) p 0 0 0 0)

/-- Is a slot below a dying one? -/
def belowDying (s : State) : (fuel i : Nat) → Bool
  | 0, _ => false
  | fuel + 1, i =>
    (s.sc.keys.dying.any fun d => d.1 == i) || ((slot s i).parent.toNat != i && (slot s i).valid && belowDying s fuel (slot s i).parent.toNat)

/-- A waiting re-key starts where a slot can be had now (R544). -/
def startWaiting (s : State) (m : Ps) (region : Nat) : State :=
  match (bank s m).rekeys.find? fun e => e.region == region && e.waiting with
  | none => s
  | some e =>
    match takeGen s e.part e.keyId.toNat e.oldGen.toNat with
    | none => s
    | some (s, g) =>
      let s := s.modBank m fun b =>
        { b with rekeys := b.rekeys.map fun x => if x.region = region then { x with newGen := BitVec.ofNat 24 g, waiting := false, failed := false } else x }
      notePart s e.part 0x22 m.1 e.keyId.toNat region

def startAllWaiting (s : State) : State :=
  allPss.foldl (fun s m => ((bank s m).rekeys.filter (·.waiting)).foldl (fun s e => startWaiting s m e.region) s) s

/-- The key material of the destroyed slots and of every descendant is zeroed, and they return to the free pool (R580). -/
def sweepSlots (s : State) : State :=
  if s.sc.keys.dying.isEmpty then s
  else
    let dead := (s.sc.keys.slots.map (·.1)).filter fun i => belowDying s 1024 i
    let s := dead.foldl (fun s i => setSlot s i KeySlot.empty) s
    startAllWaiting { s with sc := { s.sc with keys := { s.sc.keys with dying := [], sweeps := satAdd s.sc.keys.sweeps 1 } } }

/-! ## Notices and ports of the cellar (R407–R409, R414) -/

/-- A batch names at most 16,384 pages of a partition, and beyond that whole objects (R408). -/
def foldBatch (ns : List Notice) : List Notice :=
  allPts.flatMap fun k =>
    let mine := ns.filter fun n => n.part == k
    if mine.length ≤ 16384 then mine else (mine.map fun n => { n with page := none }).dedup

/-- NOTICE_BATCH_CUT: the batch of the tick is sent; a cellar write after it belongs to the next. -/
def execNoticeBatchCut (inTime : Bool) (s : State) : Out :=
  .next { s with cellar := { s.cellar with batch := some (foldBatch s.cellar.notices), notices := [], late := !inTime, lastWrite := 0 } }

/-- Does a cellar port carry flits? -/
def cpCarries (s : State) (p : Cp) : Bool := !bit s.cellar.cpFenced p.1 && bit s.cellar.cpUp p.1

/-- A cellar port fails with the 8th resend of a flit, of which those not yet counted are counted now: it is fenced, and its pages move
at the boundary (R414). -/
def failCellarPort (s : State) (p : Cp) : State :=
  let s := { s with cellar := { s.cellar with cpFenced := setBit s.cellar.cpFenced p.1 true, cpMove := true,
                                              resends := satAdd s.cellar.resends (8 - Vector.get s.cellar.tries p),
                                              tries := vmod s.cellar.tries p fun _ => 0 } }
  let s := noteFence s 4 p.1 6 true (allPts.filter fun k => s.parts[k].live)
  if cellarDown s then cellarPressLost s else s

/-- CP_PORT_FAIL: the 8th resend of a flit has failed. -/
def execCpPortFail (p : Cp) (s : State) : Out := .next (if cpCarries s p then failCellarPort s p else s)

/-- A flit fails its CRC on a cellar port and is resent (R22, R414). -/
def cellarCrcFail (s : State) (p : Cp) (again : Bool) : State :=
  if !cpCarries s p then s
  else
    let n := if again then Vector.get s.cellar.tries p else 0
    if 8 ≤ n then failCellarPort s p
    else { s with cellar := { s.cellar with resends := satAdd s.cellar.resends 1, tries := vmod s.cellar.tries p fun _ => n + 1 } }

/-! ## Scrubbing (R419–R424) -/

/-- Bytes of a bank that hold lines: the regions and device tables of a stack that is present, or the DRAM of the cellar with its CC
tables (R388, R389). -/
def bankBytes (s : State) (m : Ps) : Nat :=
  if m.1 < 8 then (if hbPresent s m.1 then 0xB2D05E000 else 0) else if s.full then 0xEE6B280000 else 0x7735940000

/-- What a scrub read of a line finds: an error that stands in its stored bits, or one that comes with the read. -/
def scrubFinds (s : State) (m : Ps) (line : Nat) (r : ScrubFound) : ScrubFound :=
  let x := Sparse.get LineMeta.zero (bank s m).lines line
  if x.poison then .clean
  else if x.ue then .uncorrectable
  else if x.ce ∧ r = .clean then .corrected
  else r

/-- SCRUB_READ: one line read by the scrubber of a stack or of the cellar (R422, R423). A corrected line is written back unless a
master has written it meanwhile. -/
def execScrubRead (m : Ps) (line : Nat) (r : ScrubFound) (raced : Bool) (s : State) : Out :=
  .next (if bankBytes s m ≤ 64 * line then s
    else
      let found := scrubFinds s m line r
      let s := s.modBank m fun b => { b with toScrub := b.toScrub.filter (· != line) }
      match found with
      | .clean => s
      | .corrected => countCe (s.modBank m fun b =>
          { b with lines := Sparse.set LineMeta.zero b.lines line { Sparse.get LineMeta.zero b.lines line with ce := false } }) m
      | .uncorrectable =>
        let s := foundUe s m line
        tearFenced (if raced then s.modBank m fun b =>
          { b with lines := Sparse.set LineMeta.zero b.lines line { Sparse.get LineMeta.zero b.lines line with poison := false } } else s))

/-- The adaptation of R422. -/
def adapt (up : BitVec 16) (x : Scrubber) : Scrubber :=
  let y : Scrubber :=
    if up.toNat ≤ x.ceSecond then { x with level := if x.level.toNat < 6 then x.level + 1 else 6, quiet := 0 }
    else if x.ceSecond = 0 then
      (if x.quiet + 1 = 60 then { x with level := if x.level = 0 then 0 else x.level - 1, quiet := 0 } else { x with quiet := x.quiet + 1 })
    else { x with quiet := 0 }
  { y with ceSecond := 0 }

/-- SCRUB_LEVEL_UPDATE: the first boundary after a second. A frozen scrubber holds LEVEL_SET (R424). -/
def execScrubLevelUpdate (m : Ps) (s : State) : Out :=
  .next (if h : m.1 < 8 then
      s.modStack ⟨m.1, h⟩ fun t => { t with scrub := if t.scrub.freeze then { t.scrub with level := t.scrub.levelSet, ceSecond := 0 } else adapt s.tiers.up t.scrub }
    else { s with cellar := { s.cellar with scrub := adapt s.tiers.up s.cellar.scrub } })

/-! ## Re-keying (R539–R544) -/

/-- Is a generation slot still needed: some region of the key ID is under it or on its way to it, or a binding names it? R526 lets no
access pass without the slot that the binding names. -/
def genUsed (s : State) (k : Pt) (keyId gen : Nat) : Bool :=
  (match memSlot s k keyId gen, bindingOf s k keyId with | some i, some b => bindSlot b == i | _, _ => false) ||
  allPss.any fun m =>
    let b := bank s m
    s.parts[k].mem.any fun o => o.keyId.toNat == keyId &&
      ((if m.1 < 8 then (if o.stack.1 = m.1 then o.hbmBase.toList else []) else o.celBase.toList).any fun base =>
        (List.range o.regions).any fun i => (regionGen b (base + i)).toNat == gen) ||
      (b.rekeys.any fun e => e.part == k && e.keyId.toNat == keyId && (e.oldGen.toNat == gen || e.newGen.toNat == gen))

/-- One line converted (R541, R543): read, with the errors that this finds, and written under the new key with counter 0. A line whose tag
fails is written poisoned, and one beneath a block or node that fails cannot be read or written (R537). -/
def convertLine (s : State) (m : Ps) (e : Rekey) : State :=
  let line := e.region * 32768 + e.ptr
  match objInBank s.parts[e.part] m (64 * line) with
  | none => s
  | some o =>
    let s := findErrors s m line
    let (s, fails) := usePath s m o line true
    match fails with
    | some n => noteIntegrity s e.part m.1 e.keyId.toNat (nodeLoc o m n) true
    | none =>
      let x := lineNow s m o line
      let bad := tagFails e.keyId.toNat x
      let s := if bad then noteIntegrity s e.part m.1 e.keyId.toNat (bankLoc m (64 * line)) false else s
      if !x.written && !bad && !x.poison then s
      else
        (blockChanged s m (treePath o m line)).modBank m fun b => { b with
          lines := Sparse.set LineMeta.zero b.lines line { x with
            written := true, keyId := e.keyId, gen := e.newGen, ctr := 0, poison := x.poison || bad, ue := false, ce := false,
            bad := false } }

/-- The next line of one of the first four re-keys of the stack is converted; after the last one the region is under the new key, and the
old slot is freed if nothing uses it (R540, R541). -/
def rekeyLine (m : Ps) (region : Nat) (s : State) : State :=
  match (((bank s m).rekeys.filter fun e => !e.waiting).take 4).find? fun e => e.region == region with
    | none => s
    | some e =>
      let s := convertLine s m e
      if e.ptr + 1 < 32768 then
        s.modBank m fun b => { b with rekeys := b.rekeys.map fun x => if x.region = region then { x with ptr := x.ptr + 1 } else x }
      else
        let s := s.modBank m fun b =>
          { b with gens := Sparse.set (0 : BitVec 24) b.gens region e.newGen, rekeys := b.rekeys.filter fun x => x.region != region }
        let k := e.part
        let s := notePart s k 0x23 m.1 e.keyId.toNat region
        let s := s.modPart k fun p => { p with session := { p.session with rekeys := satAdd p.session.rekeys 1 } }
        if genUsed s k e.keyId.toNat e.oldGen.toNat then s
        else match memSlot s k e.keyId.toNat e.oldGen.toNat with
          | some i => killSlot s i
          | none => s

/-- At the second boundary after the wait of a region began, a slot freed in that clock is in time; otherwise its writes fail (R544). -/
def expireWait (m : Ps) (region : Nat) (freedNow : Bool) (s : State) : State :=
  match (bank s m).rekeys.find? fun e => e.region == region with
    | some e =>
      if !e.waiting || e.failed || decide (e.bounds < 2) then s
      else
        let s := if freedNow then startWaiting s m region else s
        s.modBank m fun b => { b with rekeys := b.rekeys.map fun x => if x.region = region ∧ x.waiting then { x with failed := true } else x }
    | none => s

end Sys2Proof.Machine
end

