-- ==== Sys2Proof/Machine/Links.lean ====
section
/-! DEFINITION. Link ports, flits, routes, tentative data, the control tree and the norm exchange
(spec/10_constellation_links.md R431–R477). -/

namespace Sys2Proof.Machine

open Sys2Proof

def allLps : List Lp := List.finRange 18

/-! ## The tick and its slots (R49, R446, R459, R468) -/

/-- The start of slot k of 0 to 64 in tenths of a nanosecond under a period in µs, rounded down to the grain of the meridian. -/
def slotAt (us k : Nat) : Nat := us * 10000 * k / 64 / 8 * 8

def slot1At (us : Nat) : Nat := slotAt us 1

def slot1Tenths (s : State) : Nat := slot1At s.meridian.periodUs.toNat

/-- D_max under a period. -/
def depthLimitAt (us : Nat) : Nat := min 16 ((slot1At us - 240) / 960)

def depthLimit (s : State) : Nat := depthLimitAt s.meridian.periodUs.toNat

/-- F0: whole flits in slot 0. -/
def slot0Flits (s : State) : Nat := slot1Tenths s * 100 / 1280

/-- Flits that slot k carries at a width; L2 traffic ends 8 ns early. -/
def slotFlits (s : State) (k width : Nat) (l2 : Bool) : Nat :=
  let us := s.meridian.periodUs.toNat
  (slotAt us (k + 1) - slotAt us k - (if l2 then 80 else 0)) * width * 10 / 1024

/-! ## Ports -/

def Port.isUp (x : Port) : Bool := x.state == .up || x.state == .degraded

/-- The lanes in use for a mask of fenced lanes (R488). -/
def lanesWidth (mask : Byte) : Nat :=
  if mask = 0 then 8
  else if mask &&& 0x0F = 0 ∨ mask &&& 0xF0 = 0 then 4
  else if (List.range 4).any fun i => mask.toNat / 4 ^ i % 4 == 0 then 2
  else 0

/-- Errors of the current tick added to the window of R484. -/
def addWindow (now : W64) (w : List (W64 × Nat × Nat × Nat)) (tag proto crc : Nat) : List (W64 × Nat × Nat × Nat) :=
  let old := w.filter fun x => decide (now.toNat < x.1.toNat + 1024)
  match old.getLast? with
  | some (t, a, b, c) => if t = now then old.dropLast ++ [(t, a + tag, b + proto, c + crc)] else old ++ [(now, tag, proto, crc)]
  | none => [(now, tag, proto, crc)]

/-- Tag failures, protocol strikes and resent flits counted on a port. -/
def portErr (s : State) (p : Lp) (tag proto crc : Nat) : State :=
  s.modPort p fun x =>
    { x with tagFails := satAdd x.tagFails tag, protoStr := satAdd x.protoStr proto, crcRes := satAdd x.crcRes crc,
             tagTotal := satAdd x.tagTotal tag, protoTotal := satAdd x.protoTotal proto, crcTotal := satAdd x.crcTotal crc,
             window := addWindow s.meridian.tick x.window tag proto crc }

def strike (s : State) (p : Lp) : State := portErr s p 0 1 0

/-- The active route of an index. -/
def rtObj (s : State) (k : Pt) (idx : Nat) : Option SetupObj :=
  s.parts[k].objs.find? fun o => o.typ == 2 && o.idx.toNat == idx && (o.st == .active || o.st == .destroying)

/-- The partitions that a port serves: those with a route or a slot table on it. -/
def portServes (s : State) (p : Lp) : List Pt :=
  allPts.filter fun k => s.parts[k].objs.any fun o =>
    (o.typ == 2 && rtOp o.bytes != 5 && rtPort o.bytes == p.1) || (o.typ == 3 && stPort o.bytes == p.1)

/-! ## Routes (R451–R457) -/

def modRoute (s : State) (k : Pt) (idx : BitVec 16) (f : RouteRun → RouteRun) : State :=
  { s with links := { s.links with routes := s.links.routes.map fun r => if r.part = k ∧ r.idx = idx then f r else r } }

/-- Has a peer joined the session of a confidential partition (R547)? The anchor knows its peers; another device that has
joined takes its peers to have joined (notes/assumptions/33.md, DEDUCED). -/
def peerJoined (s : State) (k : Pt) (peer : Nat) : Bool :=
  let x := s.parts[k].session
  !s.parts[k].conf || (x.joined && (numAt x.manifest 24 2 != s.links.deviceId.toNat || x.peers.any fun d => d.toNat == peer))

/-- A route is activated (R453, R455): a SEND whose UNIT names a unit that is open then is tentative. -/
def startRoute (s : State) (k : Pt) (idx : BitVec 16) : State :=
  match rtObj s k idx.toNat with
  | none => s
  | some o =>
    if !peerJoined s k (rtPeer o.bytes) ∨ s.links.routes.any (fun r => r.part = k ∧ r.idx = idx) then s
    else if h : rtPort o.bytes < 18 then
      let send := rtOp o.bytes == 1
      let unit := if send && rtUnit o.bytes != 0 && (unitOf s.parts[k] (rtUnit o.bytes)).any (·.captured.isSome) then some (rtUnit o.bytes) else none
      let seq : W32 := if send then (match s.links.sendSeq.find? fun x => x.1 == k && x.2.1 == idx with | some x => x.2.2 | none => 0) else 0
      let r : RouteRun :=
        { part := k, idx := idx, port := ⟨rtPort o.bytes, h⟩,
          stream := if send then BitVec.ofNat 12 (rtPeerRoute o.bytes) else idx.setWidth 12, bytes := 0, seqFirst := seq, seq := seq,
          unit := unit, commitTick := none, sendTick := 0, lastNum := 0, sentAll := false, acked := false, tokenSent := false,
          err := 0, buf := [] }
      let s := match unit with
        | some m => modUnit s k m fun u => { u with routes := if u.routes.contains idx then u.routes else u.routes ++ [idx] }
        | none => s
      { s with links := { s.links with
          routes := s.links.routes ++ [r], sendSeq := s.links.sendSeq.filter fun x => !(send && x.1 == k && x.2.1 == idx) } }
    else s

/-- Is a revoked send of a route to go out again before anything else of the route (R318)? -/
def resendDue (s : State) (k : Pt) (idx : BitVec 16) : Bool :=
  s.parts[k].units.any (fun u => u.routes.contains idx) && s.links.sendSeq.any fun x => x.1 == k && x.2.1 == idx

/-- The oldest LINK_GO that waits for an activation of a route has its turn, if the route can be activated (R453, R547). -/
def startNextRoute (s : State) (k : Pt) (idx : BitVec 16) : State :=
  match s.parts[k].inflight.find? fun p => p.wait == .routeNext idx with
  | none => s
  | some p =>
    let t := startRoute s k idx
    if resendDue s k idx ∨ s.links.routes.any (fun r => r.part = k ∧ r.idx = idx) ∨ !t.links.routes.any (fun r => r.part = k ∧ r.idx = idx) then s
    else t.modPart k fun q => { q with inflight := q.inflight.map fun x => if x.id = p.id then { x with wait := .route idx } else x }

/-- A route completes: its signal, its LINK_GO command, and its NEXT, after an error too (R457, R466, R485); then a LINK_GO that waits for
the route. -/
def finishRoute (s : State) (r : RouteRun) (st : Nat) : State :=
  let k := r.part
  let s := { s with links := { s.links with
    routes := s.links.routes.filter fun x => !(x.part == k && x.idx == r.idx),
    gaps := s.links.gaps.filter fun g => !(g.1 == k && g.2.1.toNat == r.idx.toNat) } }
  match rtObj s k r.idx.toNat with
  | none => s
  | some o =>
    let n := rtN o.bytes
    let s := if n = 0 then s else if st = 0 then signalSync s (some k) 0xFF (rtSync o.bytes) n
      else if rtErr o.bytes ≠ 0 then signalSync s (some k) 0xFF (rtErr o.bytes) n else s
    let s := match s.parts[k].inflight.find? fun p => match p.wait with | .route i => i == r.idx | _ => false with
      | some p => endPending s p st 0 0 0
      | none => s
    let s := if fld (rtNext o.bytes) 31 28 = 2 ∧ fld (rtNext o.bytes) 27 26 = k.1 ∧ (objOf s.parts[k] (rtNext o.bytes)).isSome then
        startRoute s k (BitVec.ofNat 16 (rtNext o.bytes).toNat)
      else s
    startNextRoute s k r.idx

/-- Sends whose every flit is acknowledged, and whose token has been sent if they are tentative, complete. -/
def finishSends (s : State) : State :=
  (s.links.routes.filter fun r => r.sentAll && r.acked && (r.unit.isNone || r.tokenSent)).foldl (fun s r => finishRoute s r r.err.toNat) s

/-! ### Released flits applied in SEQ order (R456) -/

/-- RECV_SUM: each element of the destination with the one that arrives added. Poison of the destination stays. -/
def sumBytes (elem : Nat) (old : List PByte) (data : Bytes) : List PByte :=
  let w := if elem = 1 then 2 else 4
  ((List.range (data.length / w)).map fun i =>
    let o := (old.drop (4 * i)).take 4
    let d := BitVec.ofNat 32 (leNat (o.map (·.1)))
    let x := BitVec.ofNat 32 (numAt data (w * i) w)
    let sum := match elem with
      | 0 => fadd d x
      | 1 => fadd d (toF32 (Fmt.decode .bf16 x.toNat))
      | _ => d + x
    (leBytes 4 sum.toNat).map fun b => (b, o.any (·.2))).flatten

/-- Where the bytes of a flit go, and how many. -/
def flitDest (o : SetupObj) (r : RouteRun) (len : Nat) : Nat × Nat :=
  if rtOp o.bytes = 3 ∧ rtElem o.bytes = 1 then (rtAddr o.bytes + 2 * r.bytes, 2 * len) else (rtAddr o.bytes + r.bytes, len)

/-- An error that a transfer meets, logged with the bytes it was for (R425). -/
def noteMet (k : Pt) (a : Nat) (x : State × Nat) : State × Nat :=
  (if x.2 = 0 ∨ x.2 = stStalled then x.1 else badRequest x.1 k 0xFF x.2 (addrLoc a), x.2)

/-- The effect of a flit's data on the destination of its route: the state and the error. -/
def applyData (s : State) (k : Pt) (o : SetupObj) (r : RouteRun) (data : Bytes) : State × Nat :=
  let (a, n) := flitDest o r data.length
  match rtOp o.bytes with
  | 4 => (s, 0)
  | op =>
    match firstBad s k 6 a n true with
    | some (st, loc) => (badRequest s k 0xFF st loc, st)
    | none =>
      if op = 3 then
        match firstBad s k 6 a n false with
        | some (st, loc) => (badRequest s k 0xFF st loc, st)
        | none =>
          let x := readRange s k a n
          let (s, st) := writeRange x.s k a (sumBytes (rtElem o.bytes) x.bs data) false
          noteMet k a (s, if x.st ≠ 0 then x.st else st)
      else noteMet k a (writeRange s k a (clean data) false)

/-- The whole image of a RECV_MERGE passes to the merge window. -/
def applyMerge (s : State) (k : Pt) (o : SetupObj) (idx : BitVec 16) (bs : Bytes) : State × Option Nat :=
  match mergeAt s k (rtAddr o.bytes) with
  | some (c, t) => putImage s k c t (.route k idx) bs
  | none => (badRequest s k 0xFF 0x0F (addrLoc (rtAddr o.bytes)), some 0x0F)

/-- The stream position that a receive route waits for, revoked ones passed over. -/
def passGaps (s : State) (r : RouteRun) : (fuel : Nat) → W32 → W32
  | 0, q => q
  | fuel + 1, q =>
    match s.links.gaps.find? fun g => g.1 == r.part && g.2.1.toNat == r.idx.toNat && decide (g.2.2.1 ≤ q) && decide (q ≤ g.2.2.2) with
    | some g => passGaps s r fuel (g.2.2.2 + 1)
    | none => q

def isRecv (o : SetupObj) : Bool := rtOp o.bytes == 2 || rtOp o.bytes == 3 || rtOp o.bytes == 4

/-- The released flit that a receive route applies next, if it is here and its write need not wait. -/
def readyFlit (s : State) (r : RouteRun) : Option (SetupObj × HeldFlit) :=
  match rtObj s r.part r.idx.toNat with
  | none => none
  | some o =>
    if !isRecv o then none
    else
      let q := passGaps s r s.links.gaps.length r.seq
      match s.ports[r.port].held.find? fun h => h.part == r.part && h.stream == r.stream && h.seq == q && !h.tent with
      | some h => if wouldStall s (flitDest o r h.data.length).1 (flitDest o r h.data.length).2 then none else some (o, h)
      | none => none

/-- The route of lowest index with a flit to apply (R456). -/
def nextReady (s : State) : Option (RouteRun × SetupObj × HeldFlit) :=
  (s.links.routes.filterMap fun r => (readyFlit s r).map fun x => (r, x.1, x.2)).foldl (fun m x =>
    match m with | some y => if x.1.idx < y.1.idx then some x else some y | none => some x) none

/-- The buffer of a flit on a channel of a port is free: its credit goes back to the peer in the headers of sent flits (R440). -/
def giveBack (s : State) (p : Lp) (vc : Nat) : State :=
  s.modPort p fun x => { x with freed := vmod x.freed ⟨vc % 4, Nat.mod_lt _ (by decide)⟩ (· + 1) }

/-- A held flit leaves the buffers of a port, and its credit goes back. -/
def freeFlit (s : State) (p : Lp) (h : HeldFlit) : State :=
  giveBack (s.modPort p fun x => { x with held := x.held.filter (· != h), free := vmod x.free ⟨h.vc.toNat, h.vc.isLt⟩ (· + 1) }) p h.vc.toNat

/-- A released flit is applied. An activation moves LENGTH bytes; what a peer sends beyond them moves nothing, and the LAST flit ends the
activation (R453, R457; notes/assumptions/178.md, DEDUCED). -/
def applyOne (s : State) (r : RouteRun) (o : SetupObj) (h : HeldFlit) : State :=
  let k := r.part
  let data := h.data.take (rtLen o.bytes - r.bytes)
  let (s, st) := applyData (freeFlit s r.port h) k o r data
  let r := { r with bytes := r.bytes + data.length, seq := h.seq + 1, err := if r.err = 0 then BitVec.ofNat 8 st else r.err,
                    buf := if rtOp o.bytes = 4 then r.buf ++ data else r.buf }
  if h.last then
    match if rtOp o.bytes = 4 then applyMerge s k o r.idx r.buf else (s, some r.err.toNat) with
    | (s, some st) => finishRoute s r st
    | (s, none) => modRoute s k r.idx fun _ => r
  else modRoute s k r.idx fun _ => r

def applyLoop : (fuel : Nat) → State → State
  | 0, s => s
  | fuel + 1, s => match nextReady s with
    | some (r, o, h) => applyLoop fuel (applyOne s r o h)
    | none => s

/-- Every released flit that its route can take is applied. -/
def applyReleased (s : State) : State := tearFenced (applyLoop ((s.ports.toList.map fun x => x.held.length).sum + 1) s)

/-! ### Ports that leave service (R466, R484, R485) -/

/-- Is an active route on a port? A NORM route is on every port that it names (R476, R485). -/
def routeOn (s : State) (p : Lp) (r : RouteRun) : Bool :=
  r.port == p || match rtObj s r.part r.idx.toNat with
    | some o => rtOp o.bytes == 5 && (rtParent o.bytes == p.1 || rtChildren o.bytes / 2 ^ p.1 % 2 == 1)
    | none => false

/-- A port leaves UP and DEGRADED: its routes complete with the link-failed error and its held data are discarded. QF flits that wait for
a slot of the port go on waiting for one (notes/assumptions/177.md, DESIGN CHOICE). -/
def leavePort (s : State) (p : Lp) (st : PortState) : State :=
  let s := (s.links.routes.filter (routeOn s p)).foldl (fun s r => finishRoute s r 0x1A) s
  let s := s.modPort p fun x =>
    { x with state := st, width := 0, replay := [], shakeOut := [], rekey := none, lanesSent := 0, lost := satAdd x.lost (x.held.filter (·.tent)).length, held := [], treeParent := false,
             treeChild := false, upSeen := false, upDeep := 0, carry := [], treeDepth := 0xFF, peerLanes := 0, widthDue := false, widthSent := false, rekeyDue := [] }
  { s with links := { s.links with
      reports := s.links.reports.filter fun r => r.port != some p, timeSeen := s.links.timeSeen.filter fun x => x.1 != p,
      tokensDue := s.links.tokensDue.filter fun x => x.1 != p, normOut := s.links.normOut.filter fun x => x.1 != p } }

/-- A fence on a link port takes effect: by the operator (1) or on a threshold of R484. -/
def fencePort (s : State) (p : Lp) (cause : BitVec 3) (fenceCause : Nat) : State :=
  if s.ports[p].state = .fenced then s
  else
    let s := leavePort s p .fenced
    let s := s.modPort p fun x => { x with fence := true, fenceCause := cause }
    noteFence s 3 p.1 fenceCause true (portServes s p)

/-- The fence of a port is cleared. A quench recorded meanwhile stays in force (R97). -/
def unfencePort (s : State) (p : Lp) : State :=
  if s.ports[p].state ≠ .fenced then s
  else
    let s := s.modPort p fun x => { x with fence := false, fenceCause := 0, state := .down, window := [] }
    noteFence s 3 p.1 0 false (portServes s p)

/-! ## Flits as received (R433–R440) -/

def flTyp (f : Flit) : Nat := fld f.h0 31 28
def flVc (f : Flit) : Nat := fld f.h0 27 26
def flPart (f : Flit) : Pt := ⟨fld f.h0 25 24 % 4, Nat.mod_lt _ (by decide)⟩
def flTent (f : Flit) : Bool := bit f.h0 23
def flLast (f : Flit) : Bool := bit f.h0 22
def flLen (f : Flit) : Nat := fld f.h0 7 0
def flStream (f : Flit) : Nat := fld f.h1 31 20
def flData (f : Flit) : Bytes := slice f.payload 0 (flLen f)

/-- The flit number that ACK names, from its low 19 bits; none where nothing has been received good. -/
def ackedNum (txNum ack : Nat) : Option Nat :=
  let d := (txNum + 2 ^ 19 - 1 - ack % 2 ^ 19) % 2 ^ 19
  if d + 1 ≤ txNum then some (txNum - 1 - d) else none

/-- The flits of a port that the peer has not acknowledged up to number a leave the replay buffer, and sends whose last flit it has
acknowledged are done (R436, R457). -/
def acknowledged (s : State) (p : Lp) (a : Nat) : State :=
  let s := s.modPort p fun x => { x with replay := x.replay.filter fun y => decide (a < y.num) }
  { s with links := { s.links with
      routes := s.links.routes.map fun r => if r.port = p ∧ r.sentAll ∧ r.lastNum ≤ a then { r with acked := true } else r } }

/-- The flits that the peer asks for go out again as they were (R436, R438). -/
def resendAll (s : State) (p : Lp) : State :=
  let again := s.ports[p].replay
  portErr { s with links := { s.links with sent := s.links.sent ++ again } } p 0 0 again.length

/-- What the header of a good flit does: credits returned, flits acknowledged, or a resend asked for (R433, R436, R440). -/
def header (s : State) (f : Flit) : State :=
  let p := f.port
  let cv : Fin 4 := ⟨fld f.h0 21 20 % 4, Nat.mod_lt _ (by decide)⟩
  let n := ackedNum s.ports[p].txNum (fld f.h1 18 0)
  let s := s.modPort p fun x =>
    { x with credits := vmod x.credits cv (· + fld f.h0 19 8), rxNum := x.rxNum + 1, resends := 0, nak := false }
  let s := match n with
    | some a => acknowledged s p a
    | none => s
  finishSends (if bit f.h1 19 then resendAll s p else s)

/-- A flit that comes while a NAK stands and is not the one asked for: it is dropped (R436, R438). -/
def behindNak (s : State) (f : Flit) : Bool := s.ports[f.port].nak && !f.again

/-- Has the channel of a flit no buffer left, so that the peer had no credit for it (R440)? -/
def noBuffer (s : State) (f : Flit) : Bool := Vector.get s.ports[f.port].free ⟨flVc f % 4, Nat.mod_lt _ (by decide)⟩ == 0

/-- A good flit is dropped, and its port counts a strike; its buffer is free again if it had one. -/
def dropFlit (s : State) (f : Flit) : State :=
  strike (if noBuffer s f then s else giveBack s f.port (flVc f)) f.port

/-- A flit that its row's type fits: dropped with a strike without a credit (R440), on the wrong channel or outside its allowed place,
before UP (R435), and before tick lock unless it is TIME, IDLE or HANDSHAKE (R434). `body` takes a flit whose buffer is still its own. -/
def receiveHeld (s : State) (f : Flit) (typ : Nat) (vcOk placeOk : Bool) (body : State → State) : State :=
  if !lpPresent s f.port.1 || flTyp f != typ || decide (224 < flLen f) || behindNak s f then s
  else if s.ports[f.port].state = .handshake then dropFlit (header s f) f
  else if !s.ports[f.port].isUp then s
  else
    let s := header s f
    if noBuffer s f || !vcOk || !placeOk || !(s.links.locked || typ == 2) then dropFlit s f else body s

/-- A flit whose buffer is free as soon as it has taken effect. -/
def receive (s : State) (f : Flit) (typ : Nat) (vcOk placeOk : Bool) (body : State → State) : State :=
  receiveHeld s f typ vcOk placeOk fun s => body (giveBack s f.port (flVc f))

/-- May a flit whose contents are no single command come where it does? IDLE everywhere; TOKEN and ODP on L1 in slot 0 once the device is
locked; HANDSHAKE on L0, and in service in slot 0 only (R434, R435, R483). -/
def inPlace (s : State) (f : Flit) : Bool :=
  let up := s.ports[f.port].isUp
  match flTyp f with
  | 0 => true
  | 6 | 7 => up && s.links.locked && flVc f == 1 && f.slot == 0
  | 8 => flVc f == 0 && (!up || f.slot == 0)
  | _ => false

/-- IDLE_FLIT: a flit whose header is all that it brings: an IDLE flit, a flit of a reserved type, and a TOKEN, ODP or HANDSHAKE flit, whose
tokens, frames and messages are commands of their own (notes/assumptions/179.md, DESIGN CHOICE). Out of its place it is dropped with a
strike (R434, R483). -/
def execIdleFlit (f : Flit) (s : State) : Out :=
  .next (settled s (
    if !lpPresent s f.port.1 || !(s.ports[f.port].isUp || s.ports[f.port].state == .handshake) || behindNak s f then s
    else if [0, 6, 7, 8].contains (flTyp f) || decide (0xC ≤ flTyp f) then
      let s := header s f
      if noBuffer s f || !inPlace s f then dropFlit s f else giveBack s f.port (flVc f)
    else s))

/-- A flit with a wrong CRC, or with a good CRC and a wrong tag, is dropped and asked for again; a failure
of the 8th resend takes the port down (R436, R438). -/
def linkCrcFail (s : State) (p : Lp) (tag : Bool) : State :=
    if !lpPresent s p.1 || !(s.ports[p].isUp || s.ports[p].state == .handshake) then s
    else
      let s := if tag then portErr s p 1 0 0 else s
      if 8 ≤ s.ports[p].resends then leavePort s p .down
      else s.modPort p fun x => { x with nak := true, resends := x.resends + 1 }

/-- FLIT_CRC_FAIL on a link port or a cellar port (R414, R436). -/
def execFlitCrcFail (p : FlitPort) (tag : Bool) (s : State) : Out :=
  .next (settled s (match p with
    | .link p => linkCrcFail s p tag
    | .cellar p again => cellarCrcFail s p again))

/-- RESEND_LIMIT: the 8th resend of one flit has failed. -/
def execResendLimit (p : Lp) (s : State) : Out :=
  .next (settled s (if s.ports[p].isUp || s.ports[p].state == .handshake then leavePort s p .down else s))

/-! ## DATA and tokens (R446, R454, R462–R466) -/

/-- May partition k's L2 traffic, or its L3 traffic, use a slot with this code (R442, R443, R449)? -/
def slotServes (s : State) (k : Pt) (code : Nat) (l2 : Bool) : Bool :=
  if l2 then code == k.1 else code == k.1 + 4 || (!s.parts[k].conf && (code == 8 || decide (code < 4)))

/-- May a flit of partition k come in its slot: one that the two ends of the link give the same code, which serves the partition, and for
L2 within the window (R443, R444, R446)? -/
def slotTakes (s : State) (f : Flit) (l2 : Bool) : Bool :=
  let x := s.ports[f.port]
  slotServes s (flPart f) (slotCode x.slotMap f.slot.1) l2 && !bit x.mismatch f.slot.1 && (!l2 || f.inWindow)

/-- DATA_FLIT (R454): applied at once where its route is active and it is not tentative, else held. The padding of a
confidential partition's slots (R548) carries nothing. -/
def execDataFlit (f : Flit) (s : State) : Out :=
  let p := f.port
  let k := flPart f
  .next (settled s (receiveHeld s f 1 (flVc f == 2 || flVc f == 3) (f.slot.1 != 0) fun s =>
    let x := s.ports[p]
    let vc : Fin 4 := ⟨flVc f % 4, Nat.mod_lt _ (by decide)⟩
    let ok := match rtObj s k (flStream f) with
      | some o => isRecv o && rtPort o.bytes == p.1 && rtPeer o.bytes == x.peerId.toNat && peerJoined s k x.peerId.toNat
      | none => false
    if !ok || !slotTakes s f (flVc f == 2) then dropFlit s f
    else if flLen f = 0 ∧ s.parts[k].conf then giveBack s p (flVc f)
    else
      let h : HeldFlit := { part := k, stream := BitVec.ofNat 12 (flStream f), seq := f.seq, tent := flTent f, last := flLast f,
                            data := flData f, vc := BitVec.ofNat 2 (flVc f), tick := s.meridian.tick }
      applyReleased (s.modPort p fun x => { x with held := x.held ++ [h], free := vmod x.free vc (· - 1) })))

/-- Does a token cover a held flit? -/
def covers (t : Token) (h : HeldFlit) : Bool :=
  h.part == t.part && h.stream.toNat == t.stream.toNat && h.tent && decide (t.seqFirst ≤ h.seq) && decide (h.seq ≤ t.seqLast)

/-- Does the port hold every flit that a token covers? -/
def holdsAll (x : Port) (t : Token) : Bool :=
  decide (t.seqFirst ≤ t.seqLast) && (x.held.filter (covers t)).length == (t.seqLast - t.seqFirst).toNat + 1

/-- Flits discarded by a revoke token; their route passes over their positions (R318, R465). -/
def discard (s : State) (p : Lp) (t : Token) : State :=
  let hs := s.ports[p].held.filter (covers t)
  let s := hs.foldl (fun s h => freeFlit s p h) s
  let s := s.modPort p fun x => { x with discards := satAdd x.discards hs.length }
  { s with links := { s.links with gaps := s.links.gaps ++ [(t.part, BitVec.ofNat 12 t.stream.toNat, t.seqFirst, t.seqLast)] } }

/-- COMMIT_TOKEN: the flits it covers are released to their route; with a revoke of the same flits in the same control
slot they are discarded, with a strike (R464, R465). A fence that reaches the port in the same clock prevails (R466). -/
def execCommitToken (p : Lp) (x : TokenIn) (revokedToo : Bool) (s : State) : Out :=
  let t := x.token
  .next (settled s (
    if x.fencedToo || !s.ports[p].isUp || !s.links.locked then s
    else if !holdsAll s.ports[p] t then strike s p
    else if revokedToo then strike (applyReleased (discard s p t)) p
    else applyReleased (s.modPort p fun x => { x with held := x.held.map fun h => if covers t h then { h with tent := false } else h })))

/-- REVOKE_TOKEN (R465). A fence that reaches the port in the same clock prevails (R466). -/
def execRevokeToken (p : Lp) (x : TokenIn) (s : State) : Out :=
  let t := x.token
  .next (settled s (
    if x.fencedToo || !s.ports[p].isUp || !s.links.locked then s
    else if !holdsAll s.ports[p] t then strike s p
    else applyReleased (discard s p t)))

/-- Does a held flit end its activation, and so long ago that its token is overdue? The tick in which the last flit arrived is that in which
it was sent, SEND_TICK (notes/assumptions/96.md, DEDUCED). -/
def overdueLast (s : State) (h : HeldFlit) : Bool := h.tent && h.last && decide (h.tick.toNat + 3 ≤ s.meridian.tick.toNat)

/-- HELD_EXPIRY: tentative flits without a token by the end of the control slot of SEND_TICK + 3, the tick of the last flit of their
activation (R462, R466). -/
def execHeldExpiry (p : Lp) (s : State) : Out :=
  let x := s.ports[p]
  let old := x.held.filter fun h => h.tent && x.held.any fun l => overdueLast s l && l.part == h.part && l.stream == h.stream && decide (h.seq ≤ l.seq)
  .next (settled s (
    if old.isEmpty then s
    else
      let s := old.foldl (fun s h => freeFlit s p h) s
      let s := s.modPort p fun x => { x with lost := satAdd x.lost old.length }
      (s.links.routes.filter fun r => old.any fun h => h.part == r.part && h.stream.toNat == r.idx.toNat && r.port == p).foldl
        (fun s r => finishRoute s r 0x1A) s))

/-- May a SIGNAL of partition k use a slot: of a confidential partition only its own, of another any that is no confidential partition's
(R443, R444)? -/
def slotSignals (s : State) (f : Flit) : Bool :=
  let x := s.ports[f.port]
  let c := slotCode x.slotMap f.slot.1
  !bit x.mismatch f.slot.1 && (!s.parts[flPart f].conf || (decide (c < 8) && c % 4 == (flPart f).1))

/-- SIGNAL_FLIT (R81). -/
def execSignalFlit (f : Flit) (obj : BitVec 14) (n : BitVec 16) (s : State) : Out :=
  .next (settled s (receive s f 0xB (flVc f == 1) (f.slot.1 != 0) fun s =>
    if !slotSignals s f then strike s f.port else signalSync s (some (flPart f)) 0xFF obj.toNat n.toNat))

/-! ## LINK_GO (R65, R66, R453) -/

/-! ## The norm exchange (R355, R476, R477, R553) -/

def NormPartial.add (a b : NormPartial) : NormPartial :=
  let (v, r) := longAdd a.value b.value
  { value := v, low := a.low || b.low, range := a.range || b.range || r, nf := a.nf || b.nf, owners := a.owners ||| b.owners }

/-- The NORM route of a partition. -/
def normRoute (s : State) (k : Pt) : Option SetupObj :=
  s.parts[k].objs.find? fun o => o.typ == 2 && o.st == .active && rtOp o.bytes == 5

/-- The activation of the NORM route of a partition (R453). -/
def normRun (s : State) (k : Pt) : Option (SetupObj × RouteRun) :=
  (normRoute s k).bind fun o => (s.links.routes.find? fun r => r.part == k && r.idx == o.idx).map fun r => (o, r)

/-- The combined value reaches the partition; pass 2 may start at the next boundary (R357). -/
def deliverNorm (s : State) (k : Pt) (v : NormPartial) : State :=
  s.modPart k fun p => { p with step := { p.step with combined := some v, owners := v.owners } }

/-- NORM flits toward the ports of a mask. -/
def sendNorm (s : State) (k : Pt) (o : SetupObj) (mask : Nat) (v : NormPartial) : State :=
  let out := (allLps.filter fun p => mask / 2 ^ p.1 % 2 == 1).map fun p => (p, k, BitVec.ofNat 12 (rtPeerRoute o.bytes), v)
  { s with links := { s.links with normOut := s.links.normOut ++ out } }

/-- The combined value is delivered and goes on to the children, which ends the activation (R457, R476). -/
def combineNorm (s : State) (k : Pt) (o : SetupObj) (r : RouteRun) (v : NormPartial) : State :=
  finishRoute (sendNorm (deliverNorm s k v) k o (rtChildren o.bytes) v) r 0

/-- Everything heard and the route active: the sum goes to the parent, or at the root to the partition and to the children. -/
def normProgress (s : State) (k : Pt) : State :=
  match s.links.norms.find? (fun n => n.part == k), normRun s k with
  | some n, some (o, r) =>
    if n.own && (rtChildren o.bytes &&& n.heard.toNat) == rtChildren o.bytes then
      let s := { s with links := { s.links with norms := s.links.norms.filter fun x => x.part != k } }
      if rtParent o.bytes = 0x1F then combineNorm s k o r n.sum else sendNorm s k o (2 ^ rtParent o.bytes) n.sum
    else s
  | _, _ => s

/-- Every exchange that can go on does. -/
def pumpNorms (s : State) : State := allPts.foldl normProgress s

/-- A contribution to the exchange: a child's sum, or the device's own partial. -/
def normAdd (s : State) (k : Pt) (child : Option Lp) (v : NormPartial) : State :=
  if (normRoute s k).isNone then (if child.isNone then deliverNorm s k v else s)
  else
    let n := (s.links.norms.find? fun n => n.part == k).getD { part := k, heard := 0, sum := NormPartial.zero, own := false }
    let n := { n with sum := n.sum.add v, own := n.own || child.isNone, heard := match child with | some p => setBit n.heard p.1 true | none => n.heard }
    normProgress { s with links := { s.links with norms := n :: s.links.norms.filter fun x => x.part != k } } k

/-- LINK_GO at the head of its queue: it waits there while its route is pending, and once issued until the route can be activated. -/
def linkGoBody (k : Pt) (s : State) (p : Pending) : State :=
  let h := BitVec.ofNat 32 (fld p.e.w2 31 0)
  match findObj s k 2 h with
  | .bad => endPending s p 0x03 0 0 0
  | .wait => s
  | .ok _ =>
    let idx := BitVec.ofNat 16 h.toNat
    spadFences s (applyReleased (pumpNorms (startNextRoute (setWait s p (.routeNext idx)) k idx)))

def execLinkGo (k : Pt) (j : Fin 16) (e : Entry) (s : State) : Out :=
  .next (takeCmd s (.data k j) e 0x50 { w2 := 2 ^ 32 - 1 } fun s p => linkGoBody k (addPending s p) p)

/-! ## NORM flits (R476, R477, R553) -/

/-- The payload of a NORM flit. -/
def normPayload (p : Partition) (v : NormPartial) : Bytes :=
  [p.jobId, 0] ++ leBytes 2 (p.step.number.toNat % 65536) ++ leBytes 20 v.value.toNat ++
  [BitVec.ofNat 8 (v.low.toNat + 2 * v.range.toNat + 4 * v.nf.toNat), 0, 0, 0] ++ leBytes 4 v.owners.toNat

/-- NORM_FLIT (R476): from a child a sum, from the parent the combined value. -/
def execNormFlit (f : Flit) (s : State) : Out :=
  let p := f.port
  let k := flPart f
  .next (settled s (receive s f 9 (flVc f == 2) (f.slot.1 != 0) fun s =>
    let bs := slice f.payload 0 32
    let q := s.parts[k]
    let v : NormPartial :=
      { value := BitVec.ofNat 160 (numAt bs 4 20), low := bit (byteAt bs 24) 0, range := bit (byteAt bs 24) 1, nf := bit (byteAt bs 24) 2,
        owners := BitVec.ofNat 32 (numAt bs 28 4) }
    match normRoute s k with
    | none => strike s p
    | some o =>
      if o.idx.toNat ≠ flStream f ∨ byteAt bs 0 ≠ q.jobId ∨ numAt bs 2 2 ≠ q.step.number.toNat % 65536 ∨ !slotTakes s f true then strike s p
      else if rtParent o.bytes = p.1 then
        match normRun s k with
        | some (_, r) => applyReleased (pumpNorms (combineNorm s k o r v))
        | none => strike s p
      else if rtChildren o.bytes / 2 ^ p.1 % 2 = 1 then applyReleased (normAdd s k (some p) v)
      else strike s p))

/-! ## Step decisions (R320–R322, R471–R475) -/

/-- The reports of this device's partitions: those whose compute phase has ended, in an earlier tick, and which await a decision (R320). -/
def ownReports (s : State) : List Report :=
  (allPts.filter fun k => s.parts[k].live && s.parts[k].jobId != 0 && s.parts[k].step.phase == .decide &&
      decide (s.parts[k].step.endTick < s.meridian.tick)).map fun k =>
    let p := s.parts[k]
    { port := none, job := p.jobId, round := p.step.round, nf := p.step.localNf, nrep := 1 }

/-- Reports of one job and round joined. -/
def mergeReports (rs : List Report) : List Report :=
  rs.foldl (fun acc r =>
    if acc.any fun x => x.job == r.job && x.round == r.round then
      acc.map fun x => if x.job = r.job ∧ x.round = r.round then { x with nf := x.nf || r.nf, nrep := x.nrep + r.nrep } else x
    else acc ++ [{ r with port := none }]) []

/-- The last decided round of a job; before the first one, round 15. -/
def lastRound (s : State) (j : Byte) : BitVec 4 := match s.links.jobs.find? fun x => x.id == j with | some x => x.round | none => 15

/-- STEP_LO of a decision: the step number of the lodestar's own partition of the job, else one more than the last after
a CLEAR (notes/assumptions/27.md, DEDUCED). -/
def decisionStep (s : State) (j : Byte) : BitVec 16 :=
  match allPts.find? fun k => s.parts[k].live && s.parts[k].jobId == j with
  | some k => s.parts[k].step.number.setWidth 16
  | none => match s.links.jobs.find? fun x => x.id == j with
    | some x => if x.state = 1 then x.stepLo + 1 else x.stepLo
    | none => 1

/-- A partition accepts a decision (R38, R39, R322, R474). -/
def acceptDecision (s : State) (k : Pt) (clear : Bool) : State :=
  s.modPart k fun p =>
    { p with step := { p.step with round := p.step.round + 1, finalNf := !clear, phase := if clear then .armed else .skipped } }

/-- Every partition whose round and step number a decision meets accepts it. -/
def acceptJobs (s : State) : State :=
  allPts.foldl (fun s k =>
    let p := s.parts[k]
    match s.links.jobs.find? fun j => j.id == p.jobId with
    | some j => if p.live ∧ p.jobId ≠ 0 ∧ p.step.phase = .decide ∧ j.round = p.step.round ∧ j.stepLo = p.step.number.setWidth 16 then
        acceptDecision s k (j.state == 1) else s
    | none => s) s

def setJob (s : State) (j : Job) : State :=
  { s with links := { s.links with jobs := (s.links.jobs.filter fun x => x.id != j.id) ++ [j] } }

/-- DECISION_MISMATCH rises where more partitions have reported than the job has. -/
def noteExcess (s : State) (excess : Bool) : State :=
  if excess then { s with links := { s.links with mismatch := satAdd s.links.mismatch 1 } } else s

/-- The last decision of a job turns out to have had too many reports: it becomes SET, also for the partition here that has taken it as
CLEAR and awaits its first pass (R473). -/
def overDecided (s : State) (j : Job) : State :=
  let s := setJob (noteExcess s true) { j with state := 2, excess := true }
  allPts.foldl (fun s k =>
    if s.parts[k].live ∧ s.parts[k].jobId = j.id ∧ s.parts[k].step.phase = .armed ∧ s.parts[k].step.round = j.round + 1 then
      s.modPart k fun p => { p with step := { p.step with finalNf := true, phase := .skipped } }
    else s) s

/-- The lodestar decides the rounds whose reports are complete (R473). -/
def decideJobs (s : State) : State :=
  if !s.links.locked || s.links.lodestar != s.links.deviceId then s
  else
    acceptJobs ((mergeReports (ownReports s ++ s.links.reports)).foldl (fun s r =>
      let size := (Sparse.get (0 : W32) s.links.jobSize r.job.toNat).toNat
      let excess := decide (size < r.nrep)
      if r.round = lastRound s r.job + 1 ∧ size ≤ r.nrep then
        setJob (noteExcess s excess) { id := r.job, round := r.round, state := if r.nf || excess then 2 else 1, stepLo := decisionStep s r.job, excess := excess }
      else match s.links.jobs.find? fun x => x.id == r.job with
        | some j => if excess ∧ r.round = j.round ∧ !j.excess then overDecided s j else s
        | none => s) s)

/-- Best candidate of two: preferred before eligible, then the lowest device ID (R492). -/
def betterCand (pa : BitVec 2) (a : BitVec 16) (pb : BitVec 2) (b : BitVec 16) : Bool :=
  decide (pb < pa) || (pa == pb && decide (a < b))

/-- The channel whose freed credits the next header returns: the lowest that has any (notes/assumptions/180.md, DESIGN CHOICE). -/
def creditLine (x : Port) : Fin 4 := ((List.finRange 4).find? fun v => Vector.get x.freed v != 0).getD 0

/-- The flit that a port sends next: credits of one channel, the NAK and the number of the last good flit go in its header (R433). -/
def flitOf (x : Port) (p : Lp) (slot : Fin 64) (typ vc part stream : Nat) (seq : W32) (tent last : Bool) (payload : Bytes) : SentFlit :=
  { port := p, slot := slot, num := x.txNum, epoch := x.epochOut, typ := BitVec.ofNat 4 typ, vc := BitVec.ofNat 2 vc, part := BitVec.ofNat 2 part,
    crvc := BitVec.ofNat 2 (creditLine x).1, crd := BitVec.ofNat 12 (min 4095 (Vector.get x.freed (creditLine x))), nak := x.nak,
    ack := BitVec.ofNat 19 (x.rxNum + 2 ^ 19 - 1), stream := BitVec.ofNat 12 stream, seq := seq, tent := tent, last := last, payload := payload }

/-- A flit put on the wire: its credit, its number, its place in the replay buffer, and the record of what was sent. -/
def sendFlit (s : State) (p : Lp) (slot : Fin 64) (typ vc part stream : Nat) (seq : W32) (tent last : Bool) (payload : Bytes) : State :=
  let f := flitOf s.ports[p] p slot typ vc part stream seq tent last payload
  let s := s.modPort p fun x =>
    { x with txNum := x.txNum + 1, replay := x.replay ++ [f], ackTold := x.rxNum, freed := vmod x.freed (creditLine x) (· - 4095),
             credits := vmod x.credits ⟨vc % 4, Nat.mod_lt _ (by decide)⟩ (· - 1) }
  { s with links := { s.links with sent := s.links.sent ++ [f] } }

/-- May a port send on a channel: with a credit of the peer (R440), and room in the replay buffer of 2,048 flits (R436, R439)? -/
def hasCredit (s : State) (p : Lp) (vc : Nat) : Bool := (s.ports[p].credits.toList.getD vc 0) != 0 && decide (s.ports[p].replay.length < 2048)

/-- The header of a flit (R433). -/
def flitHeader (x : SentFlit) : Bytes :=
  leBytes 4 (x.typ.toNat * 2 ^ 28 + x.vc.toNat * 2 ^ 26 + x.part.toNat * 2 ^ 24 + x.tent.toNat * 2 ^ 23 + x.last.toNat * 2 ^ 22 +
    x.crvc.toNat * 2 ^ 20 + x.crd.toNat * 2 ^ 8 + x.payload.length) ++
  leBytes 4 (x.stream.toNat * 2 ^ 20 + x.nak.toNat * 2 ^ 19 + x.ack.toNat) ++ leBytes 4 x.seq.toNat

/-- The 256 bytes of a flit on the wire under the key of its direction; before UP in the clear with a tag of zeros (R433, R435, R436). The
payload is padded with zeros, and the IV is big-endian (notes/assumptions/181.md, DESIGN CHOICE). -/
def flitBytes (key : Option Bytes) (x : SentFlit) : Bytes :=
  let h := flitHeader x
  let body := slice (x.payload ++ List.replicate 224 0) 0 224
  let iv := beBytes 4 x.epoch.toNat ++ beBytes 8 x.num
  let b := match key with
    | some key =>
      let ct := gcmCrypt key iv body
      h ++ ct ++ gcmTag key iv h ct
    | none => h ++ body ++ List.replicate 16 0
  b ++ leBytes 4 (crc32c b).toNat

/-- An IDLE flit, where the peer is owed credits, an acknowledgement or a NAK and no other flit has told it (notes/assumptions/180.md,
DESIGN CHOICE). -/
def sendIdle (s : State) (p : Lp) (slot : Fin 64) : State :=
  let x := s.ports[p]
  if (x.nak || x.rxNum != x.ackTold || x.freed.toList.any (· != 0)) && hasCredit s p 0 then sendFlit s p slot 0 0 0 0 0 false false [] else s

/-- A flit of the control slot, where the peer has a buffer for it (R440). -/
def sendCtl (s : State) (p : Lp) (typ vc : Nat) (payload : Bytes) : State :=
  if hasCredit s p vc then sendFlit s p 0 typ vc 0 0 0 false false payload else s

/-- The payload of a TIME flit (R460), with the transmit time of its first block. -/
def timePayload (s : State) (p : Lp) (tx : Bytes) : Bytes :=
  let l := s.links
  let (period, eff) := match s.meridian.periodNew with | some (n, t) => (n, t) | none => (s.meridian.periodUs, 0)
  leBytes 8 s.meridian.tick.toNat ++ leBytes 2 (if l.locked then l.lodestar else l.candId).toNat ++ leBytes 2 l.standby.toNat ++
  leBytes 4 l.epoch.toNat ++ [if l.locked then l.depth else 0xFF, l.depthMax, period, l.timeRef] ++ leBytes 8 eff.toNat ++ tx ++
  leBytes 4 s.ports[p].lastRx.toNat ++ [if l.locked then 0 else l.candPref.setWidth 8, 0, 0, 0]

/-- A TIME flit at a time after the boundary, which the port keeps for the measure of its delay (R495). -/
def sendTime (s : State) (p : Lp) (tx : Bytes) : State :=
  (sendCtl s p 2 0 (timePayload s p tx)).modPort p fun x => { x with lastTx := BitVec.ofNat 32 (leNat tx) }

/-- Entries of 4 bytes packed into payloads, n in each and at least one payload. -/
def packEntries (n : Nat) : (fuel : Nat) → List Bytes → List Bytes
  | 0, es => [es.flatten]
  | fuel + 1, es => if es.length ≤ n then [es.flatten] else (es.take n).flatten :: packEntries n fuel (es.drop n)

/-- The payloads of TREE_UP: the best candidate of the subtree, and the reports (R472). -/
def treeUpPayloads (s : State) : List Bytes :=
  let l := s.links
  let own := l.pref != 0 && l.deviceId != l.lodestar && betterCand l.pref l.deviceId l.treeCandPref l.treeCand
  let rs := (mergeReports (ownReports s ++ l.reports)).map fun r =>
    leBytes 4 (r.job.toNat * 2 ^ 24 + r.round.toNat * 2 ^ 20 + r.nf.toNat * 2 ^ 19 + r.nrep % 2 ^ 17)
  (packEntries 55 rs.length rs).map fun bs =>
    leBytes 2 (if own then l.deviceId else l.treeCand).toNat ++ leBytes 2 (if own then l.pref else l.treeCandPref).toNat ++ bs

/-- The payloads of the lodestar's TREE_DOWN: the last decision of every job, and an entry of JOB_SIZE (R474, R475). -/
def treeDownPayloads (s : State) : List Bytes :=
  let j := s.links.jobNow
  let ds := s.links.jobs.map fun x => leBytes 4 (x.id.toNat * 2 ^ 24 + x.round.toNat * 2 ^ 20 + x.state.toNat * 2 ^ 18 + x.stepLo.toNat)
  (packEntries 54 ds.length ds).map fun bs => bs ++ [BitVec.ofNat 8 j, 0, 0, 0] ++ leBytes 4 (Sparse.get (0 : W32) s.links.jobSize j).toNat

/-- TREE_UP to the tree parent (R470). Arrivals of the control slot after it send it anew (notes/assumptions/157.md, DESIGN CHOICE). -/
def sendUp (s : State) : State :=
  (allLps.filter fun p => s.ports[p].state == .up && s.ports[p].treeParent).foldl (fun s p => (treeUpPayloads s).foldl (fun s bs => sendCtl s p 3 0 bs) s) s

/-- TREE_DOWN to every tree child. -/
def sendDown (s : State) (payloads : List Bytes) : State :=
  (allLps.filter fun p => s.ports[p].state == .up && s.ports[p].treeChild).foldl (fun s p => payloads.foldl (fun s bs => sendCtl s p 4 0 bs) s) s

/-- The tree flits of this device: up to the parent, and at the lodestar down to the children. -/
def sendTree (s : State) : State :=
  if !s.links.locked then s
  else if s.links.lodestar = s.links.deviceId then sendDown s (treeDownPayloads s)
  else sendUp s

/-- The largest depth that the children of a device report, at least its own (R467). -/
def deepest (s : State) : Byte :=
  allLps.foldl (fun d p => if s.ports[p].treeChild && decide (d < s.ports[p].upDeep) then s.ports[p].upDeep else d) s.links.depth

/-- TREE_UP (R472): the reports and the candidate of a child's subtree, which go on to the parent, or at the lodestar into its
decisions; D, which the lodestar announces in DMAX (R467). -/
def execTreeUp (u : TreeIn) (s : State) : Out :=
  let f := u.flit
  let p := f.port
  .next (settled s (receive s f 3 (flVc f == 0) (f.slot.1 == 0) fun s =>
    if s.ports[p].state ≠ .up then strike s p
    else
      let bs := flData f
      let cand := BitVec.ofNat 16 (numAt bs 0 2)
      let pref := BitVec.ofNat 2 (numAt bs 2 1)
      let rs : List Report := (List.range ((bs.length - 4) / 4)).map fun i =>
        let w := BitVec.ofNat 32 (numAt bs (4 + 4 * i) 4)
        { port := some p, job := BitVec.ofNat 8 (fld w 31 24), round := BitVec.ofNat 4 (fld w 23 20), nf := bit w 19, nrep := fld w 16 0 }
      let s := s.modPort p fun x => { x with treeChild := true, upSeen := true, upDeep := u.deep }
      let l := s.links
      let better := pref != 0 && cand != l.lodestar && betterCand pref cand l.treeCandPref l.treeCand
      let l := { l with reports := (l.reports.filter fun r => !(r.port == some p && rs.any fun x => x.job == r.job && x.round == r.round)) ++
                          rs.filter fun r => r.job != 0,
                        treeCand := if better then cand else l.treeCand, treeCandPref := if better then pref else l.treeCandPref,
                        depthMax := if l.lodestar = l.deviceId then deepest s else l.depthMax }
      sendTree (decideJobs { s with links := if l.lodestar = l.deviceId && better then { l with standby := cand } else l })))

/-- TREE_DOWN (R470, R474, R475): the last decisions, and one entry of JOB_SIZE for the next boundary; it goes on to the children. -/
def execTreeDown (f : Flit) (s : State) : Out :=
  let p := f.port
  .next (settled s (receive s f 4 (flVc f == 0) (f.slot.1 == 0) fun s =>
    if s.ports[p].state ≠ .up ∨ !s.ports[p].treeParent ∨ flLen f < 8 then strike s p
    else
      let bs := flData f
      let s := (List.range ((bs.length - 8) / 4)).foldl (fun s i =>
        let w := BitVec.ofNat 32 (numAt bs (4 * i) 4)
        setJob s { id := BitVec.ofNat 8 (fld w 31 24), round := BitVec.ofNat 4 (fld w 23 20), state := BitVec.ofNat 2 (fld w 19 18),
                   stepLo := BitVec.ofNat 16 (fld w 15 0), excess := false }) s
      let e := bs.drop (bs.length - 8)
      sendDown (acceptJobs { s with links := { s.links with jobSizeNew := s.links.jobSizeNew ++ [(byteAt e 0, BitVec.ofNat 32 (numAt e 4 4))] } }) [bs]))

/-! ## QF: quench and fence (R93–R97, R461) -/

def qfKind (f : Flit) : Nat := (byteAt f.payload 0).toNat
def qfScope (f : Flit) : Nat := (byteAt f.payload 1).toNat
def qfTarget (f : Flit) : Nat := (byteAt f.payload 2).toNat

/-- A QF flit for a port: outside slot 0 at most four L0 flits a slot leave it, and further ones, or one without credit, wait for the next
slot (R86). -/
def sendQf (s : State) (p : Lp) (k : Pt) (payload : Bytes) : State :=
  let x := s.ports[p]
  if (x.txSlot != 0 && decide (4 ≤ x.l0Count)) || !hasCredit s p 0 || !x.qfWait.isEmpty then s.modPort p fun x => { x with qfWait := x.qfWait ++ [(k, payload)] }
  else sendFlit (s.modPort p fun x => { x with l0Count := x.l0Count + 1 }) p x.txSlot 5 0 k.1 0 0 false false payload

/-- The L0 flits that wait for the slot of a port (R84, R86). -/
def releaseQf (s : State) (p : Lp) : State :=
  s.ports[p].qfWait.foldl (fun s x => sendQf s p x.1 x.2) (s.modPort p fun x => { x with qfWait := [] })

/-- A QF flit goes on: along its PATH, or out of every UP port when it floods (R461). -/
def forwardQf (s : State) (f : Flit) (hop : Nat) : State :=
  let hops := (byteAt f.payload 7).toNat
  let outs := if hops = 0xFF then allLps.filter fun p => s.ports[p].isUp
    else if 12 < hops ∨ hops ≤ hop then []
    else
      match allLps.find? fun p => (byteAt f.payload (8 + hop)).toNat == p.1 with
      | some p => if s.ports[p].isUp then [p] else []
      | none => []
  outs.foldl (fun s p => sendQf s p (flPart f) f.payload) s

/-- A quench and fence command as it takes effect on this device: `act` for the device that DEST names. At most four QF
flits of a slot other than slot 0 are accepted from a port (R86, R434). -/
def qf (o : QfFrom) (kind : Nat) (act : State → State) (s : State) : State :=
  let f := o.flit
  let p := f.port
  receive s f 5 (flVc f == 0) true fun s =>
    let src := BitVec.ofNat 16 (numAt f.payload 5 2)
    let dest := BitVec.ofNat 16 (numAt f.payload 3 2)
    let n := if s.ports[p].qfSlot = f.slot.1 then s.ports[p].qfCount else 0
    if qfKind f ≠ kind then s
    else if (f.slot.1 ≠ 0 ∧ 4 ≤ n) ∨ !(src = s.links.lodestar ∨ src = s.links.deviceId) then strike s p
    else
      let s := s.modPort p fun x => { x with qfSlot := f.slot.1, qfCount := n + 1 }
      if dest = s.links.deviceId then act s else forwardQf s f o.hop

/-- The ports that SCOPE and TARGET name. -/
def qfPorts (f : Flit) : List Lp := match qfScope f with | 0 => allLps.filter fun p => p.1 == qfTarget f | 2 => allLps | _ => []

/-- The named source stops admitting new L2 and L3 traffic. -/
def setQuench (s : State) (f : Flit) : State :=
  match qfScope f with
  | 0 => (qfPorts f).foldl (fun s p => s.modPort p fun x => { x with quenched := true, unquench := false }) s
  | 1 => (allPts.filter fun k => k.1 == qfTarget f).foldl (fun s k => s.modPart k fun p => { p with quenched := true, unquench := false }) s
  | 2 => { s with links := { s.links with quenchAll := true, unquench := false } }
  | _ => s

/-- QUENCH: with a fence of the same unit in the same clock, the fence is applied and the quench stays recorded (R97). -/
def execQuench (o : QfFrom) (fenceToo : Bool) (s : State) : Out :=
  .next (settled s (qf o 1 (fun s =>
    let s := setQuench s o.flit
    if fenceToo then (qfPorts o.flit).foldl (fun s p => fencePort s p 1 1) s else s) s))

/-- LIFT_QUENCH takes effect at the next boundary (R95). -/
def execLiftQuench (o : QfFrom) (s : State) : Out :=
  .next (settled s (qf o 2 (fun s =>
    match qfScope o.flit with
    | 0 => (qfPorts o.flit).foldl (fun s p => s.modPort p fun x => { x with unquench := true }) s
    | 1 => (allPts.filter fun k => k.1 == qfTarget o.flit).foldl (fun s k => s.modPart k fun p => { p with unquench := true }) s
    | 2 => { s with links := { s.links with unquench := true } }
    | _ => s) s))

/-- FENCE and UNFENCE of the ports that a QF flit names; a partition is no unit that a fence isolates (R96;
notes/assumptions/28.md, DEDUCED). -/
def execFence (o : QfFrom) (s : State) : Out :=
  .next (settled s (qf o 3 (fun s => (qfPorts o.flit).foldl (fun s p => if lpPresent s p.1 then fencePort s p 1 1 else s) s) s))

/-- A port that is fenced on a threshold stays fenced until the operator clears the fence through LP_FENCE (R484). -/
def execUnfence (o : QfFrom) (s : State) : Out :=
  .next (settled s (qf o 4 (fun s => (qfPorts o.flit).foldl (fun s p => if s.ports[p].fenceCause = 1 then unfencePort s p else s) s) s))

/-! ## WIDTH (R487–R489) -/

/-- WIDTH_FLIT: the peer's mask of fenced lanes, in byte 0; both masks are applied at the next boundary. -/
def execWidthFlit (f : Flit) (s : State) : Out :=
  .next (settled s (receive s f 0xA (flVc f == 0) (f.slot.1 == 0) fun s =>
    s.modPort f.port fun x => { x with peerLanes := byteAt f.payload 0, widthSent := true }))

/-! ## What a port sends in a slot (R445, R447–R449, R458, R463) -/

def tokenBytes (commit : Bool) (t : Token) : Bytes :=
  [if commit then 1 else 2, BitVec.ofNat 8 t.part.1] ++ leBytes 2 t.stream.toNat ++ leBytes 4 t.seqFirst.toNat ++
  leBytes 4 t.seqLast.toNat ++ leBytes 2 t.sendTick.toNat ++ [0, 0]

/-- The tokens that a port sends in this control slot: revokes, and commits of units that retired, and of activations
whose last flit was sent, in an earlier tick (R463). -/
def commitDue (s : State) (p : Lp) (r : RouteRun) : Bool :=
  r.port == p && r.sentAll && !r.tokenSent && decide (r.sendTick < s.meridian.tick) &&
  (match r.commitTick with | some t => decide (t < s.meridian.tick) | none => false)

/-- Tokens that the control slot of a port has room for: 32 flits are kept for L0, ODP and resends (R459), and each flit of tokens
takes a credit. -/
def tokenRoom (s : State) (p : Lp) : Nat := 14 * min (slot0Flits s * s.ports[p].width.toNat / 8 - 32) (Vector.get s.ports[p].credits 1)

/-- The revokes and the commits that the slot takes, revokes first; what has no room waits. -/
def revokesOut (s : State) (p : Lp) : List (Lp × Token) := (s.links.tokensDue.filter fun x => x.1 == p).take (tokenRoom s p)
def commitsOut (s : State) (p : Lp) : List RouteRun := (s.links.routes.filter (commitDue s p)).take (tokenRoom s p - (revokesOut s p).length)

def tokensOut (s : State) (p : Lp) : List Bytes :=
  ((revokesOut s p).map fun x => tokenBytes false x.2) ++
  (commitsOut s p).map fun r =>
    tokenBytes true { part := r.part, stream := r.stream.setWidth 16, seqFirst := r.seqFirst, seqLast := r.seq - 1, sendTick := r.sendTick.setWidth 16 }

/-- Tokens packed, up to 14 in a flit. -/
def packTokens : (fuel : Nat) → List Bytes → List Bytes
  | 0, _ => []
  | fuel + 1, ts => if ts.isEmpty then [] else (ts.take 14).flatten :: packTokens fuel (ts.drop 14)

/-- HANDSHAKE flits of a port, up to n of those that wait (R480, R483). -/
def pumpShake (s : State) (p : Lp) : (n : Nat) → State
  | 0 => s
  | n + 1 =>
    let s := pumpShake s p n
    match s.ports[p].shakeOut with
    | bs :: rest => if hasCredit s p 0 then sendFlit (s.modPort p fun x => { x with shakeOut := rest }) p s.ports[p].txSlot 8 0 0 0 0 false false bs else s
    | [] => s

/-- WIDTH, with the mask of the lanes that this side has fenced (R488). -/
def sendWidth (s : State) (p : Lp) : State :=
  let x := s.ports[p]
  if x.widthDue && hasCredit s p 0 then
    (sendCtl s p 0xA 0 [x.lanesFenced ||| x.opLanes]).modPort p fun x => { x with widthDue := false, widthSent := true, lanesSent := x.lanesFenced ||| x.opLanes }
  else s

/-- What the control slot of a port carries after TIME and the tree flits (R458): QF flits that waited, WIDTH, at most four flits of a re-key
(R483), tokens, then ODP. -/
def controlSlot (s : State) (p : Lp) : State :=
  let s := pumpShake (sendWidth (releaseQf s p) p) p 4
  let rs := revokesOut s p
  let cs := commitsOut s p
  let s := (packTokens (tokensOut s p).length (tokensOut s p)).foldl (fun s bs => sendCtl s p 6 1 bs) s
  let s := { s with links := { s.links with
    tokensDue := s.links.tokensDue.filter fun x => !rs.contains x,
    routes := s.links.routes.map fun r => if cs.contains r then { r with tokenSent := true } else r } }
  let mine := s.dict.odpOut.filter fun x => x.1 == p
  let n := min 8 (Vector.get s.ports[p].credits 1)
  let s := (mine.take n).foldl (fun s x => sendCtl s p 7 1 x.2) s
  let s := { s with dict := { s.dict with odpOut := (s.dict.odpOut.filter fun x => x.1 != p) ++ mine.drop n } }
  finishSends (sendIdle s p 0)

/-- Is the image that a SEND reads at the merge window one that waits for drains already? -/
def routePinned (s : State) (r : RouteRun) : Bool := s.clusters.toList.any fun c => c.window.any fun p => p.via == .route r.part r.idx

/-- The image that a SEND sends, taken at the merge window (R231): of the length of the route, or the address-range error. -/
def takeImage (s : State) (r : RouteRun) (o : SetupObj) (c : Tc) (t : Nat) : RangeRead :=
  match getImage s r.part c t with
  | some (s', bs) => if bs.length = rtLen o.bytes then ⟨modRoute s' r.part r.idx fun x => { x with buf := bs }, clean bs, 0, none⟩ else ⟨s, [], 0x10, none⟩
  | none => ⟨s, [], 0x10, none⟩

/-- The drains that a SEND of an image waits for before its first flit (R233); none where it has its image. -/
def sendAwaits (s : State) (r : RouteRun) (o : SetupObj) : Option (Tc × Pinned) :=
  match mergeAt s r.part (rtAddr o.bytes) with
  | some (c, t) =>
    let long := bit (tileEntry s.clusters[c] t) 30
    if r.buf.isEmpty then (lastOnTile s.clusters[c] long (tileOf long t)).map fun n =>
      (c, { after := n, long := long, tile := tileOf long t, what := .take t, via := .route r.part r.idx })
    else none
  | none => none

/-- The next n bytes of a SEND. -/
def sendSource (s : State) (r : RouteRun) (o : SetupObj) (n : Nat) : RangeRead :=
  match mergeAt s r.part (rtAddr o.bytes) with
  | some (c, t) =>
    if !r.buf.isEmpty then ⟨s, clean (slice r.buf r.bytes n), 0, none⟩
    else
      let x := takeImage s r o c t
      { x with bs := x.bs.take n }
  | none =>
    match firstBad s r.part 6 (rtAddr o.bytes + r.bytes) n false with
    | some (st, _) => ⟨s, [], st, none⟩
    | none => readRange s r.part (rtAddr o.bytes + r.bytes) n

/-- One flit of a SEND; an error of its read ends the route (R425). -/
def sendOne (s : State) (p : Lp) (slot : Fin 64) (r : RouteRun) (o : SetupObj) (vc : Nat) : State :=
  let n := min 224 (rtLen o.bytes - r.bytes)
  match sendAwaits s r o with
  | some (c, p) => s.modCluster c fun t => { t with window := t.window ++ [p] }
  | none =>
    let x := sendSource s r o n
    if x.st ≠ 0 then finishRoute (badRequest x.s r.part 0xFF x.st (addrLoc (rtAddr o.bytes + r.bytes))) r x.st
    else
      let last := decide (rtLen o.bytes ≤ r.bytes + n)
      let num := x.s.ports[p].txNum
      let s := sendFlit x.s p slot 1 vc r.part.1 r.stream.toNat r.seq r.unit.isSome last (x.bs.map (·.1))
      modRoute s r.part r.idx fun y =>
        { y with bytes := y.bytes + n, seq := y.seq + 1, sendTick := s.meridian.tick, lastNum := num, sentAll := last }

/-- The SEND route of partition k on port p with an index, if it has flits to send. -/
def sendRun (s : State) (p : Lp) (k : Pt) (idx : Nat) : Option (RouteRun × SetupObj) :=
  match s.links.routes.find? fun r => r.part == k && r.idx.toNat == idx && r.port == p && !r.sentAll, rtObj s k idx with
  | some r, some o => if rtOp o.bytes = 1 ∧ !routePinned s r then some (r, o) else none
  | _, _ => none

/-- Up to `left` flits of a SEND; what is left of the slot. -/
def sendMany (p : Lp) (slot : Fin 64) (k : Pt) (idx vc : Nat) : (fuel : Nat) → (left : Nat) → State → State × Nat
  | 0, left, s => (s, left)
  | fuel + 1, left, s =>
    match sendRun s p k idx with
    | none => (s, left)
    | some (r, o) =>
      if left = 0 ∨ !hasCredit s p vc then (s, left)
      else sendMany p slot k idx vc fuel (left - 1) (sendOne s p slot r o vc)

/-- The active slot table of partition k on port p. -/
def slotTable (s : State) (k : Pt) (p : Lp) : Option Bytes :=
  (s.parts[k].objs.find? fun o => o.typ == 3 && o.st == .active && stPort o.bytes == p.1).map (·.bytes)

/-- DATA flits with LEN 0 that pad the slot of a confidential partition (R548). -/
def padSlot (p : Lp) (slot : Fin 64) (k : Pt) (idx n : Nat) (s : State) : State :=
  let stream := match rtObj s k idx with | some o => rtPeerRoute o.bytes | none => 0
  (List.range n).foldl (fun s _ => if hasCredit s p 2 then sendFlit s p slot 1 2 k.1 stream 0 false false [] else s) s

/-- The slot-table entries of an owner's L2 slot, those that earlier slots of reduced width had no room for first (R489): route and flits. -/
def entriesL2 (s : State) (p : Lp) (slot : Fin 64) (k : Pt) : List (Nat × Nat) :=
  ((s.ports[p].carry.filter fun x => x.1 == k).map (·.2)) ++
  match slotTable s k p with
  | none => []
  | some bs =>
    let phase := s.meridian.tick.toNat % max 1 (stPhases bs)
    (List.range 4).filterMap fun i =>
      let w := stEntry bs phase slot.1 i
      if fld w 7 6 ≠ 1 then none else some (fld w 31 20, fld w 19 8)

/-- One entry in what is left of a slot: its flits, and what does not fit at reduced width is carried over. -/
def serveEntry (p : Lp) (slot : Fin 64) (k : Pt) (a : State × Nat) (e : Nat × Nat) : State × Nat :=
  let n := min a.2 e.2
  let (s, left) := sendMany p slot k e.1 2 e.2 n a.1
  let s := if n < e.2 ∧ s.ports[p].width.toNat < 8 then s.modPort p fun x => { x with carry := x.carry ++ [(k, e.1, e.2 - n)] } else s
  if s.parts[k].conf then (padSlot p slot k e.1 left s, a.2 - n) else (s, a.2 - (n - left))

/-- The NORM flits and the slot-table entries of an owner's L2 slot. -/
def ownerL2 (s : State) (p : Lp) (slot : Fin 64) (k : Pt) (cap : Nat) : State × Nat :=
  let mine := (s.links.normOut.filter fun x => x.1 == p && x.2.1 == k).take (min cap (Vector.get s.ports[p].credits 2))
  let s := mine.foldl (fun s x => sendFlit s p slot 9 2 k.1 x.2.2.1.toNat 0 false true (normPayload s.parts[k] x.2.2.2)) s
  let s := { s with links := { s.links with normOut := s.links.normOut.filter fun x => !(x.1 == p && x.2.1 == k && mine.contains x) } }
  let es := entriesL2 s p slot k
  es.foldl (serveEntry p slot k) (s.modPort p fun x => { x with carry := x.carry.filter fun y => y.1 != k }, cap - mine.length)

/-- Is a SEND named by a slot table of its partition on its port (R453)? -/
def inTable (s : State) (k : Pt) (p : Lp) (idx : Nat) : Bool :=
  match slotTable s k p with
  | none => false
  | some bs => (List.range (stPhases bs)).any fun ph => (List.range 64).any fun sl => (List.range 4).any fun i =>
      let w := stEntry bs ph sl i
      fld w 7 6 == 1 && fld w 31 20 == idx

/-- The leaf requesters of partition k at the L3 arbiter of a port: its SENDs with flits to send that no slot table names. -/
def leavesL3 (s : State) (p : Lp) (k : Pt) : List (BitVec 16) :=
  ((s.links.routes.filter fun r => r.part == k && (sendRun s p k r.idx.toNat).any (fun x => x.1.idx == r.idx) && !inTable s k p r.idx.toNat)).map (·.idx)

/-- The leaf served next: that of least index above the last one served, else the least. -/
def nextLeaf (last : BitVec 16) (rs : List (BitVec 16)) : Option (BitVec 16) :=
  let least := fun (l : List (BitVec 16)) => l.foldl (fun m x => match m with | some y => if x < y then some x else some y | none => some x) (none : Option (BitVec 16))
  match least (rs.filter (last < ·)) with
  | some x => some x
  | none => least rs

/-- One flit of partition k's L3 traffic; none where nothing can go. -/
def sendLeaf (s : State) (p : Lp) (slot : Fin 64) (k : Pt) : Option State :=
  if !hasCredit s p 3 then none
  else match nextLeaf (Vector.get s.ports[p].arb.leaf k) (leavesL3 s p k) with
    | none => none
    | some idx => match sendRun s p k idx.toNat with
      | none => none
      | some (r, o) => some ((sendOne s p slot r o 3).modPort p fun x => { x with arb := { x.arb with leaf := vmod x.arb.leaf k fun _ => idx } })

/-- L3 traffic of one partition in its own slot: each of its leaves in turn. -/
def partL3 (p : Lp) (slot : Fin 64) (k : Pt) : (cap : Nat) → State → State
  | 0, s => s
  | cap + 1, s => match sendLeaf s p slot k with
    | some s => partL3 p slot k cap s
    | none => s

/-- The inputs of the shared L3 arbiter of a port: the partitions whose L3 traffic may use an unreserved slot. -/
def sharesL3 (s : State) (k : Pt) : Bool := s.parts[k].live && !s.parts[k].conf && !s.parts[k].quenched

/-- Every 1,024 compute clocks each input takes the number of its active leaf requesters as its weight (R87, R88). -/
def reportWeights (s : State) (p : Lp) : State :=
  let now := allPts.flatMap fun k => if sharesL3 s k then (leavesL3 s p k).map fun i => (k, i) else []
  s.modPort p fun x =>
    let a := x.arb
    let posted := (a.posted ++ now).dedup
    if a.clocks < 1024 then { x with arb := { a with posted := posted } }
    else { x with arb := { a with clocks := 0, posted := now, weights := Vector.ofFn fun k => (posted.filter fun y => y.1 == k).length } }

/-- Clocks pass at the arbiters of a port. -/
def arbClocks (s : State) (p : Lp) (n : Nat) : State := s.modPort p fun x => { x with arb := { x.arb with clocks := x.arb.clocks + n } }

def setArb (s : State) (p : Lp) (f : Arbiter → Arbiter) : State := s.modPort p fun x => { x with arb := f x.arb }

/-- The turn passes to the next input. -/
def nextTurn (a : Arbiter) : Arbiter := { a with turn := a.turn + 1, begun := false }

/-- The deficit arbitration of R88 over `cap` flits of a slot; a turn that the end of the slot cuts short goes on in the next. -/
def sharedL3 (p : Lp) (slot : Fin 64) : (fuel cap : Nat) → State → State
  | 0, _, s => s
  | fuel + 1, cap, s =>
    let a := s.ports[p].arb
    let k := a.turn
    if cap = 0 then s
    else if !sharesL3 s k || (leavesL3 s p k).isEmpty then sharedL3 p slot fuel cap (setArb s p fun a => nextTurn { a with deficit := vmod a.deficit k fun _ => 0 })
    else
      let had := Vector.get a.deficit k
      let got := if a.begun then had else had + 256 * Vector.get a.weights k
      if got < 256 then sharedL3 p slot fuel cap (setArb s p fun a => nextTurn { a with deficit := vmod a.deficit k fun _ => got })
      else match sendLeaf s p slot k with
        | none => s
        | some s => sharedL3 p slot fuel (cap - 1) (setArb s p fun a => { a with begun := true, deficit := vmod a.deficit k fun _ => got - 256 })

/-- Shared L3 in a slot of `cap` flits: turns without a grant are at most four between two grants. -/
def slotL3 (s : State) (p : Lp) (slot : Fin 64) (cap : Nat) : State := sharedL3 p slot (5 * cap + 5) cap s

/-- A data slot of a port: L2 traffic ends 8 ns early, and L3 traffic fills the rest of the slot (R445, R446). -/
def dataSlot (s : State) (p : Lp) (slot : Fin 64) : State :=
  let x := s.ports[p]
  let code := slotCode x.slotMap slot.1
  let cap := slotFlits s slot.1 x.width.toNat false - x.l0Count
  let cap2 := slotFlits s slot.1 x.width.toNat true - x.l0Count
  let held := fun (k : Pt) => s.parts[k].quenched || !s.parts[k].live
  if !s.links.locked || s.links.slotsOff || bit x.mismatch slot.1 || x.quenched || s.links.quenchAll || x.geFenced then s
  else if h : code < 4 then
    let k : Pt := ⟨code, h⟩
    let (s', left) := if held k then (s, cap2) else ownerL2 s p slot k cap2
    if s.parts[k].conf then s' else slotL3 s' p slot (cap - (cap2 - left))
  else if h : 4 ≤ code ∧ code < 8 then
    let k : Pt := ⟨code - 4, by omega⟩
    if held k then s else partL3 p slot k cap s
  else if code = 8 then slotL3 s p slot cap
  else s

/-- A slot begins on a port, and its clocks pass at the arbiters. -/
def startSlot (s : State) (p : Lp) (slot : Fin 64) : State :=
  reportWeights (arbClocks (s.modPort p fun x => { x with txSlot := slot, l0Count := 0 }) p (s.meridian.periodUs.toNat * s.power.mhz.toNat / 64)) p

/-- LINK_SLOT_START: slot k of 1 to 63 of a port begins, and the port sends what R445 gives the slot. Slot 0 begins with the tick. -/
def execLinkSlotStart (p : Lp) (slot : Fin 64) (s : State) : Out :=
  .next (settled s (
    if !lpPresent s p.1 || !s.ports[p].isUp || slot.1 = 0 then s
    else sendIdle (dataSlot (releaseQf (startSlot s p slot) p) p slot) p slot))

/-- Slot 0 begins on every port in service (R458). -/
def openSlot0 (s : State) : State :=
  let up := allLps.filter fun p => lpPresent s p.1 && s.ports[p].isUp
  let s := up.foldl (fun s p => startSlot s p 0) s
  if !s.links.locked then up.foldl (fun s p => sendIdle (pumpShake s p 4) p 0) s
  else up.foldl controlSlot (sendTree (up.foldl (fun s p => sendTime s p (leBytes 4 0)) s))

end Sys2Proof.Machine
end

