-- ==== Sys2Proof/Machine/Window.lean ====
section
/-! DEFINITION. Transfers through the merge window that waited for drains, and DRAIN itself
(spec/05_accumulation_and_reduction.md R208–R213, R229–R233). -/

namespace Sys2Proof.Machine

open Sys2Proof

/-- The route that carries an image. -/
def routeOf (s : State) (k : Pt) (idx : BitVec 16) : Option RouteRun := s.links.routes.find? fun r => r.part == k && r.idx == idx

/-- The carrier of an image that has taken effect completes (R232). -/
def carrierDone (s : State) : ImageBy → State
  | .direct => s
  | .move id => match s.reqs.find? fun r => r.id == id with | some r => endMove s r 0 | none => s
  | .route k idx => match routeOf s k idx with | some r => finishRoute s r 0 | none => s

/-- The carrier of a read takes its image (R231): a MOVE goes on, and a SEND holds it for its flits. -/
def carrierTakes (s : State) (c : Tc) (t : Nat) : ImageBy → State
  | .direct => s
  | .move id => match s.reqs.find? fun r => r.id == id with | some r => moveBytes s r false | none => s
  | .route k idx =>
    match routeOf s k idx, rtObj s k idx.toNat with
    | some r, some o =>
      let x := takeImage s r o c t
      if x.st = 0 then x.s else finishRoute (badRequest x.s k 0xFF x.st (addrLoc (rtAddr o.bytes))) r x.st
    | _, _ => s

/-- The cluster has been fenced meanwhile: the route of the image ends with the address error, as one to a fenced cluster does; a MOVE
ended with the fence (R719). -/
def carrierFenced (s : State) (t : Nat) : ImageBy → State
  | .route k idx => match routeOf s k idx with
    | some r => finishRoute (badRequest s k 0xFF 0x0F (0x1800000 + 0x1000 * t)) r 0x0F
    | none => s
  | _ => s

/-- A transfer whose drains have been made takes effect, and its carrier completes. -/
def ripen (k : Pt) (c : Tc) (s : State) (p : Pinned) : State :=
  if s.clusters[c].fenced then carrierFenced s p.tile p.via else match p.what with
  | .take t => carrierTakes s c t p.via
  | d => carrierDone (applyDeferred k c s p.via d) p.via

/-- The transfers of a cluster that wait no longer, in the order of their arrival (R233). -/
def ripenAll (k : Pt) (c : Tc) : (fuel : Nat) → State → State
  | 0, s => s
  | fuel + 1, s =>
    match s.clusters[c].window.find? (ripe s.clusters[c]) with
    | none => s
    | some p => ripenAll k c fuel (ripen k c (s.modCluster c fun t => { t with window := t.window.erase p }) p)

/-- The merge window of a cluster goes on. -/
def serveWindow (s : State) (c : Tc) : State :=
  match s.clusters[c].part with
  | some k => ripenAll k c s.clusters[c].window.length s
  | none => s

/-- DRAIN: the drain of the oldest pass of cluster c completes (R208, R209, R213), and the transfers that waited for it follow. -/
def execDrain (c : Tc) (s : State) : Out :=
  match s.clusters[c].part, s.clusters[c].latches with
  | some k, l :: _ => .next (settleFrom s (serveWindow (drainLatch s k c l) c))
  | _, _ => .next s

end Sys2Proof.Machine
end

