-- ==== Sys2Proof/Machine/Peers.lean ====
section
/-! DEFINITION. The states of a port, the handshake, lane fences, plugs, the lodestar and the link actions of a tick
boundary (spec/10_constellation_links.md R460, R467, R478–R494, spec/17_module_interface.md R758–R760,
spec/12_keys_lifecycle_boot.md R600). -/

namespace Sys2Proof.Machine

open Sys2Proof

/-! ## Handshake messages and what follows from them (R480–R483, R567, R568)

The spec gives the contents of the messages and no layout: a message is its number and its fields in their order, in HANDSHAKE flits of 224
bytes (notes/assumptions/182.md, DESIGN CHOICE). -/

def helloBytes (m : HelloMsg) : Bytes :=
  [1, m.version] ++ leBytes 4 m.constId.toNat ++ leBytes 2 m.deviceId.toNat ++ [m.lcState, m.peerPort] ++ m.nonce ++ m.slotMap

def certBytes (chain : Bytes) : Bytes := 2 :: chain

/-- EVIDENCE before its signature. -/
def evidenceBody (m : EvidenceMsg) : Bytes := 3 :: (m.romDigest ++ m.sfwDigest ++ m.dfwDigest ++ m.pubKey)

def evidenceBytes (m : EvidenceMsg) : Bytes := evidenceBody m ++ m.sig

def finishBytes (hmac : Bytes) (named : W64) : Bytes := 4 :: (hmac ++ leBytes 8 named.toNat)

/-- The first n messages of the two sides, at each stage that of the lower device ID first (R480). -/
def transcript (s : State) (p : Lp) (h : Handshake) (n : Nat) : Bytes :=
  let x := s.ports[p]
  let (a, b) := if x.devId < x.peerId then (h.own, h.peers) else (h.peers, h.own)
  (List.range n).flatMap fun i => a.getD i [] ++ b.getD i []

/-- The shared secret Z of the two ephemeral keys: an x coordinate (R568). -/
def sharedZ (h : Handshake) : Bytes := ecdhZ h.priv h.pub

/-- TH: SHA-384 of the transcript up to both EVIDENCE messages. -/
def transcriptHash (s : State) (p : Lp) (h : Handshake) : Bytes := sha384 (transcript s p h 3)

/-- FINISH: the HMAC of the transcript under the finish key (R480, R568). -/
def finishMac (s : State) (p : Lp) (h : Handshake) : Bytes :=
  hmac384 (kdf (sharedZ h) "MDR-LINK-FIN" (transcriptHash s p h) 48) (transcript s p h 3)

/-- The key of a direction of a port in an epoch (R568): LH is the direction from the lower to the higher device ID. -/
def directionKey (s : State) (p : Lp) (h : Handshake) (out : Bool) (epoch : Nat) : Bytes :=
  let low := decide (s.ports[p].devId < s.ports[p].peerId)
  kdf (sharedZ h) (if out == low then "MDR-LINK-LH" else "MDR-LINK-HL") (transcriptHash s p h ++ beBytes 4 epoch) 32

/-- A message on its way in HANDSHAKE flits of 224 bytes: before UP at once, in service in the control slots (R483). -/
def sendMsg (s : State) (p : Lp) (bs : Bytes) : State :=
  let chunks := (List.range ((bs.length + 223) / 224)).map fun i => slice bs (224 * i) (min 224 (bs.length - 224 * i))
  let s := s.modPort p fun x => { x with shakeOut := x.shakeOut ++ chunks }
  if s.ports[p].state = .handshake then pumpShake s p s.ports[p].shakeOut.length else s

/-- The certificate chain (R571). -/
def certChainOf (s : State) : Bytes :=
  Config.certChain (Config.medrielmRoot ++ s.sc.flash.deviceIdCert ++ s.sc.sfwDigest ++ leBytes 2 s.sc.sfwSvn.toNat ++ s.sc.dfwDigest ++
    leBytes 2 s.sc.dfwSvn.toNat ++ [s.sc.lc])

/-- The device's EVIDENCE in an exchange: an ephemeral key and a signature by the attestation key, of slot 5, over the transcript so far and
the message before its signature (R480). -/
def ownEvidence (s : State) (p : Lp) (h : Handshake) : State × Handshake × Bytes :=
  let (s, c) := s.draw 56
  let (d, q) := keyPair c
  let m : EvidenceMsg := { romDigest := s.sc.romDigest, sfwDigest := s.sc.sfwDigest, dfwDigest := s.sc.dfwDigest, pubKey := q, sig := [], sigOk := true }
  let (s, k) := s.draw 56
  let sig := ecdsaSign (keyPair (slot s 5).key).1 (sha384 (transcript s p h 2 ++ evidenceBody m)) (beNat k)
  let bs := evidenceBytes { m with sig := sig }
  (s, { h with priv := d, own := h.own.take 2 ++ [bs], sent := 3 }, bs)

/-! ## Training and handshake (R440, R478–R481) -/

def setShake (s : State) (p : Lp) (h : Handshake) : State := s.modPort p fun x => { x with shake := h }

/-- The HELLO of a port. -/
def ownHello (s : State) (p : Lp) (nonce : Bytes) : HelloMsg :=
  { version := Config.linkVersion, constId := s.ports[p].constId, deviceId := s.ports[p].devId, lcState := s.sc.lc, peerPort := BitVec.ofNat 8 p.1,
    nonce := nonce, slotMap := s.ports[p].slotMap }

/-- A port enters HANDSHAKE: flit numbers from 0, one credit for each flit of the peer's buffers, HELLO sent. The size of the peer's L2
buffer, which no message tells, is an operand (notes/assumptions/29.md, DESIGN CHOICE). While the entropy source gives no nonce the
handshake fails, and the port is REFUSED (R575; notes/assumptions/34.md, DEDUCED). -/
def enterHandshake (s : State) (p : Lp) (peerL2 : Nat) : State :=
  if s.sc.esState ≠ 0 then s.modPort p fun x => { x with state := .refused }
  else
  let (s, nonce) := s.draw 48
  let hello := helloBytes (ownHello s p nonce)
  let s := s.modPort p fun x =>
    let kib := x.l2BufW.toNat
    { x with state := .handshake, l2Buf := x.l2BufW, credits := #v[128, 128, 4 * min peerL2 15808, 4 * (15808 - min peerL2 15808)],
             free := #v[128, 128, 4 * kib, 4 * (15808 - kib)], freed := Vector.replicate 4 0,
             rxNum := 0, txNum := 0, ackTold := 0, replay := [], resends := 0, nak := false, held := [], shakeOut := [], rekey := none,
             shake := { sent := 1, got := 0, peer := none, refuse := x.shake.refuse, own := [hello], peers := [], priv := 0, pub := [] } }
  sendMsg s p hello

/-- A port goes to REFUSED with a reason of R481. -/
def toRefused (s : State) (p : Lp) (reason : Byte) : State :=
  s.modPort p fun x => { x with state := .refused, replay := [], shakeOut := [], shake := { x.shake with refuse := reason } }

/-- A side whose check fails sends REFUSE with the reason. -/
def refuseWith (s : State) (p : Lp) (reason : Byte) : State := toRefused (sendMsg s p [5, reason]) p reason

/-- The next message of a port, once its own predecessor has gone: CERT, EVIDENCE and FINISH. EVIDENCE draws a key, and while the entropy
source gives none the handshake fails (R575). -/
def sendNext (s : State) (p : Lp) (k : Nat) : State :=
  let h := s.ports[p].shake
  match k with
  | 2 => let bs := certBytes (certChainOf s); sendMsg (setShake s p { h with own := h.own ++ [bs], sent := 2 }) p bs
  | 3 =>
    if s.sc.esState ≠ 0 then s.modPort p fun x => { x with state := .refused, replay := [], shakeOut := [] }
    else
      let (s, h, bs) := ownEvidence s p h
      sendMsg (setShake s p h) p bs
  | 4 => sendMsg (setShake s p { h with sent := 4 }) p (finishBytes (finishMac s p h) 0)
  | _ => s

/-- Message k has been received and passes its checks: the next message goes out once its own predecessor has. -/
def gotMsg (s : State) (p : Lp) (k : Nat) (bs : Bytes) : State :=
  sendNext (s.modPort p fun x => { x with shake := { x.shake with got := k, peers := x.shake.peers ++ [bs] } }) p (k + 1)

/-- Does the port await message k of the handshake? -/
def awaits (s : State) (p : Lp) (k : Nat) : Bool :=
  lpPresent s p.1 && s.ports[p].state == .handshake && s.ports[p].shake.got + 1 == k

/-- A HANDSHAKE flit in service that is no re-key message is a protocol strike (R483). -/
def strayMsg (s : State) (p : Lp) : State := if s.ports[p].isUp then strike s p else s

/-- Slots whose codes differ at the two ends (R444). -/
def mapMismatch (own peer : Bytes) : W64 := maskOf 64 fun i => slotCode own i != slotCode peer i

/-- HELLO, held against the identity of the port. -/
def execHello (p : Lp) (m : HelloMsg) (s : State) : Out :=
  .next (raiseChanges s (if !awaits s p 1 then strayMsg s p
    else if m.version ≠ Config.linkVersion then refuseWith s p 1
    else if m.constId ≠ s.ports[p].constId then refuseWith s p 2
    else if m.deviceId = s.ports[p].devId then refuseWith s p 3
    else if m.lcState ≠ 4 ∧ m.lcState ≠ 5 then refuseWith s p 8
    else
      let s := s.modPort p fun x =>
        { x with peerId := m.deviceId, peerMap := m.slotMap, mismatch := mapMismatch x.slotMap m.slotMap, shake := { x.shake with peer := some m } }
      gotMsg s p 1 (helloBytes m)))

/-- CERT. -/
def execCert (p : Lp) (chain : Bytes) (leadsToRoot : Bool) (s : State) : Out :=
  .next (raiseChanges s (if !awaits s p 2 then strayMsg s p
    else if !leadsToRoot || decide (8192 < chain.length) then refuseWith s p 4
    else gotMsg s p 2 (certBytes chain)))

/-- Is a device firmware measurement accepted (R482)? -/
def fwAccepted (s : State) (d : Bytes) : Bool :=
  let es := ((List.range 8).map fun i => slice s.links.acceptFw (48 * i) 48).filter fun e => !allZero e
  if es.isEmpty then d == s.sc.dfwDigest else es.contains d

/-! ### Re-keys (R483) -/

/-- The boundary that this device names for a new epoch (notes/assumptions/183.md, DESIGN CHOICE). -/
def namedTick (s : State) : W64 := s.meridian.tick + 4

/-- A re-key of a direction begins on this side: EVIDENCE, drawn and signed anew, after the HELLO and CERT of the port's handshake. While the
entropy source gives no key it does not begin. -/
def beginLinkRekey (s : State) (p : Lp) (out : Bool) : State :=
  if s.sc.esState ≠ 0 ∨ s.ports[p].rekey.isSome then s
  else
    let h := s.ports[p].shake
    let (s, h, bs) := ownEvidence s p { h with own := h.own.take 2, peers := h.peers.take 2, got := 2 }
    sendMsg (s.modPort p fun x => { x with rekey := some { out := out, shake := h, at_ := 0 } }) p bs

/-- FINISH of a re-key goes out once both EVIDENCE messages are there. -/
def linkRekeyFinish (s : State) (p : Lp) : State :=
  match s.ports[p].rekey with
  | some r =>
    if r.shake.sent = 3 ∧ r.shake.got = 3 then
      sendMsg (s.modPort p fun x => { x with rekey := some { r with shake := { r.shake with sent := 4 }, at_ := namedTick s } }) p
        (finishBytes (finishMac s p r.shake) (namedTick s))
    else s
  | none => s

/-- EVIDENCE of a re-key: one that the peer begins re-keys the direction from it. A check that fails ends the re-key, and the old key stays
(notes/assumptions/183.md, DESIGN CHOICE). -/
def linkRekeyEvidence (s : State) (p : Lp) (m : EvidenceMsg) : State :=
  let s := beginLinkRekey s p false
  match s.ports[p].rekey with
  | some r =>
    if r.shake.got ≠ 2 then strike s p
    else if !fwAccepted s m.dfwDigest || !m.sigOk then s.modPort p fun x => { x with rekey := none }
    else linkRekeyFinish (s.modPort p fun x =>
      { x with rekey := some { r with shake := { r.shake with got := 3, peers := r.shake.peers ++ [evidenceBytes m], pub := m.pubKey } } }) p
  | none => s

/-- FINISH of a re-key: the new epoch is due at the later of the two boundaries named. -/
def linkRekeyDone (s : State) (p : Lp) (hmac : Bytes) (named : W64) : State :=
  match s.ports[p].rekey with
  | some r =>
    if r.shake.got ≠ 3 ∨ r.shake.sent ≠ 4 then strike s p
    else if hmac ≠ finishMac s p r.shake then s.modPort p fun x => { x with rekey := none }
    else
      let epoch := (if r.out then s.ports[p].epochOut else s.ports[p].epochIn).toNat + 1
      s.modPort p fun x =>
        { x with rekey := none, rekeyDue := x.rekeyDue ++ [(r.out, if r.at_ < named then named else r.at_, directionKey s p r.shake r.out epoch)] }
  | none => strike s p

/-- EVIDENCE: of a handshake, or of a re-key on a port in service. -/
def execEvidence (p : Lp) (m : EvidenceMsg) (s : State) : Out :=
  .next (raiseChanges s (if s.ports[p].isUp then linkRekeyEvidence s p m
    else if !awaits s p 3 then s
    else if !fwAccepted s m.dfwDigest then refuseWith s p 5
    else if !m.sigOk then refuseWith s p 6
    else gotMsg (s.modPort p fun x => { x with shake := { x.shake with pub := m.pubKey } }) p 3 (evidenceBytes m)))

/-- A direction of a port takes a key in the slot of an epoch (R568). -/
def setLinkKey (s : State) (p : Lp) (out : Bool) (epoch : Nat) (key : Bytes) : State :=
  setSlot s (linkSlot p.1 out epoch) { KeySlot.empty with valid := true, parent := 4, usage := 1, masters := 0xFF, lcMask := 0xFF, key := key }

/-- A port that has exchanged FINISH is UP on eight lanes, under the keys of epoch 1; lanes that the operator holds fenced
leave it at the next boundary. -/
def portUp (s : State) (p : Lp) : State :=
  let h := s.ports[p].shake
  let s := setLinkKey (setLinkKey s p false 1 (directionKey s p h false 1)) p true 1 (directionKey s p h true 1)
  s.modPort p fun x => { x with state := .up, width := 8, lanesFenced := 0, epochIn := 1, epochOut := 1, backoff := 1,
                                widthDue := x.opLanes != 0 }

/-- FINISH. -/
def execFinish (p : Lp) (hmac : Bytes) (named : W64) (s : State) : Out :=
  .next (raiseChanges s (if s.ports[p].isUp then linkRekeyDone s p hmac named
    else if !awaits s p 4 then s
    else if hmac ≠ finishMac s p s.ports[p].shake then refuseWith s p 7
    else portUp (gotMsg s p 4 (finishBytes hmac named)) p))

/-- REFUSE received. -/
def execRefuse (p : Lp) (reason : BitVec 8) (s : State) : Out :=
  .next (raiseChanges s (if lpPresent s p.1 && s.ports[p].state == .handshake then toRefused s p reason else strayMsg s p))

/-- MESSAGE_TIMEOUT: a message has not come within 10 ms. -/
def execMessageTimeout (p : Lp) (s : State) : Out :=
  .next (raiseChanges s (if s.ports[p].state = .handshake then refuseWith s p 9 else s))

/-- LINK_REKEY: 2^40 flits or 24 hours have passed, and the device begins the re-key of a direction (R483). -/
def execLinkRekey (p : Lp) (outgoing : Bool) (s : State) : Out :=
  .next (raiseChanges s (if s.ports[p].isUp then beginLinkRekey s p outgoing else s))

/-- May a port train: out of reset, with the link reference (R693, R743), and its die not under test (R727)? -/
def mayTrain (s : State) (p : Lp) : Bool :=
  s.power.pwrgd && !s.pins.perst && !s.power.refLost && !(s.test.state == 3 && bit s.test.ldTarget (p.1 / 9))

/-- A port enters TRAINING, which puts the written identity in force on it (R501). The device as a whole goes by what was last put in force
on a port (notes/assumptions/184.md, DEDUCED). -/
def enterTraining (s : State) (p : Lp) : State :=
  let s := s.modPort p fun x => { x with state := .training, lanesFenced := 0, devId := s.links.deviceIdW, constId := s.links.constIdW }
  { s with links := { s.links with deviceId := s.links.deviceIdW, constId := s.links.constIdW } }

/-- SIGNAL_DETECT: a port without an accepted plug stays DOWN (R758). -/
def execSignalDetect (p : Lp) (s : State) : Out :=
  .next (raiseChanges s (if lpPresent s p.1 && s.ports[p].state == .down && s.ports[p].plug == 1 && mayTrain s p then enterTraining s p else s))

/-- Training ends, and firmware has set the port's reserved bits on VF8-16H8 (R658). -/
def trained (s : State) (p : Lp) : State :=
  let s' := { s with fresh := s.fresh + 1 }
  s'.modPort p fun x => { x with reservedBits := if s.full then Vector.ofFn fun i => Config.reservedBits s.fresh (3 * p.1 + i.1) else Vector.replicate 3 0 }

def execTrainingLock (x : LockIn) (s : State) : Out :=
  .next (raiseChanges s (if s.ports[x.port].state = .training then enterHandshake (trained s x.port) x.port x.peerL2 else s))

def execTrainingTimeout (p : Lp) (s : State) : Out :=
  .next (raiseChanges s (if s.ports[p].state = .training then s.modPort p fun x => { x with state := .down } else s))

def execHandshakeTimeout (p : Lp) (s : State) : Out :=
  .next (raiseChanges s (if s.ports[p].state = .handshake then s.modPort p fun x => { x with state := .refused } else s))

/-- BACKOFF_EXPIRY: 1 s at first, doubling to 64 s. -/
def execBackoffExpiry (p : Lp) (s : State) : Out :=
  .next (raiseChanges s (if s.ports[p].state = .refused then
      (enterTraining s p).modPort p fun x => { x with backoff := min 64 (2 * x.backoff) } else s))

def execLossOfSignal (p : Lp) (s : State) : Out :=
  .next (settled s (if s.ports[p].isUp then leavePort s p .down else s))

/-! ## Lanes, thresholds and plugs (R484, R487, R758, R759) -/

/-- Is a lane to be fenced on its error statistics (R487)? -/
def laneBad (x : LaneIn) : Bool := decide (8 ≤ x.badTicks) || decide (8 * x.codewords < x.corrected)

/-- LANE_FENCED: the device fences a lane on its error statistics; the masks are applied at the boundary after the next
control slot. -/
def execLaneFenced (p : Lp) (x : LaneIn) (s : State) : Out :=
  .next (raiseChanges s (if s.ports[p].isUp && laneBad x && !bit s.ports[p].lanesFenced x.lane.1 then
      let s := s.modPort p fun y => { y with lanesFenced := setBit y.lanesFenced x.lane.1 true, widthDue := true }
      noteFence s 3 p.1 5 true (portServes s p)
    else s))

/-- Errors of a port over the last 1,024 ticks. -/
def windowSums (s : State) (p : Lp) : Nat × Nat × Nat :=
  (s.ports[p].window.filter fun x => decide (s.meridian.tick.toNat < x.1.toNat + 1024)).foldl (fun a x => (a.1 + x.2.1, a.2.1 + x.2.2.1, a.2.2 + x.2.2.2)) (0, 0, 0)

/-- The tree parent becomes another port, or none (R467, R499). -/
def setParent (s : State) (p : Option Lp) : State :=
  { s with links := { s.links with parentPort := match p with | some p => BitVec.ofNat 8 p.1 | none => 0xFF },
           ports := Vector.ofFn fun q => { s.ports[q] with treeParent := some q == p } }

/-- The cause for which a port is due to be fenced: 2 tag, 3 protocol, 4 CRC. -/
def fenceDue (s : State) (p : Lp) : BitVec 3 :=
  let (a, b, c) := windowSums s p
  if s.links.fenceTag.toNat ≤ a then 2 else if s.links.fenceProto.toNat ≤ b then 3 else if s.links.fenceCrc.toNat ≤ c then 4 else 0

/-- PORT_THRESHOLD_FENCE: tag failures, protocol strikes or resends have reached their threshold. -/
def execPortThresholdFence (p : Lp) (s : State) : Out :=
  .next (settled s (if lpPresent s p.1 && s.ports[p].state != .fenced && fenceDue s p != 0 then fencePort s p (fenceDue s p) 5 else s))

/-- PLUG_INSERT: only a plug accepted as passive copper lets the port train. A fenced port stays FENCED. -/
def execPlugInsert (p : Lp) (plug : PlugMem) (s : State) : Out :=
  .next (raiseChanges s (if lpPresent s p.1 then
      s.modPort p fun x => match plug with
        | .passiveCopper cm => { x with plug := 1, cableCm := cm }
        | .otherMedium cm => { x with plug := 2, cableCm := cm }
        | .noAnswer => { x with plug := 3, cableCm := 0 }
    else s))

/-- PLUG_REMOVE takes the port to DOWN by loss of signal. -/
def execPlugRemove (p : Lp) (s : State) : Out :=
  .next (settled s (
    let s := s.modPort p fun x => { x with plug := 0, cableCm := 0 }
    if s.ports[p].state = .fenced then s else leavePort s p .down))

/-! ## The lodestar (R44, R460, R467–R469, R491–R494, R600) -/

/-- The device becomes lodestar under an epoch. At the first lock the tick number is 0; afterwards the numbers go on. -/
def becomeLodestar (s : State) (epoch : W32) : State :=
  let l := s.links
  { s with
    meridian := { s.meridian with tick := if l.epoch = 0 then 0 else s.meridian.tick },
    links := { l with lodestar := l.deviceId, lodePref := l.pref, epoch := epoch, locked := true, depth := 0, depthMax := 0, parentPort := 0xFF, slotsOff := false,
                      electing := false, noTime := 0, changes := satAdd l.changes (if epoch = l.epoch then 0 else 1),
                      standby := if l.treeCandPref = 0 then l.standby else l.treeCand },
    ports := vmap s.ports fun x => { x with treeParent := false } }

/-- LODESTAR_ELECTED: a candidate that named itself in 64 consecutive TIME flits. -/
def execLodestarElected (s : State) : Out :=
  let l := s.links
  .next (raiseChanges s (if !l.locked && l.candPref != 0 && l.candId == l.deviceId && decide (64 ≤ l.selfCount) then becomeLodestar s (l.epoch + 1) else s))

/-- STANDBY_TAKEOVER: no valid TIME flit of the lodestar in two consecutive ticks. -/
def execStandbyTakeover (s : State) : Out :=
  let l := s.links
  .next (raiseChanges s (if l.locked && l.standby == l.deviceId && l.lodestar != l.deviceId && decide (2 ≤ l.noTime) then becomeLodestar s (l.epoch + 1) else s))

/-- TIME_LOSS_UNLOCK: after 16 ticks without a TIME flit the device stops using slots 1 to 63 and starts an election. -/
def execTimeLossUnlock (s : State) : Out :=
  let l := s.links
  .next (raiseChanges s (if l.locked && l.lodestar != l.deviceId && decide (16 ≤ l.noTime) then
      setParent { s with links := { l with locked := false, slotsOff := true, electing := true, selfCount := 0, depth := 0xFF,
                                           candId := if l.pref = 0 then 0xFFFF else l.deviceId, candPref := l.pref } } none
    else s))

/-- SELF_LODESTAR: the first attempt of stage 6 ends without an UP port. -/
def execSelfLodestar (s : State) : Out :=
  .next (raiseChanges s (if decide (6 ≤ s.sc.stage.toNat) && !s.pins.perst && !s.links.locked && s.links.pref != 0 && !(s.ports.toList.any fun x => x.isUp) then becomeLodestar s 1 else s))

/-- PRE_LOCK_TIME_SEND: every UP port names the best candidate known, and a device that names itself counts the TIME flits that say so. The
time at which they go out is a free value: no boundary has been set yet (R460, R492). -/
def execPreLockTimeSend (s : State) : Out :=
  .next (raiseChanges s (if s.links.locked || s.pins.perst then s
    else
      let l := s.links
      let l := if betterCand l.pref l.deviceId l.candPref l.candId ∧ l.pref ≠ 0 then { l with candId := l.deviceId, candPref := l.pref, selfCount := 0 } else l
      let outs := allLps.filter fun p => s.ports[p].isUp && hasCredit s p 0
      let l := if l.candPref ≠ 0 ∧ l.candId = l.deviceId ∧ outs ≠ [] then { l with selfCount := l.selfCount + 1 } else l
      let (s, tx) := s.draw 4
      outs.foldl (fun s p => sendTime s p tx) { s with links := l }))

/-! ### TIME flits -/

structure TimeMsg where
  tick   : W64
  lode   : BitVec 16
  stby   : BitVec 16
  epoch  : W32
  depth  : Byte
  dmax   : Byte
  period : Byte
  ref    : Byte
  eff    : W64
  tx     : Nat
  rx     : Nat
  pref   : BitVec 2

def timeMsg (bs : Bytes) : TimeMsg :=
  { tick := BitVec.ofNat 64 (numAt bs 0 8), lode := BitVec.ofNat 16 (numAt bs 8 2), stby := BitVec.ofNat 16 (numAt bs 10 2),
    epoch := BitVec.ofNat 32 (numAt bs 12 4), depth := byteAt bs 16, dmax := byteAt bs 17, period := byteAt bs 18, ref := byteAt bs 19,
    eff := BitVec.ofNat 64 (numAt bs 20 8), tx := numAt bs 28 4, rx := numAt bs 32 4, pref := BitVec.ofNat 2 (byteAt bs 36).toNat }

/-- The one-way delay and the correction that a TIME flit gives (R495). -/
def timeDelay (x : Port) (m : TimeMsg) (rxPs : Nat) : Int :=
  ((rxPs : Int) - m.tx + ((m.rx : Int) - x.lastTx.toNat)) / 2

/-- The period that a TIME flit announces: the one in force, or with a nonzero PERIOD_EFFECTIVE_TICK the pending one; a device locks only
to a flit with the one in force (notes/assumptions/30.md, DEDUCED). -/
def periodOf (s : State) (m : TimeMsg) : Meridian :=
  if m.eff = 0 then { s.meridian with periodUs := m.period, periodNew := none, slotNs := BitVec.ofNat 32 (m.period.toNat * 1000 / 64) }
  else { s.meridian with periodNew := some (m.period, m.eff), effective := m.eff }

/-- What every TIME flit of a locked sender sets on a device that follows it, the tick number among it (R43). -/
def followTime (s : State) (p : Lp) (m : TimeMsg) (pref : BitVec 2) : State :=
  let l := s.links
  { s with meridian := { periodOf s m with tick := m.tick },
           links := { l with lodestar := m.lode, lodePref := pref, standby := m.stby, epoch := m.epoch, timeRef := m.ref,
                             changes := satAdd l.changes (if m.epoch = l.epoch then 0 else 1),
                             timeSeen := l.timeSeen ++ [(p, s.ports[p].peerId, m.depth)] } }

/-- A device without lock locks to the sender, unless its depth would exceed D_max (R469). -/
def lockTo (s : State) (p : Lp) (m : TimeMsg) (pref : BitVec 2) : State :=
  let t := followTime s p m pref
  if m.eff ≠ 0 ∨ depthLimit t < m.depth.toNat + 1 ∨ s.ports[p].width ≠ 8 then s
  else
    let t := setParent { t with links := { t.links with locked := true, depth := m.depth + 1, depthMax := m.dmax, noTime := 0, slotsOff := false, electing := false } } (some p)
    t.modPort p fun x => { x with treeDepth := m.depth }

/-- A lodestar that has seen a higher epoch is an ordinary device: under the sender where the port has eight lanes, else without a parent
until the next boundary. Where its depth would exceed D_max it is out of the tree and unlocked (R467, R469, R493). -/
def yieldTo (s : State) (p : Lp) (m : TimeMsg) : State :=
  if s.ports[p].width ≠ 8 then setParent { s with links := { s.links with depth := 0xFF, depthMax := m.dmax } } none
  else if depthLimit s < m.depth.toNat + 1 then setParent { s with links := { s.links with locked := false, depth := 0xFF } } none
  else setParent { s with links := { s.links with depth := m.depth + 1, depthMax := m.dmax } } (some p)

/-- Is what a TIME flit says of the lodestar older, or worse at the same epoch, than what the device follows (R493)? -/
def outdated (l : Links) (m : TimeMsg) (pref : BitVec 2) : Bool :=
  decide (m.epoch < l.epoch) || (m.epoch == l.epoch && m.lode != l.lodestar && !betterCand pref m.lode l.lodePref l.lodestar)

/-- TIME_FLIT (R460, R492, R493). D and the loss of the lodestar go by the flits of the tree parent. -/
def execTimeFlit (f : Flit) (x : TimeIn) (s : State) : Out :=
  let p := f.port
  .next (settled s (receive s f 2 (flVc f == 0) (!s.links.locked || (f.slot.1 == 0 && f.first)) fun s =>
    let m := timeMsg f.payload
    let d := timeDelay s.ports[p] m x.rxPs
    let s := s.modPort p fun y => { y with lastRx := BitVec.ofNat 32 x.rxPs, linkDelay := BitVec.ofNat 32 d.toNat, treeDepth := m.depth }
    let l := s.links
    if m.depth = 0xFF then
      (if !l.locked && betterCand m.pref m.lode l.candPref l.candId && m.pref != 0 then
        { s with links := { l with candId := m.lode, candPref := m.pref, selfCount := 0 } } else s)
    else if !l.locked then lockTo s p m x.pref
    else if outdated l m x.pref then s
    else if l.lodestar = l.deviceId ∧ m.lode = l.deviceId then
      { s with links := { l with timeSeen := l.timeSeen ++ [(p, s.ports[p].peerId, m.depth)] } }
    else
      let s := followTime s p m x.pref
      if l.lodestar = l.deviceId then yieldTo s p m
      else if l.parentPort.toNat = p.1 then
        { s with links := { s.links with timeOffset := BitVec.ofInt 32 ((x.rxPs : Int) - m.tx - d), depthMax := m.dmax, noTime := 0 } }
      else s))

/-! ## The links at a tick boundary (R95, R467, R471, R475, R483, R488) -/

/-- The masks of fenced lanes are applied at the boundary after the control slot that carried a mask (R488): the width that is left, or
DOWN without a usable pair. -/
def applyWidth (s : State) (p : Lp) : State :=
  let x := s.ports[p]
  if !x.isUp || !x.widthSent then s
  else
    let mask := x.lanesSent ||| x.peerLanes
    let w := lanesWidth mask
    if w = 0 then leavePort (s.modPort p fun x => { x with lanesFenced := x.lanesFenced ||| mask }) p .down
    else s.modPort p fun x => { x with lanesFenced := x.lanesFenced ||| mask, width := BitVec.ofNat 4 w, widthSent := false, state := if w = 8 then .up else .degraded }

/-- A direction of a port takes the epoch and the key of its re-key (R483). -/
def takeEpoch (p : Lp) (s : State) (d : Bool × W64 × Bytes) : State :=
  let s := s.modPort p fun x =>
    if d.1 then { x with epochOut := x.epochOut + 1 } else { x with epochIn := x.epochIn + 1 }
  setLinkKey s p d.1 (if d.1 then s.ports[p].epochOut else s.ports[p].epochIn).toNat d.2.2

/-- The re-keys of which this boundary was named take effect. -/
def rekeyLinks (s : State) : State :=
  allLps.foldl (fun s p =>
    let due := s.ports[p].rekeyDue.filter fun d => d.2.1 ≤ s.meridian.tick
    (due.foldl (takeEpoch p) s).modPort p fun x => { x with rekeyDue := x.rekeyDue.filter fun d => s.meridian.tick < d.2.1 }) s

/-- Between two neighbors heard: the lower depth, then the lower device ID, then the lower port. -/
def nearer (a b : Lp × BitVec 16 × Byte) : Bool :=
  decide (a.2.2 < b.2.2) || (a.2.2 == b.2.2 && (decide (a.2.1 < b.2.1) || (a.2.1 == b.2.1 && decide (a.1 < b.1))))

/-- The tree parent for the new tick, from the TIME flits of the tick that ends (R467). A device that would be deeper than D_max is out
of the tree and unlocked (R469). -/
def chooseParent (s : State) : State :=
  let l := s.links
  if !l.locked || l.lodestar == l.deviceId then s
  else
    let heard := l.timeSeen.filter fun x => s.ports[x.1].width == 8 && s.ports[x.1].state == .up
    match heard.foldl (fun m x => match m with | some y => if nearer x y then some x else some y | none => some x) none with
    | none => s
    | some x =>
      if depthLimit s < x.2.2.toNat + 1 then setParent { s with links := { l with locked := false, depth := 0xFF } } none
      else setParent { s with links := { l with depth := x.2.2 + 1 } } (some x.1)

/-- The entry of JOB_SIZE that the control slot carries: each written job in four of them, ahead of the turn of jobs 1 to 255 (R475). -/
def nextJob (l : Links) : Links :=
  match l.jobUrgent with
  | (j, n) :: rest => { l with jobNow := j.toNat, jobUrgent := if n ≤ 1 then rest else rest ++ [(j, n - 1)] }
  | [] => { l with jobNow := l.jobTurn, jobTurn := if l.jobTurn = 255 then 1 else l.jobTurn + 1 }

/-- Local decisions: a partition of job 0 takes its own final flag in the control slot of the tick after its compute
phase (R471). -/
def decideLocal (s : State) : State :=
  allPts.foldl (fun s k => if s.parts[k].live ∧ s.parts[k].jobId = 0 ∧ s.parts[k].step.phase = .decide ∧ s.parts[k].step.endTick < s.meridian.tick then acceptDecision s k (!s.parts[k].step.localNf) else s) s

/-- LINK_GO commands that wait for their route are tried again: a peer may have joined (R453, R547). -/
def retryRoutes (s : State) : State :=
  allPts.foldl (fun s k => (s.parts[k].inflight.filterMap fun p => match p.wait with | .routeNext i => some i | _ => none).foldl (fun s i => startNextRoute s k i) s) s

/-- What a boundary does to the links before the control slot of the new tick. -/
def linkBoundary (s : State) : State :=
  let heard := s.links.timeSeen.any (fun x => x.1.1 == s.links.parentPort.toNat) || s.links.lodestar == s.links.deviceId
  let s := allLps.foldl applyWidth s
  let s := rekeyLinks (chooseParent s)
  let s := { s with
    ports := vmap s.ports fun x =>
      { x with quenched := x.quenched && !x.unquench, unquench := false, treeChild := x.upSeen, upSeen := false, qfSlot := 0, qfCount := 0, odpCount := 0 },
    parts := vmap s.parts fun p => { p with quenched := p.quenched && !p.unquench, unquench := false } }
  let l := s.links
  let sizes := l.jobSizeNew.foldl (fun m x => Sparse.set (0 : W32) m x.1.toNat x.2) l.jobSize
  let l := { l with quenchAll := l.quenchAll && !l.unquench, unquench := false, noTime := if heard || !l.locked then 0 else l.noTime + 1,
                    depthMax := if l.lodestar = l.deviceId then deepest s else l.depthMax,
                    timeSeen := [], reports := [], sent := [], jobSize := sizes, jobSizeNew := [], treeCand := 0xFFFF, treeCandPref := 0 }
  applyReleased (pumpNorms (retryRoutes { s with links := nextJob l }))

/-- The control slot of the new tick opens: local decisions, the lodestar's where every report is its own (R473), and what each port
sends in it. -/
def openControlSlot (s : State) : State := openSlot0 (decideJobs (decideLocal s))

end Sys2Proof.Machine
end

