-- ==== Sys2Proof/Machine/Sched.lean ====
section
/-! DEFINITION. Work items that wait or overrun, SQ_RUN, replay units, the end of the compute phase, SIGNAL and WAIT
(spec/02_meridian_and_scheduling.md R51–R82, R763, spec/07_replay_and_escalation.md R305–R320). -/

namespace Sys2Proof.Machine

open Sys2Proof

/-! ## Work items (R54, R57) -/

/-- WORK_ITEM_DISPATCH: the first work item that the SQ holds is dispatched, if the clocks left before the boundary cover
its budget now. One that names a pending object waits on (R65). -/
def execWorkItemDispatch (c : Tc) (x : SqTime) (s : State) : Out :=
  .next (match sqReady s c, s.clusters[c].heldWork with
    | some (k, _), h :: rest =>
      match s.clusters[c].jobs.find? fun b => b.id == h.job && b.kind == .run with
      | none => s.modCluster c fun t => { t with heldWork := rest }
      | some b =>
        if !fitsClocks s h.budget.toNat x.clocksLeft || (!h.isVe && matWaits s k b.unit h.w) then s
        else
          let start := s
          let s := s.modCluster c fun t => { t with heldWork := rest }
          settleFrom start (if h.isVe then dispatchVexec s c b h.w else dispatchMat s k c b h.w x.bankStalls x.drainStalls)
    | _, _ => s)

/-- The running work item of an engine: its command and its budget. A MOVE carries no budget: 0 stands in its record. -/
def runningItem (t : Cluster) : Engine → Option (Nat × Nat)
  | .me => match t.latches with
    | l :: _ => some (l.item.job, l.item.w.budget)
    | [] => match t.meQueue with | i :: _ => some (i.job, i.w.budget) | [] => none
  | .ve => t.ve.run.map fun i => (i.job, i.budget.toNat)
  | .mover => (t.jobs.find? fun b => b.kind == .move && b.started && !b.ended).map fun b => (b.id, 0)

/-- A running work item is aborted, and its command ends with the partition-fault status. -/
def abortItem (s : State) (c : Tc) (eng : Engine) (job : Nat) : State :=
  match eng with
  | .me =>
    let s := s.modCluster c fun t => if t.latches.isEmpty then { t with meQueue := t.meQueue.tail } else { t with latches := t.latches.tail }
    serveWindow (itemFailed s c job 0x0D) c
  | .ve => startVe (itemFailed (s.modCluster c fun t => { t with ve := { t.ve with run := none } }) c job 0x0D) c
  | .mover => match s.reqs.find? fun r => r.id == job with
    | some r => endMove s r 0x0D
    | none => s

/-- BUDGET_OVERRUN: logged and counted; in a confidential partition a partition fault (R57). -/
def execBudgetOverrun (c : Tc) (eng : Engine) (s : State) : Out :=
  .next (match s.clusters[c].part, runningItem s.clusters[c] eng with
    | some k, some (job, budget) =>
      if s.clusters[c].fenced then s
      else if s.parts[k].conf then settle (abortItem (partitionFault s k c 1) c eng job)
      else notePart (s.count k fun n => { n with budgetOverruns := satAdd n.budgetOverruns 1 }) k 0x30 c.1 0xFFFF budget
    | _, _ => s)

/-! ## SQ_RUN (R513, R676, R719) -/

/-- What a command that names clusters answers at once: bad-command, or partition-fault where one is fenced. -/
def clustersStatus (s : State) (k : Pt) (m : BitVec 16) : Nat :=
  if m = 0 ∨ m &&& ~~~s.parts[k].clusters ≠ 0 then 0x01
  else if (tcsOf m).any fun c => s.clusters[c].fenced then 0x0D
  else 0

/-- SQ_RUN: the command enters the stream of each cluster c, where its program issues `items[c]` commands: work items, SIGNALs,
WAITs and reads of VSUMQ (notes/assumptions/7.md). In a
confidential partition the entry must lie in a line marked as code. -/
def execSqRun (k : Pt) (j : Fin 16) (e : Entry) (items : List Nat) (s : State) : Out :=
  .next (takeCmd s (.data k j) e 0x40 { w2 := 0xFFFF, w3 := 2 ^ 25 - 1, w4 := 2 ^ 25 - 1 } fun s p =>
    let m := BitVec.ofNat 16 (fld e.w2 15 0)
    let st := clustersStatus s k m
    if st ≠ 0 then endCmd s p st 0 0 0
    else match (tcsOf m).find? fun c => s.parts[k].conf && !Sparse.get false s.clusters[c].code (fld e.w3 24 0 / 128) with
      | some c => endCmd (partitionFault s k c 2) p 0x0D 0 0 0
      | none =>
        let p := { p with wait := Wait.stream m, items := items }
        enterStreams (addPending s p) p k j .run m (openUnitOfQueue s k j))

/-! ## Replay units (R305–R317) -/

/-- Free pages of the hold in a cluster, and free spill bytes. -/
def freeHold (p : Partition) (c : Tc) : List Nat :=
  let taken := p.units.flatMap fun u => (u.hold.filter fun x => x.1 == c).flatMap (·.2)
  (List.range (p.holdSize.toNat / 4096)).filter fun q => !taken.contains q

def freeSpill (p : Partition) : Nat := p.spillSize.toNat - (p.units.map (·.spillBytes)).sum

/-- The hold pages of each cluster for a unit, the lowest free ones, and the excess in bytes (R307). -/
def holdPlan (p : Partition) (bs : Bytes) (m : BitVec 16) : List (Tc × List Nat) × Nat :=
  let cap := captureBytes bs
  let hold := (tcsOf m).map fun c => (c, (freeHold p c).take (cap / 4096))
  (hold, (hold.map fun x => cap - 4096 * x.2.length).sum)

def newUnit (mark : W32) (j : Fin 16) (hold : List (Tc × List Nat)) (spill : Nat) : ReplayUnit :=
  { mark := mark, qs := [j], reached := 0, captured := none, hold := hold, spillBytes := spill, causes := 0, causeAt := 0xFF, checkMask := 0,
    overflowC := 0, ended := [], flushed := 0, nonzero := 0, wideOnly := true, ceilings := [], oldLevels := [], tiles := [], threshold := 0, routes := [],
    completed := false, rolling := false, rerunWait := false }

/-- UNIT_BEGIN at the head of its queue: it waits while its mark is pending or its last unit is open (notes/assumptions/83.md,
DEDUCED), while eight units are open, and while the hold and the spill region have too little room (R65, R305). The UNIT_BEGIN of a
further data queue joins the open unit of the mark, which that queue feeds from then on (R297, R314). -/
def unitBeginBody (k : Pt) (j : Fin 16) (s : State) (p : Pending) : State :=
  let h := BitVec.ofNat 32 (fld p.e.w2 31 0)
  match findObj s k 6 h with
  | .bad => endPending s p 0x03 0 0 0
  | .wait => s
  | .ok bs =>
    let q := s.parts[k]
    let o : SetupObj := { typ := 6, gen := 0, idx := 0, bytes := bs, st := .active }
    let m := markClusters o
    if (tcsOf m).any fun c => s.clusters[c].fenced then endPending s p 0x0D 0 0 0
    else if q.data[j].size < markCmds o then endPending s p 0x0B 0 0 0
    else
      let (hold, spill) := holdPlan q bs m
      let p := { p with wait := Wait.stream m }
      match unitOf q h with
      | some u =>
        if u.qs.contains j ∨ u.completed ∨ u.rolling then s
        else enterStreams (setWait (modUnit s k h fun u => { u with qs := u.qs ++ [j] }) p (.stream m)) p k j .unitBegin m (some h)
      | none =>
        if 8 ≤ q.units.length ∨ freeSpill q < spill then s
        else
          let u := { newUnit h j hold spill with threshold := q.policy.flush }
          let s := s.modPart k fun t => { t with units := t.units ++ [u] }
          enterStreams (setWait s p (.stream m)) p k j .unitBegin m (some h)

def execUnitBegin (k : Pt) (j : Fin 16) (e : Entry) (s : State) : Out :=
  .next (takeCmd s (.data k j) e 0x48 { w2 := 2 ^ 32 - 1 } fun s p => unitBeginBody k j (addPending s p) p)

/-- UNIT_END at the head of its queue. -/
def unitEndBody (k : Pt) (j : Fin 16) (s : State) (p : Pending) : State :=
  let h := BitVec.ofNat 32 (fld p.e.w2 31 0)
  match findObj s k 6 h with
  | .bad => endPending s p 0x03 0 0 0
  | .wait => s
  | .ok bs =>
    if openUnitOfQueue s k j = some h then
      let m := markClusters { typ := 6, gen := 0, idx := 0, bytes := bs, st := .active }
      let p := { p with wait := Wait.stream m }
      enterStreams (setWait s p (.stream m)) p k j .unitEnd m (some h)
    else endPending s p 0x01 0 0 0

/-- Commands at the head of their queues are tried again (R65, R305); a halted queue issues nothing (R763). -/
def retryHead (s : State) (p : Pending) : State :=
  match p.q with
  | .data k j =>
    if s.parts[k].data[j].halted then s
    else match fld p.e.w0 63 56 with
    | 0x48 => unitBeginBody k j s p
    | 0x49 => unitEndBody k j s p
    | 0x50 => linkGoBody k s p
    | _ => s
  | _ => s

def retryHeads (s : State) (k : Pt) : State :=
  (s.parts[k].inflight.filter fun p => p.wait == .head).foldl retryHead s

/-- The pages that a mark captures in each cluster. -/
def markPages (bs : Bytes) : List Nat :=
  ((markInputs bs).filter fun x => !x.1).flatMap fun x => (List.range (x.2.2 / 4096)).map fun i => x.2.1 % 2 ^ 25 + 4096 * i

/-- One page is copied into the hold, or kept for the spill region. -/
def capturePage (k : Pt) (c : Tc) (a : State × List Captured) (x : Nat × Option Nat) : State × List Captured :=
  let s := notePoisonReads a.1 c x.1 4096
  let bs := spadPeek s.clusters[c] x.1 4096
  match x.2 with
  | some q => (s.modCluster c fun t => spadWrite t (s.parts[k].holdBase.toNat + 4096 * q) bs false,
               a.2 ++ [{ cluster := c, addr := x.1, page := some q, spilled := [] }])
  | none => (s, a.2 ++ [{ cluster := c, addr := x.1, page := none, spilled := bs }])

/-- The KIND 0 ranges of one cluster are copied: into its pages of the hold as far as they go, the excess into the spill region. -/
def captureCluster (k : Pt) (bs : Bytes) (hold : List (Tc × List Nat)) (a : State × List Captured) (c : Tc) : State × List Captured :=
  let qs := match hold.find? fun x => x.1 == c with | some x => x.2 | none => []
  ((markPages bs).zip (List.range (markPages bs).length)).foldl (fun a x => capturePage k c a (x.1, qs[x.2]?)) a

/-- The UNIT_BEGIN commands of a unit have nothing to wait for once it is captured. -/
def beginsDone (s : State) (k : Pt) (mark : W32) (c : Tc) : State :=
  (s.clusters[c].jobs.filter fun b => b.part == k && b.kind == .unitBegin && b.unit == some mark && b.started).foldl
    (fun s b => streamDone s k b.id c) s

/-- UNIT_CAPTURE: every cluster has reached UNIT_BEGIN, and the KIND 0 ranges are in the hold. UNIT_BEGIN ends (R307). -/
def execUnitCapture (k : Pt) (mark : W32) (s : State) : Out :=
  .next (match unitOf s.parts[k] mark, objOf s.parts[k] mark with
    | some u, some o =>
      let m := markClusters o
      if u.captured.isSome || (u.reached &&& m) != m then s
      else
        let (t, caps) := (tcsOf m).foldl (captureCluster k o.bytes u.hold) (s, [])
        let t := modUnit t k mark fun u => { u with captured := some caps }
        settleFrom s (pumpAll (allTcs.foldl (fun t c => beginsDone t k mark c) t))
    | _, _ => s)

/-- UNIT_END: it names the unit that its queue has open. One that names a pending mark waits at the head (R65). -/
def execUnitEnd (k : Pt) (j : Fin 16) (e : Entry) (s : State) : Out :=
  .next (takeCmd s (.data k j) e 0x49 { w2 := 2 ^ 32 - 1 } fun s p => unitEndBody k j (addPending s p) p)

/-- The flushed fraction of a unit exceeds FLUSH_THRESHOLD / 65,536 (R140). -/
def flushFails (u : ReplayUnit) : Bool := u.threshold != 0 && decide (u.threshold.toNat * u.nonzero < 65536 * u.flushed)

/-- UNIT_COMPLETE: every SQ has passed UNIT_END, every work item and CHECK verdict is done. The flush test is made, and the
sends that a revoke took back go out again (R315, R317, R318). -/
def execUnitComplete (k : Pt) (mark : W32) (s : State) : Out :=
  .next (match unitOf s.parts[k] mark with
    | some u =>
      let m := unitClusters s.parts[k] u
      if u.captured.isNone || u.completed || u.rolling || u.rerunWait || (unitEnded u &&& m) != m || unitBusy s k mark then s
      else
        let s := modUnit s k mark fun u => { u with completed := true }
        let s := u.routes.foldl (fun s i => if s.links.sendSeq.any fun x => x.1 == k && x.2.1 == i then startRoute s k i else s) s
        -- Every write-out was FP32: the OVERFLOW causes that waited leave their results standing (R312).
        let s := u.ceilings.foldl (fun s x => noteCeiling s k u 0x02 x.1.toNat x.2) (modUnit s k mark fun u => { u with ceilings := [] })
        settle (if flushFails u then raiseCause s k mark 0x04 0xFF 0 0 else s)
    | none => s)

/-- UNIT_RETIRE: completed without a pending cause, and first of the open units. Hold, spill and locks are free, and its
tentative sends may be committed (R316, R317). -/
def execUnitRetire (k : Pt) (mark : W32) (s : State) : Out :=
  .next (match s.parts[k].units with
    | u :: rest =>
      if u.mark ≠ mark ∨ !u.completed ∨ u.causes ≠ 0 ∨ u.rolling then s
      else
        let s := s.modPart k fun p => { p with units := rest }
        let routes := s.links.routes.map fun r =>
          if r.part = k ∧ r.unit = some mark ∧ r.commitTick = none then { r with commitTick := some s.meridian.tick } else r
        let s := { s with links := { s.links with routes := routes } }
        settle (retryHeads (pumpAll s) k)
    | [] => s)

/-- Sends of an open unit whose last flit was sent in the tick before the one that has ended (R317). -/
def lateSends (s : State) (k : Pt) (mark : W32) : List RouteRun :=
  s.links.routes.filter fun r => r.part == k && r.unit == some mark && r.commitTick.isNone && r.sentAll &&
    decide (r.sendTick.toNat + 2 ≤ s.meridian.tick.toNat)

/-- UNIT_LATE_REVOKE: the unit has not retired by the end of the tick after the tick of the send. -/
def execUnitLateRevoke (k : Pt) (mark : W32) (s : State) : Out :=
  .next (match unitOf s.parts[k] mark with
    | some u =>
      if (lateSends s k mark).isEmpty then s
      else settle (raiseCause (revokeSends s k u) k mark 0x08 0xFF 0 0)
    | none => s)

/-! ## The compute phase (R319, R320) -/

def execStepFence (k : Pt) (j : Fin 16) (e : Entry) (s : State) : Out :=
  .next (takeCmd s (.data k j) e 0x4A { w2 := 0xFFFF } fun s p =>
    let m := BitVec.ofNat 16 (fld e.w2 15 0)
    let st := clustersStatus s k m
    if st ≠ 0 then endCmd s p st 0 0 0
    else
      let p := { p with wait := Wait.stream m }
      enterStreams (addPending s p) p k j .fence m none)

/-- The clusters of a partition that are fenced. -/
def fencedOf (s : State) (k : Pt) : BitVec 16 :=
  s.parts[k].clusters &&& maskOf 16 fun i => match s.clusters.toList[i]? with | some c => c.fenced | none => false

/-- COMPUTE_PHASE_END: every cluster has passed its STEP_FENCE, and every unit has retired. The local flag is final. A fenced
cluster passes no STEP_FENCE and is not waited for, since R719 lets the step end (notes/assumptions/74.md, DEDUCED). -/
def execComputePhaseEnd (k : Pt) (s : State) : Out :=
  let p := s.parts[k]
  .next (if p.live && p.step.phase == .compute && ((p.step.fences ||| fencedOf s k) &&& p.clusters) == p.clusters && p.units.isEmpty &&
      (!p.conf || p.session.state == 3) then
      s.modPart k fun p => { p with step := { p.step with phase := .decide, endTick := s.meridian.tick } }
    else s)

/-! ## SIGNAL and WAIT (R71–R80) -/

/-- The partition for which the program of cluster c runs, and the number of its SQ_RUN. -/
def sqRunning (s : State) (c : Tc) : Option (Pt × Nat) :=
  match s.clusters[c].part, currentRun s.clusters[c] with
  | some k, some b => if s.clusters[c].fenced || unitRolls s.parts[k] b.unit then none else some (k, b.id)
  | _, _ => none

def execSignal (o : SigFrom) (s : State) : Out :=
  .next (match o with
    | .queue k j e => takeCmd s (.data k j) e 0x58 { w2 := 0xFFFF3FFF } fun s p =>
        let n := fld e.w2 31 16
        if n = 0 then endCmd s p 0x01 0 0 0
        else endCmd (signalSync s (some k) 0xFF (fld e.w2 13 0) n) p 0 0 0 0
    | .sq c pc obj n => match sqRunning s c with
      -- n = 0 adds nothing; the spec gives no status for it here (notes/assumptions/148.md, DESIGN CHOICE).
      | some (k, id) => if sqFetchBad s k c pc then settle (sqFetchFault s k c id) else if n = 0 then s else settle (sqIssued (signalSync s (some k) c.1 obj.toNat n.toNat) c id)
      | none => s)

/-- Is a WAIT rejected (R76)? -/
def waitBad (n : Nat) (tick : Bool) (timeout : Nat) : Bool := n == 0 || (tick && (timeout == 0 || decide (255 < timeout)))

/-- A WAIT reaches the file in the clock of its command; a timeout of 0 clocks expires in that clock. It is served, or ends, when
the clock ends (R76, R79). -/
def enterWait (s : State) (w : Waiter) (more : Bool) : State :=
  let short := decide ((syncGet s w.obj.toNat).toNat < w.n.toNat)
  let once := !w.ticks && w.left == 0
  { s with waiters := s.waiters ++ [{ w with arrived := true, due := once, coin := once && short, open_ := more }] }

/-- A WAIT that stands in the file, as its command brings it. -/
def newWaiter (id : Nat) (k : Pt) (src : Option Tc) (q : Fin 16) (tag : BitVec 16) (obj : BitVec 14) (n : BitVec 16) (ticks : Bool)
    (left : Nat) : Waiter :=
  { id := id, part := k, src := src, qj := q, tag := tag, obj := obj, n := n, ticks := ticks, left := left,
    origin := match src with | some c => .tc c | none => .hostPort, arrived := false, due := false, coin := false, open_ := false }

/-- WAIT. Outside the partition's reach it is dropped, and completes with status 0, for which the spec gives the record and no
status (R72; notes/assumptions/148.md, DESIGN CHOICE). -/
def execWait (o : WaitIn) (s : State) : Out :=
  .next (match o.src with
    | .queue k j e => takeCmd s (.data k j) e 0x59 { w2 := 2 ^ 63 + 0xFFFFFF * 2 ^ 32 + 0xFFFF3FFF } fun s p =>
        let obj := fld e.w2 13 0
        let n := fld e.w2 31 16
        let t := fld e.w2 55 32
        let ticks := bit e.w2 63
        if waitBad n ticks t then endCmd s p 0x01 0 0 0
        else if !syncReach s.parts[k] obj then endCmd (syncDrop s k 0xFF obj) p 0 0 0 0
        else
          let p := { p with wait := .syncWait }
          enterWait (addPending s p)
            (newWaiter p.id k none j (BitVec.ofNat 16 (fld e.w0 15 0)) (BitVec.ofNat 14 obj) (BitVec.ofNat 16 n) ticks t) o.more
    | .sq c pc obj n timeout tick => match sqRunning s c with
      | none => s
      | some (k, job) =>
        if sqFetchBad s k c pc then settle (sqFetchFault s k c job) else
        let out := fun (s : State) (st : Byte) => settle (sqIssued (s.modCluster c fun t => { t with waitOut := st }) c job)
        if waitBad n.toNat tick timeout.toNat then out s 0x01
        else if !syncReach s.parts[k] obj.toNat then out (syncDrop s k c.1 obj.toNat) 0
        else
          let id := s.nextId
          let s := modJob s c job fun b => { b with left := b.left - 1, waits := true }
          settle (enterWait { s with nextId := id + 1 } (newWaiter id k (some c) 0 0 obj n tick timeout.toNat) o.more))

/-- WAIT_TIMEOUT: the SIGNALs of the same clock are applied first, and one that satisfies the WAIT wins, counted in
COINCIDENT (R77–R80). A timeout in ticks expires once its boundaries have passed. -/
def execWaitTimeout (id : Nat) (sameClock : ClockIn) (s : State) : Out :=
  .next (match s.waiters.find? fun w => w.id == id with
    | none => s
    | some w =>
      if w.ticks ∧ w.left ≠ 0 then s
      else
        let s := sameClock.signals.foldl (fun s x => signalSync s x.part 0xFF x.obj.toNat x.n.toNat) s
        settle { s with waiters := s.waiters.map fun (x : Waiter) =>
          if x.id = id then { x with due := true, coin := true, open_ := sameClock.more } else x })

end Sys2Proof.Machine
end

