-- ==== Sys2Proof/Machine/PressPass.lean ====
section
/-! DEFINITION. The passes of a step on the presses: their starts, the norm, the end of the update phase, press faults
and takeovers (spec/08_press.md R349–R378, spec/01_overview.md R38–R40). -/

namespace Sys2Proof.Machine

open Sys2Proof

/-! ## When pass 1 may start (R38–R40) -/

/-- Does a receive route write into a range of the partition's active regions? -/
def routeFeeds (s : State) (k : Pt) (o : SetupObj) : Bool :=
  isRecv o && (activeRegions s k).any fun (_, d) => (regRanges d).any fun (a, len) =>
    overlaps (addrLoc (rtAddr o.bytes)) (rtLen o.bytes * (if rtOp o.bytes == 3 && rtElem o.bytes == 1 then 2 else 1)) (addrLoc a) len

/-- Is receive route idx active: activated, and its last flit not applied? -/
def transferRuns (s : State) (k : Pt) (idx : BitVec 16) : Bool := s.links.routes.any fun r => r.part == k && r.idx == idx

/-- Is a gradient transfer of the step still incomplete, tentative, unreleased, or revoked and not replayed? The transfers of the step are
those whose routes are active or hold flits (notes/assumptions/156.md, DEDUCED). -/
def transferOpen (s : State) (k : Pt) : Bool :=
  s.parts[k].objs.any fun o => o.typ == 2 && routeFeeds s k o &&
    (transferRuns s k o.idx || (s.ports.toList.any fun x => x.held.any fun h => h.part == k && h.stream.toNat == o.idx.toNat) ||
     s.links.gaps.any fun g => g.1 == k && g.2.1.toNat == o.idx.toNat)

/-! ## Passes handed to the units (R333, R372, R373, R377) -/

/-- The cellar press turns from a pass 1 of its own to a taken-over unit: pass 1 writes nothing, and every one of its grains is a
boundary (R373). -/
def yieldPass1 (s : State) : State :=
  let x := s.presses[(8 : Ps)]
  match x.run with
  | some r => if r.pass = 1 ∧ r.slotOf = 8 ∧ x.ready.any (fun y => y.2.2 != 8) then s.modPress 8 fun x => { x with run := none, suspended := x.suspended ++ [r] } else s
  | none => s

/-- A TAKEOVER record of a press, once for each partition after it has stopped (R377). -/
def noteTakeover (s : State) (k : Pt) (p : Ps) : State :=
  let x := s.presses[p]
  notePart (s.modPress p fun x => { x with tookOver := setBit x.tookOver k.1 true }) k 0x13 p.1 x.progRegion.toNat (x.progGrain.toNat % 2 ^ 32)

/-- The pass of unit u becomes ready: on its press, or on the cellar press where its press is faulted or fenced; a press that stopped
between the passes of the step is taken over now (R377). False where no unit can run it. -/
def handPass (s : State) (k : Pt) (pass : Nat) (u : Ps) : State × Bool :=
  let x := s.presses[u]
  if u.1 < 8 ∧ !x.faulted ∧ !x.fenced then (addReady s u (k, pass, u), true)
  else if cellarServesPart s k then
    let s := if u.1 = 8 ∨ bit x.tookOver k.1 then s
      else if pass = 2 then noteTakeover s k u
      else s.modPress u fun x => { x with tookOver := setBit x.tookOver k.1 true }
    (addReady s 8 (k, pass, u), true)
  else (s, false)

/-- A pass of partition k becomes ready on every unit; units with an empty slot have nothing to do. Unless more passes become ready in
this clock, idle units take what is ready. -/
def startPasses (s : State) (k : Pt) (pass : Nat) (more : Bool) : State :=
  let busy := allPss.filter fun u => s.presses[u].slots[k].active.isSome
  let s := s.modPart k fun p => { p with step := { p.step with unitsDone := maskOf 9 fun i => !(busy.any fun u => u.1 == i) } }
  let (s, ok) := busy.foldl (fun a u =>
    let (s, ok) := handPass a.1 k pass u
    (s, a.2 && ok)) (s, true)
  if !ok then tearUpdate s k else if more then s else allPss.foldl startUnit (yieldPass1 s)

/-- η is latched for the step (R358). -/
def latchEta (s : State) (k : Pt) : State :=
  let s := if s.parts[k].step.etaFresh then s else s.count k fun c => { c with stepReused := satAdd c.stepReused 1 }
  s.modPart k fun p => { p with step := { p.step with etaLatched := p.step.etaTick, etaFresh := false } }

/-- PRESS_PASS1_START: the OR is clear, and every gradient transfer is committed and released. In SPARSE service the one
pass of the step starts (R351, R352). -/
def execPressPass1Start (x : PassIn) (s : State) : Out :=
  let k := x.part
  let p := s.parts[k]
  .next (if p.step.phase != .armed || transferOpen s k then s
    else
      let sparse := p.step.service == 1
      let s := latchEta s k
      let s := s.modPart k fun p => { p with step := { p.step with phase := if sparse then .sparse else .pass1, combined := none,
                                                                   partial_ := NormPartial.zero } }
      settle (tearFenced (startPasses s k (if sparse then 3 else 1) x.more)))

/-! ## The norm (R354, R355) -/

/-- A partial with the square of one element. -/
def addSquare (w : Int) (acc : NormPartial) (v : Val) : NormPartial :=
  if !v.isFinite then { acc with nf := true }
  else
    let (i, low, range) := placeLong w (Val.ofRat false (v.toRat * v.toRat))
    let (x, r) := longAdd acc.value (BitVec.ofInt 160 i)
    { acc with value := x, low := acc.low || low, range := acc.range || range || r }

/-- Stream 0 of one grain. A poisoned element counts as not finite (notes/assumptions/31.md, DEDUCED). -/
def normGrain (k : Pt) (w : Int) (d : List W64) (a : State × NormPartial) (g : Nat) : State × NormPartial :=
  let e := firstElem d 0 g 0 0
  let n := min (streamGrain d 0) (strElems d 0 - e)
  let r := readElems a.1 k d 0 e n
  let acc := (List.range n).foldl (fun acc j => addSquare w acc (streamVal (strWord d 0) (r.codes.getD j 0) (r.scales.getD j none))) a.2
  (r.s, if r.ok then acc else { acc with nf := true })

/-- A region with NORM set: every grain, of KIND 1 regions the touched rows. -/
def normRegion (k : Pt) (w : Int) (a : State × NormPartial) (d : List W64) : State × NormPartial :=
  if !regNorm d then a
  else (List.range (regGrains d)).foldl (fun a g =>
    if regKind d = 1 ∧ regTrack d then
      let t := readTouched a.1 k (regBitmap d) g
      if t.set then normGrain k w d (t.s, if t.st = 0 then a.2 else { a.2 with nf := true }) g else (t.s, a.2)
    else normGrain k w d a g) a

/-- The units of partition k that have not finished. -/
def openUnits (s : State) (k : Pt) : List Ps := allPss.filter fun u => !bit s.parts[k].step.unitsDone u.1

/-- The passes of press p in the order in which it serves them: the one in progress, those of taken-over units, those interrupted, and
the others. -/
def servingOrder (s : State) (p : Ps) : List (Pt × Nat × Ps) :=
  let x := s.presses[p]
  let of := fun (r : PressRun) => (r.part, r.pass, r.slotOf)
  (x.run.map of).toList ++ (x.ready.filter fun y => y.2.2 != p) ++ x.suspended.map of ++ x.ready.filter fun y => y.2.2 == p

/-- Can some press have come to the end of pass 1 of unit u for partition k? A pass 1 that stands before it ends by itself. -/
def pass1Runs (s : State) (k : Pt) (u : Ps) : Bool :=
  allPss.any fun p => !s.presses[p].faulted && !s.presses[p].fenced &&
    ((servingOrder s p).takeWhile fun y => y.2.1 == 1).contains (k, 1, u)

/-- PRESS_PASS1_END: every unit's pass 1 is complete; the device partial is formed and enters the norm exchange. -/
def execPressPass1End (k : Pt) (s : State) : Out :=
  .next (if s.parts[k].step.phase != .pass1 || (openUnits s k).any fun u => !pass1Runs s k u then s
    else
      let w := s.parts[k].step.normWexp.toInt
      let us := openUnits s k
      let (s, sum) := us.foldl (fun a u => match a.1.presses[u].slots[k].active with
        | some im => im.regions.foldl (normRegion k w) a
        | none => a) (s, NormPartial.zero)
      let sum := { sum with owners := s.parts[k].step.owners }
      let mine := fun (r : PressRun) => r.part == k && r.pass == 1
      let s := { s with presses := vmap s.presses fun x =>
        { x with run := if x.run.any mine then none else x.run, suspended := x.suspended.filter fun r => !mine r,
                 ready := x.ready.filter fun y => !(y.1 == k && y.2.1 == 1) } }
      let s := us.foldl (fun s u => s.modPress u fun x => { x with byCellar := setBit x.byCellar k.1 false }) s
      let s := s.modPart k fun p => { p with step := { p.step with phase := .norm, partial_ := sum, unitsDone := BitVec.allOnes 9 } }
      settle (tearFenced (normAdd (allPss.foldl startUnit s) k none sum)))

/-- PRESS_PASS2_START: the boundary after G² reached the device has come (R357). -/
def execPressPass2Start (x : PassIn) (s : State) : Out :=
  let k := x.part
  .next (if s.parts[k].step.phase != .normHere then s
    else settle (startPasses (s.modPart k fun p => { p with step := { p.step with phase := .pass2 } }) k 2 x.more))

/-- UPDATE_PHASE_END: every unit has completed the last pass; one that wrote the cellar, no earlier than the batch cut
after its last write (R360, R412). -/
def execUpdatePhaseEnd (k : Pt) (s : State) : Out :=
  let p := s.parts[k]
  .next (if (p.step.phase == .pass2 || p.step.phase == .sparse) && p.step.unitsDone == BitVec.allOnes 9 && !bit s.cellar.lastWrite k.1 then
      s.modPart k fun p => { p with step := { p.step with phase := .applied } }
    else s)

/-! ## Faults and takeovers (R376, R377) -/

/-- PRESS_FAULT: an uncorrectable error in the slot store, or a parity error in a stage. -/
def execPressFault (p : Ps) (s : State) : Out :=
  .next (if s.presses[p].faulted || (decide (p.1 < 8) && !hbPresent s p.1) then s
    else settle (faultPress s p))

/-- The passes that a stopped press leaves: the one it ran, and those that wait. -/
def leftPasses (x : Press) : List (Pt × Nat × Ps) :=
  (match x.run with | some r => [(r.part, r.pass, r.slotOf)] | none => []) ++ x.ready

/-- TAKEOVER: at the next boundary the cellar press takes over the regions of a faulted or fenced press; where it cannot,
the update stops torn (R377, R378). -/
def execTakeover (h : Hb) (s : State) : Out :=
  let p : Ps := hbBank h
  let x := s.presses[p]
  let taken := s.presses[8].ready.any (fun y => y.2.2 == p) || (match s.presses[8].run with | some r => r.slotOf == p | none => false)
  .next (if !(x.faulted || x.fenced) || (leftPasses x).isEmpty || taken then s
    else
      let s := s.modPress p fun x => { x with ready := [] }
      let s := (leftPasses x).foldl (fun s y =>
        if cellarServesPart s y.1 then
          addReady (noteTakeover s y.1 p) 8 y
        else tearUpdate s y.1) s
      settle (startUnit (yieldPass1 s) 8))

end Sys2Proof.Machine
end

