-- ==== Sys2Proof/Machine/Session.lean ====
section
/-! DEFINITION. Confidential sessions: import and export records, sealing, key delivery and the session join, closing, and
the rind gate (spec/11_confidential_computing.md R505–R528, R551–R558, spec/14_host_registers.md R668,
spec/12_keys_lifecycle_boot.md R568, R575, R577). -/

namespace Sys2Proof.Machine

open Sys2Proof

/-! ## The session of a partition -/

def State.modSession (s : State) (k : Pt) (f : Session → Session) : State :=
  s.modPart k fun p => { p with session := f p.session }

def sessionId (x : Session) : Bytes := slice x.manifest 0 16

/-- Is this device the anchor of partition k's session? -/
def isAnchor (s : State) (k : Pt) : Bool :=
  s.parts[k].conf && numAt s.parts[k].session.manifest 24 2 == s.links.deviceId.toNat

/-- An open session: PROVISIONING, SEALED or RUNNING. -/
def sessionOpen (s : State) (k : Pt) : Bool := s.parts[k].conf && s.parts[k].session.state != 4

/-- The slot of a party's delivered key (R518). -/
def wrapSlot (s : State) (k : Pt) (party : Nat) : Option Nat :=
  (s.sc.keys.slots.find? fun e => e.2.valid && e.2.usage == 2 && e.2.world == 1 && e.2.part.toNat == k.1 && e.2.party.toNat == party).map (·.1)

/-- The custodian of a session, if it has one (R506). -/
def custodian (m : Bytes) : Option Nat := (List.range (manParties m)).find? fun i => manRole m i == 3

/-! ## Key delivery and the join (R509, R518, R519, R527) -/

/-- A session enters RUNNING when the keys of every owner and provider are held and the device has joined (R509). -/
def maybeRun (s : State) (k : Pt) : State :=
  let x := s.parts[k].session
  let all := (List.range (manParties x.manifest)).all fun i => manRole x.manifest i == 3 || bit x.delivered i
  if x.state = 2 ∧ x.joined ∧ all then s.modSession k fun x => { x with state := 3 } else s

/-- The SC binds an owner's key ID to a memory slot of the session, the lowest key ID that nothing binds
(notes/assumptions/32.md, DESIGN CHOICE). -/
def bindOwner (s : State) (k : Pt) (party : Byte) : Option State :=
  match s.parts[k].session.smkSlot, unboundKeyId s, freeIndex s.parts[k] 4 with
  | some m, some keyId, some idx =>
    match sessionMemSlot s k m.1 keyId party (sessionId s.parts[k].session) with
    | none => none
    | some (s, i) =>
      let w := keyId * 2 ^ 56 + i * 2 ^ 46 + 0x5C * 2 ^ 32 + 0x5C * 2 ^ 24 + party.toNat * 2 ^ 16
      let o : SetupObj := { typ := 4, gen := Sparse.get (0 : BitVec 10) s.parts[k].gens (genKey 4 idx), idx := BitVec.ofNat 16 idx,
                            bytes := leBytes 8 w ++ List.replicate 24 0, st := .active }
      some (s.modPart k fun p => { p with objs := p.objs ++ [o] })
  | _, _, _ => none

/-- A party's key in a wrap slot of the session; none where no slot can be had. -/
def storeKey (s : State) (k : Pt) (party : Byte) (key : Bytes) : Option State :=
  match s.parts[k].session.smkSlot, (freeSlots s).head?, slotBudget s k with
  | some m, some i, true =>
    let s := setSlot s i { valid := true, parent := BitVec.ofNat 10 m.1, usage := 2, world := 1, part := BitVec.ofNat 3 k.1,
                           masters := 0x04, lcMask := 0xFF, party := party, keyId := 0, kgen := 0, key := key }
    let s := s.modSession k fun x => { x with delivered := setBit x.delivered party.toNat true }
    if manRole s.parts[k].session.manifest party.toNat = 1 then (if slotBudget s k then bindOwner s k party else none) else some s
  | _, _, _ => none

/-- The rounding seed of a session and the slot of the rounding key (R364, R519). -/
def takeSeed (s : State) (k : Pt) (seed : Bytes) : State :=
  let s := s.modPart k fun p => { p with step := { p.step with seed := seed }, session := { p.session with joined := true } }
  match s.parts[k].session.smkSlot with
  | some m =>
    match roundingSlot s k m.1 1 seed (sessionId s.parts[k].session) with
    | some (s, i) => s.modSession k fun x => { x with roundSlot := slotIndex i }
    | none => s
  | none => s

/-- The confidential partition of a session. -/
def partOfSession (s : State) (id : Bytes) : Option Pt := allPts.find? fun k => s.parts[k].conf && sessionId s.parts[k].session == id

/-- SESSION_JOIN leaves for the anchor (R519): an ephemeral key and a signature of the attestation key over session, PM and key. KEYGEN
draws for both unless its source is stopped (R575). -/
def sendJoin (s : State) (k : Pt) : State :=
  if s.sc.esState != 0 then s
  else
    let (s, a) := s.draw 56
    let (s, b) := s.draw 56
    let x := s.parts[k].session
    let pub := (keyPair a).2
    let sig := ecdsaSign (keyPair (slot s 5).key).1 (sha384 (sessionId x ++ x.pm ++ pub)) (beNat b)
    { s with dict := { s.dict with joinOut := s.dict.joinOut ++ [.join (sessionId x) x.pm pub sig] } }

/-- What the anchor's answer carries: the seed, and each delivered key behind its party (R519; notes/assumptions/35.md, DESIGN CHOICE). -/
def answerPlain (s : State) (k : Pt) : Bytes :=
  s.parts[k].step.seed ++ ((List.range (manParties s.parts[k].session.manifest)).filterMap fun i =>
    (wrapSlot s k i).map fun j => BitVec.ofNat 8 i :: (slot s j).key).flatten

/-- The anchor's answer leaves for a device: an ephemeral key of its own, and the seed and the keys held under the key that the two
ephemeral keys give (R519, R568; notes/assumptions/35.md, DESIGN CHOICE). -/
def sendAnswer (s : State) (k : Pt) (dest : BitVec 16) : State :=
  if s.sc.esState != 0 then s
  else
    let (s, a) := s.draw 56
    let (s, iv) := s.draw 12
    let x := s.parts[k].session
    let peer := ((x.peerKeys.find? fun y => y.1 == dest).map (·.2)).getD []
    let key := kdf (ecdhZ (keyPair a).1 peer) "MDR-JOIN" (sessionId x) 32
    let ct := gcmCrypt key iv (answerPlain s k)
    { s with dict := { s.dict with joinOut := s.dict.joinOut ++ [.answer dest (sessionId x) (keyPair a).2 (iv ++ ct ++ gcmTag key iv [] ct)] } }

/-- JOIN: the anchor answers a SESSION_JOIN whose signature verifies and whose PM is its own, and the device has joined.
What the answer carries reaches that device as its JOIN_ANSWER (notes/assumptions/35.md, DESIGN CHOICE). -/
def execJoin (m : JoinMsg) (s : State) : Out :=
  .next (match partOfSession s m.sessionId with
    | none => s
    | some k =>
      let x := s.parts[k].session
      if isAnchor s k && (x.state == 2 || x.state == 3) && m.sigOk && m.pm == x.pm && s.sc.esState == 0 then
        sendAnswer (s.modSession k fun x => { x with
          peers := if x.peers.contains m.src then x.peers else x.peers ++ [m.src]
          peerKeys := (x.peerKeys.filter fun y => y.1 != m.src) ++ [(m.src, m.pubKey)] }) k m.src
      else s)

/-- JOIN_ANSWER: seed and party keys on a joining device; keys delivered later come in the same way. -/
def execJoinAnswer (m : JoinAnswerMsg) (s : State) : Out :=
  .next (match partOfSession s m.sessionId, m.plain with
    | some k, some (seed, keys) =>
      let x := s.parts[k].session
      if isAnchor s k || !(x.state == 2 || x.state == 3) then s
      else
        let s := if x.joined then s else takeSeed s k seed
        let s := keys.foldl (fun s (party, _, key) =>
          if bit s.parts[k].session.delivered party.toNat then s else (storeKey s k party key).getD s) s
        maybeRun s k
    | _, _ => s)

/-! ## Sealing (R512–R515) -/

/-- The device physical address of byte `off` of an object in its home tier. -/
def objBase (o : MemObj) : Option Nat :=
  if o.place = 0 then o.hbmBase.map fun b => objAddr o (hbBank o.stack) b else o.celBase.map fun b => objAddr o cellarBank b

def objBytes (o : MemObj) : Nat := o.regions * regionBytes

/-- The contents of an object as the SC reads them. -/
def objContents (s : State) (k : Pt) (o : MemObj) : State × Bytes :=
  match objBase o with
  | some a =>
    let r := readRange s k a (objBytes o)
    (r.s, r.bs.map (·.1))
  | none => (s, [])

/-- Code objects in increasing OBJ (R512). -/
def codeObjs (p : Partition) : List MemObj :=
  (List.range 65536).filterMap fun i => p.mem.find? fun o => o.obj.toNat == i && o.place == 0 && o.keyId == 0 && o.code

/-- The program measurement (R514), and what its reads of the code objects have found (R404, R419, R420). -/
def programMeasurement (s : State) (k : Pt) : State × Bytes :=
  let p := s.parts[k]
  let m := sha384 (s.sc.dfwDigest ++ p.session.digest)
  let (s, m) := (codeObjs p).foldl (fun a o =>
    let (s, bs) := objContents a.1 k o
    (s, sha384 (a.2 ++ sha384 bs))) (s, m)
  (s, sha384 (m ++ p.step.digest))

/-- The private number and the public point of the transcript key (R568, R569). -/
def transcriptKey (s : State) (k : Pt) : Nat × Bytes :=
  keyPair (kdf (match s.parts[k].session.smkSlot with | some i => (slot s i.1).key | none => []) "MDR-TRANSCRIPT" (sessionId s.parts[k].session) 56)

/-- SESSION_SEAL: it holds the control queue until it completes (R514). -/
def execSessionSeal (k : Pt) (e : Entry) (s : State) : Out :=
  .next (takeCmd s (.ctrl k) e 0x38 {} fun s p =>
    if !s.parts[k].conf then endCmd s p 0x01 0 0 0
    else if s.parts[k].session.state ≠ 1 then endCmd s p 0x21 0 0 0
    else addPending s { p with wait := .sessionSeal false })

/-- Does a press image of the partition wait for a boundary (R336)? -/
def imagePending (s : State) (k : Pt) : Bool := s.presses.toList.any fun x => x.slots[k].pending.isSome

/-- The header of the release policy (R551). -/
def polStep (p : Bytes) : Nat := numAt p 4 4
def polSession (p : Bytes) : Nat := numAt p 8 8

/-- The ROUND instance waits: a reseed is due while the entropy source is stopped (R575). -/
def roundStopped (s : State) : Bool := s.sc.esState != 0 && decide (65536 ≤ s.sc.roundReqs)

/-- A boundary at which no press image of the partition is pending lets a SEAL that waits complete (R514). -/
def sealDue (s : State) (k : Pt) : State :=
  if imagePending s k then s
  else s.modPart k fun p => { p with inflight := p.inflight.map fun (x : Pending) => match x.wait with | .sessionSeal _ => { x with wait := .sessionSeal true } | _ => x }

/-- SESSION_SEAL_COMPLETE: a boundary has come at which no press image was pending. PM is fixed, the budgets open, and the anchor draws
the rounding seed; every other device sends SESSION_JOIN. -/
def execSessionSealComplete (k : Pt) (s : State) : Out :=
  .next (match s.parts[k].inflight.find? fun p => match p.wait with | .sessionSeal due => due | _ => false with
    | none => s
    | some p =>
      let anchor := isAnchor s k
      if anchor && roundStopped s then s
      else
        let (s, pm) := programMeasurement s k
        let key := if anchor then (transcriptKey s k).2 else List.replicate 96 0
        let s := s.modSession k fun x =>
          { x with state := 2, pm := pm, pubKey := key, chain := sha384 (sessionId x ++ x.digest),
                   stepLeft := BitVec.ofNat 32 (polStep x.policy), totalLeft := BitVec.ofNat 64 (polSession x.policy) }
        let s := if anchor then
            let (s, seed) := s.draw 32
            takeSeed { s with sc := { s.sc with roundReqs := s.sc.roundReqs % 65536 + 1 } } k seed
          else sendJoin s k
        settle (endPending (maybeRun s k) p 0 0 0 0))

/-! ## Import and export records (R520–R522) -/

/-- Is a record's header one that R520 and R521 allow: magic, version, party, a SEQ above the last one, a payload within the
destination, reserved bytes 0? -/
def recordOk (h : Bytes) (party size : Nat) (last : Option Nat) : Bool :=
  numAt h 0 4 == 0x52463856 && byteAt h 4 == 1 && (byteAt h 5).toNat == party && allZero (slice h 6 2) && allZero (slice h 20 4) &&
  allZero (slice h 44 20) && last.all (fun n => decide (n < numAt h 8 8)) && numAt h 16 4 % 64 == 0 && decide (numAt h 16 4 ≤ 2 ^ 20) &&
  decide (numAt h 24 8 + numAt h 16 4 ≤ size)

/-- An import that has gone on to some record: the state, the status once it has ended, or that of a write that waits. -/
structure Importing where
  s    : State
  off  : Nat
  last : Option Nat
  st   : Option Nat

/-- The status of a transfer of the import engine that has ended with an error: logged (R425). -/
def logTransfer (s : State) (k : Pt) (st a : Nat) : State := if st = 0 then s else badRequest s k 0xFF st (addrLoc a)

/-- The record that does not pass. -/
def importFail (s : State) (k : Pt) (o : MemObj) (seq : Nat) : State :=
  notePart s k 0x25 (if o.place = 0 then o.stack.1 else 8) o.keyId.toNat (seq % 2 ^ 32)

/-- One record read, verified and written. Records follow one another from the start of the staging object; a zero MAGIC
ends them (notes/assumptions/36.md, DEDUCED). -/
def importOne (k : Pt) (party : Nat) (key : Bytes) (src dst : MemObj) (a b : Nat) (i : Importing) : Importing :=
  match i.st with
  | some _ => i
  | none =>
    if objBytes src < i.off + 64 then { i with st := some 0 }
    else
      let r := readRange i.s k (a + i.off) 64
      let h := r.bs.map (·.1)
      let len := numAt h 16 4
      if r.st ≠ 0 then { i with s := logTransfer r.s k r.st (a + i.off), st := some r.st }
      else if numAt h 0 4 = 0 then { i with s := r.s, st := some 0 }
      else if !recordOk h party (objBytes dst) i.last || decide (objBytes src < i.off + 80 + len) then
        { i with s := importFail r.s k dst (numAt h 8 8), st := some 0x25 }
      else
        let x := readRange r.s k (a + i.off + 64) (len + 16)
        let bs := x.bs.map (·.1)
        let ct := bs.take len
        let iv := slice h 32 12
        if x.st ≠ 0 then { i with s := logTransfer x.s k x.st (a + i.off + 64), st := some x.st }
        else if gcmTag key iv h ct ≠ bs.drop len then { i with s := importFail x.s k dst (numAt h 8 8), st := some 0x25 }
        else
          let (s, st) := writeRange x.s k (b + numAt h 24 8) (clean (gcmCrypt key iv ct)) false
          if st = stStalled then { i with s := s, st := some st }
          else { s := logTransfer s k st (b + numAt h 24 8), off := i.off + 80 + len, last := some (numAt h 8 8), st := if st = 0 then none else some st }

def importLoop (k : Pt) (party : Nat) (key : Bytes) (src dst : MemObj) (a b : Nat) : (fuel : Nat) → Importing → Importing
  | 0, i => i
  | fuel + 1, i => match i.st with
    | some _ => i
    | none => importLoop k party key src dst a b fuel (importOne k party key src dst a b i)

/-- May a party's records enter an object: an owner's into objects of its own key ID, a provider's into objects of a
session key ID, the custodian's into checkpoint objects (R522; notes/assumptions/37.md, DEDUCED)? -/
def importInto (s : State) (k : Pt) (party : Nat) (o : MemObj) : Bool :=
  match manRole s.parts[k].session.manifest party with
  | 1 => match bindingOf s k o.keyId.toNat with | some b => bindParty b == party | none => false
  | 2 => match bindingOf s k o.keyId.toNat with | some b => bindParty b == 0xFF | none => false
  | 3 => s.parts[k].ckptObj.contains o.obj
  | _ => false

/-- An IMPORT from the record at `off` on. A quench holds its traffic (R93), and a record whose write waits holds it as well. -/
def importFrom (k : Pt) (s : State) (p : Pending) (off : Nat) (last : Option Nat) : State :=
  let party := fld p.e.w2 7 0
  if !sessionOpen s k || decide (manParties s.parts[k].session.manifest ≤ party) then endCmd s p 0x01 0 0 0
  else match namedObj s k (objField p.e.w3), namedObj s k (objField p.e.w4) with
    | some src, some dst =>
      match wrapSlot s k party, objBase src, objBase dst with
      | some i, some a, some b =>
        if !slotUsable s i 2 2 then endCmd (keyInvalidUse s) p 0x27 0 0 0
        else if src.keyId ≠ 0 then endCmd s p 0x1B 0 0 0
        else if !importInto s k party dst then endCmd s p 0x25 0 0 0
        else match (refuseRange s k 2 a (objBytes src) false).or (refuseRange s k 2 b (objBytes dst) true) with
        | some x => endCmd x.1 p x.2 0 0 0
        | none =>
          if !admits s k then addPending s { p with wait := .importing off last }
          else
            let r := importLoop k party (slot s i).key src dst a b (objBytes src / 80 + 1) { s := s, off := off, last := last, st := none }
            if r.st = some stStalled then addPending r.s { p with wait := .importing r.off r.last } else endCmd r.s p (r.st.getD 0) 0 0 0
      | none, _, _ => endCmd (keyInvalidUse s) p 0x27 0 0 0
      | _, _, _ => endCmd s p 0x1B 0 0 0
    | _, _ => endCmd s p 0x1B 0 0 0

def execImp (k : Pt) (e : Entry) (s : State) : Out :=
  .next (takeCmd s (.ctrl k) e 0x30 { w2 := 0xFF, w3 := 0xFFFF, w4 := 0xFFFF } fun s p => importFrom k s p 0 none)

/-- An export that has gone on to some record. -/
structure Exporting where
  s   : State
  off : Nat
  seq : Nat
  st  : Option Nat

/-- The next record, of up to 1 MiB, written to the staging object. -/
def exportOne (k : Pt) (party : Nat) (key : Bytes) (src : MemObj) (a b : Nat) (i : Exporting) : Exporting :=
  match i.st with
  | some _ => i
  | none =>
    let pos := (i.seq - 1) * 2 ^ 20
    let len := min (2 ^ 20) (objBytes src - pos)
    let r := readRange i.s k (a + pos) len
    let (s, iv) := r.s.draw 12
    let h := leBytes 4 0x52463856 ++ [1, BitVec.ofNat 8 party, 0, 0] ++ leBytes 8 i.seq ++ leBytes 4 len ++ leBytes 4 0 ++ leBytes 8 pos ++ iv ++
      List.replicate 20 0
    let ct := gcmCrypt key iv (r.bs.map (·.1))
    if r.st ≠ 0 then { i with s := logTransfer r.s k r.st (a + pos), st := some r.st }
    else
      let (s, st) := writeRange s k (b + i.off) (clean (h ++ ct ++ gcmTag key iv h ct)) false
      if st = stStalled then { i with s := s, st := some st }
      else { s := logTransfer s k st (b + i.off), off := i.off + 80 + len, seq := i.seq + 1, st := if st = 0 then none else some st }

/-- An EXPORT from record `seq` on, which goes to `off`. A quench holds its traffic (R93), and a record whose write waits holds it as
well. -/
def exportFrom (k : Pt) (s : State) (p : Pending) (off seq : Nat) : State :=
  if !sessionOpen s k then endCmd s p 0x01 0 0 0
  else match custodian s.parts[k].session.manifest, namedObj s k (objField p.e.w2), namedObj s k (objField p.e.w3) with
      | none, _, _ => endCmd s p 0x01 0 0 0
      | some c, some src, some dst =>
        match wrapSlot s k c, objBase src, objBase dst with
        | some i, some a, some b =>
          let n := (objBytes src + 2 ^ 20 - 1) / 2 ^ 20
          if !slotUsable s i 2 2 then endCmd (keyInvalidUse s) p 0x27 0 0 0
          else if dst.keyId ≠ 0 ∨ src.obj = 0 ∨ !s.parts[k].ckptObj.contains src.obj then endCmd s p 0x1B 0 0 0
          else if objBytes dst < objBytes src + 80 * n then endCmd s p 0x02 0 0 0
          else if s.sc.esState ≠ 0 then endCmd s p 0x28 0 0 0
          else match (refuseRange s k 2 a (objBytes src) false).or (refuseRange s k 2 b (objBytes dst) true) with
          | some x => endCmd x.1 p x.2 0 0 0
          | none =>
            if !admits s k then addPending s { p with wait := .exporting off seq }
            else
              let r := (List.range (n + 1 - seq)).foldl (fun x _ => exportOne k c (slot s i).key src a b x) { s := s, off := off, seq := seq, st := none }
              if r.st = some stStalled then addPending r.s { p with wait := .exporting r.off r.seq } else endCmd r.s p (r.st.getD 0) 0 0 0
        | none, _, _ => endCmd (keyInvalidUse s) p 0x27 0 0 0
        | _, _, _ => endCmd s p 0x1B 0 0 0
      | _, _, _ => endCmd s p 0x1B 0 0 0

/-- EXPORT: a checkpoint object in records under the custodian's key. -/
def execExp (k : Pt) (e : Entry) (s : State) : Out :=
  .next (takeCmd s (.ctrl k) e 0x31 { w2 := 0xFFFF, w3 := 0xFFFF } fun s p => exportFrom k s p 0 1)

/-! ## The transcript (R557, R558) -/

/-- The 96 bytes of an entry. -/
def entryBytes (t : Transcript) : Bytes :=
  leBytes 8 t.index.toNat ++ leBytes 8 t.step.toNat ++ leBytes 8 t.tick.toNat ++ [t.relId, t.status, t.owners] ++ List.replicate 5 0 ++
  leBytes 8 t.bytes.toNat ++ slice t.digest 0 48 ++ List.replicate 8 0

def transcriptFull (x : Session) : Bool := decide (1048576 ≤ x.transcript.length)

/-- An entry appended on the anchor. -/
def appendEntry (s : State) (k : Pt) (step : W64) (relId status owners : Nat) (bytes : Nat) (digest : Bytes) : State :=
  if !isAnchor s k || transcriptFull s.parts[k].session then s
  else s.modSession k fun x =>
    let t : Transcript := { index := BitVec.ofNat 64 (x.transcript.length + 1), step := step, tick := s.meridian.tick, relId := BitVec.ofNat 8 relId,
                            status := BitVec.ofNat 8 status, owners := BitVec.ofNat 8 owners, bytes := BitVec.ofNat 64 bytes, digest := digest }
    { x with transcript := x.transcript ++ [t], chain := sha384 (x.chain ++ entryBytes t) }

/-- The head of the chain after m entries. -/
def chainAt (x : Session) (m : Nat) : Bytes :=
  (x.transcript.take m).foldl (fun h t => sha384 (h ++ entryBytes t)) (sha384 (sessionId x ++ x.digest))

/-! ## Stopping the work of a partition, and closing a session (R523, R679) -/

/-- Is a write that waits one of partition k? -/
def stalledIn (s : State) (k : Pt) : Stalled → Bool
  | .move id _ => s.reqs.any fun r => r.id == id && r.part == k
  | .grain p => s.presses[p].run.any fun r => r.part == k
  | .copy j _ | .page j _ _ | .fill j _ | .image j _ _ _ | .touched j _ _ _ => j == k

/-- Work items still running are abandoned, open units without replay but with their revoke tokens; active routes end with
link-failed, and data held for the partition is discarded (R679 step 2, R523 step 1). -/
def stopWork (s : State) (k : Pt) : State :=
  let s := { s with
    stalled := s.stalled.filter fun x => !stalledIn s k x,
    clusters := vmap s.clusters fun c =>
      if c.part = some k then
        { c with meQueue := [], latches := [], window := [], drainBuf := none, heldWork := [], verdicts := [], jobs := [], ve := { c.ve with run := none, queue := [], loadWait := none } }
      else c,
    presses := vmap s.presses fun x =>
      { x with run := if (x.run.map fun (r : PressRun) => r.part) = some k then none else x.run, ready := x.ready.filter fun r => r.1 != k,
               suspended := x.suspended.filter fun r => r.part != k },
    waiters := s.waiters.filter fun w => w.part != k, reqs := s.reqs.filter fun r => r.part != k }
  let s := s.parts[k].units.foldl (fun s u => revokeSends s k u) s
  let s := s.modPart k fun p => { p with units := [] }
  let s := (s.links.routes.filter fun r => r.part == k).foldl (fun s r => finishRoute s r 0x1A) s
  let s := { s with links := { s.links with routes := s.links.routes.filter fun r => r.part != k } }
  let s := allLps.foldl (fun s p =>
    let hs := s.ports[p].held.filter fun h => h.part == k
    let s := hs.foldl (fun s h => freeFlit s p h) s
    s.modPort p fun x => { x with lost := satAdd x.lost (hs.filter (·.tent)).length, carry := x.carry.filter fun y => y.1 != k }) s
  { s with links := { s.links with
      norms := s.links.norms.filter fun n => n.part != k, normOut := s.links.normOut.filter fun x => x.2.1 != k,
      gaps := s.links.gaps.filter fun g => g.1 != k, sendSeq := s.links.sendSeq.filter fun x => x.1 != k } }

/-- The data queues of a partition halt. -/
def haltAll (s : State) (k : Pt) (st : Nat) : State :=
  ((List.finRange 16).filter fun j => decide (j.1 < s.parts[k].dataQueues.toNat)).foldl (fun s j => haltQueue s k j st) s

/-- Every slot of a partition is destroyed (R523 step 2, R679 step 5). -/
def killSlots (s : State) (k : Pt) : State :=
  (s.sc.keys.slots.filter fun e => e.2.valid && e.2.part.toNat == k.1).foldl (fun s e => killSlot s e.1) s

/-- Regions of a run. -/
def runRegions (rs : List (Nat × Nat)) : List Nat := rs.flatMap fun r => (List.range r.2).map (r.1 + ·)

/-- The regions of an object wait for their clearing (R523, R679 step 4). -/
def releaseRegions (s : State) (o : MemObj) : State :=
  let s := { s with hbs := Vector.ofFn fun h =>
    let x := s.hbs[h]
    { x with clearing := x.clearing ++ runRegions (hbmRuns o h) } }
  { s with cellar := { s.cellar with clearing := s.cellar.clearing ++ runRegions (celRuns o) } }

/-- A session closes at a boundary, directly after action 2 (R523); the regions of its memory objects wait for their clearing (R30). -/
def closeSession (s : State) (k : Pt) : State :=
  if !s.parts[k].session.closing || !sessionOpen s k then s
  else
    let s := haltAll (stopWork s k) k 0
    let s := killSlots s k
    let s := appendEntry s k s.parts[k].step.number 0xFF 5 0 0 (List.replicate 48 0)
    let s := { s with clusters := vmap s.clusters fun c => if c.part = some k then c.wiped else c }
    let s := s.parts[k].mem.foldl releaseRegions s
    -- The update phase has ended with the work.
    let s := s.modPart k fun p => { p with step := { p.step with phase := .compute, combined := none, unitsDone := BitVec.allOnes 9 } }
    let s := s.modSession k fun x => { x with state := 4, closing := false, releases := [] }
    let mine := (s.host.inflight ++ s.parts[k].inflight).filter fun p => match p.wait with | .sessionClose j => j == k | _ => false
    mine.foldl (fun s p => endPending s p 0 0 0 0) s

/-- SESSION_CLOSE on the admin queue, naming the partition, or on the partition's own control queue. -/
def execSessionClose (q : QRef) (e : Entry) (s : State) : Out :=
  let close := fun (k : Pt) (s : State) (p : Pending) =>
    if !sessionOpen s k then endCmd s p 0x01 0 0 0
    else addPending (s.modSession k fun x => { x with closing := true }) { p with wait := .sessionClose k }
  .next (match q with
    | .admin => takeCmd s .admin e 0x39 { w2 := 3 } (close ⟨fld e.w2 1 0 % 4, Nat.mod_lt _ (by decide)⟩)
    | .ctrl k => takeCmd s (.ctrl k) e 0x39 {} (close k)
    | .data .. => takeCmd s q e 0x39 {} fun s p => endCmd s p 0x01 0 0 0)

/-! ## The rind gate (R551–R556, R668) -/

/-- The policy entry of a REL_ID. -/
def polEntry (pol : Bytes) (relId : Nat) : Option Bytes :=
  ((List.range (byteAt pol 0).toNat).map fun i => slice pol (32 + 32 * i) 32).find? fun e => (byteAt e 0).toNat == relId

def relElems (e : Bytes) : Nat := numAt e 4 4
def relGrid (e : Bytes) : Int := (byteAt e 1).toInt
def relClip (e : Bytes) : Rat := (f32 (BitVec.ofNat 32 (numAt e 8 4))).toRat
def relSigma (e : Bytes) : Rat := (f32 (BitVec.ofNat 32 (numAt e 12 4))).toRat
def relBytes (e : Bytes) : Nat := 64 + 4 * relElems e

/-- RELEASE: the gate of the anchor queues it by step, and the command completes (R552; notes/assumptions/38.md,
DEDUCED). -/
def execRelease (k : Pt) (j : Fin 16) (e : Entry) (s : State) : Out :=
  .next (takeCmd s (.data k j) e 0x51 { w2 := 0xF, w3 := 2 ^ 52 - 1 } fun s p =>
    let relId := fld e.w2 3 0
    if !isAnchor s k then endCmd s p 0x22 0 0 0
    else if (polEntry s.parts[k].session.policy relId).isNone then endCmd s p 0x01 0 0 0
    else
      let r : Release := { relId := BitVec.ofNat 4 relId, src := BitVec.ofNat 52 (fld e.w3 51 0), step := s.parts[k].step.number, due := false, held := false, owners := 0 }
      endCmd (s.modSession k fun x => { x with releases := x.releases ++ [r] }) p 0 0 0 0)

/-- What becomes of a release that is due. -/
inductive GateVerdict where
  | refuse (status : Nat)
  | full
  | hold
  | go
deriving DecidableEq, Repr

/-- The GATE instance waits: a reseed would fall due while the entropy source is stopped (R575). -/
def gateStopped (s : State) (n : Nat) : Bool := s.sc.esState != 0 && decide (2 ^ 20 < s.sc.gateReqs + n)

/-- Bytes free in the release ring; a record leaves at least one byte free. -/
def ringFits (p : Partition) (n : Nat) : Bool :=
  let size := 2 ^ p.relLog2.toNat
  p.relEnable && decide ((p.relTail.toNat + size - p.relHead.toNat % size) % size + n < size)

/-- The source values of a release: none where one of them cannot be read. -/
def gateSource (s : State) (k : Pt) (r : Release) (e : Bytes) : Option (State × List W32) :=
  let n := 4 * relElems e
  if checkRange s k gateClass r.src.toNat n false ≠ 0 then none
  else
    let x := readRange s k r.src.toNat n
    if x.st ≠ 0 then none
    else
      let bs := x.bs.map (·.1)
      some (x.s, (List.range (relElems e)).map fun i => BitVec.ofNat 32 (numAt bs (4 * i) 4))

/-- What the reads of a source find that is not released: the request refused, or the errors of what is read (R425, R554, R713). -/
def gateReads (s : State) (k : Pt) (r : Release) (e : Bytes) : State :=
  match refuseRange s k gateClass r.src.toNat (4 * relElems e) false with
  | some x => x.1
  | none =>
    let x := readRange s k r.src.toNat (4 * relElems e)
    if x.st = 0 then x.s else badRequest x.s k 0xFF x.st (addrLoc r.src.toNat)

/-- The decision of R554, in its order. A value that cannot be read is not finite (notes/assumptions/39.md, DEDUCED). -/
def gateVerdict (s : State) (k : Pt) (r : Release) (e : Bytes) : GateVerdict :=
  let x := s.parts[k].session
  if transcriptFull x then .full
  else if popcount r.owners < (byteAt x.policy 1).toNat then .refuse 1
  else if (match gateSource s k r e with | some (_, vs) => vs.any fun v => !(f32 v).isFinite | none => true) then .refuse 2
  else if x.stepLeft.toNat < relBytes e ∨ x.totalLeft.toNat < relBytes e then .refuse 3
  else if !ringFits s.parts[k] (relBytes e) ∨ (relSigma e ≠ 0 ∧ gateStopped s (relElems e)) then .hold
  else .go

/-- The greatest FP32 value whose square is at most q. -/
def sqrtDown (q : Rat) : Rat :=
  if q ≤ 0 then 0
  else
    let lsb := max ((ilog2 q).fdiv 2 - 23) (-149)
    (intRoot 2 (q / pow2 (2 * lsb)).floor.toNat 26 0 : Nat) * pow2 lsb

/-- A value rounded toward zero to FP32. -/
def truncF32 (y : Rat) : Rat :=
  if y = 0 then 0
  else
    let lsb := max (ilog2 (ratAbs y) - 23) (-149)
    (trunc (y / pow2 lsb) : Int) * pow2 lsb

/-- The sum of squares of a source: the 160-bit form rounded once to FP32, with the weight of the norm (R199, R554; notes/assumptions/121.md,
DEDUCED). -/
def gateSquares (w : Int) (vs : List W32) : Rat :=
  (f32 (BitVec.ofNat 32 (longToF32 w (vs.foldl (fun a v => addSquare w a (f32 v)) NormPartial.zero).value).code)).toRat

/-- The factor of the clip. -/
def clipFactor (w : Int) (clip : Rat) (vs : List W32) : Rat :=
  let q := gateSquares w vs
  if clip > 0 ∧ q > clip * clip then sqrtDown (clip * clip / q) else 1

/-- One value on the grid with its noise, before the clamp. -/
def gridValue (e : Bytes) (f : Rat) (noise : Nat) (v : W32) : Int :=
  let k := rne (truncF32 ((f32 v).toRat * f) / pow2 (relGrid e))
  if relSigma e > 0 then k + Config.gateNoise noise else k

def clampGrid (k : Int) : Int := max (-(2 ^ 24 - 1)) (min (2 ^ 24 - 1) k)

/-- The released codes, and how many were clamped. -/
def gateOut (s : State) (w : Int) (e : Bytes) (vs : List W32) : List W32 × Nat :=
  let f := clipFactor w (relClip e) vs
  let ks := vs.zipIdx.map fun (v, i) => gridValue e f (s.fresh + i) v
  (ks.map fun k => toF32 (Val.ofRat false (clampGrid k * pow2 (relGrid e))), (ks.filter fun k => clampGrid k ≠ k).length)

/-- A record written to the release ring from TAIL on, wrapping (R668). -/
def writeRing (s : State) (k : Pt) (bs : Bytes) : State :=
  let p := s.parts[k]
  let base := p.relBase.toNat / 4096 * 4096
  let size := 2 ^ p.relLog2.toNat
  let tail := p.relTail.toNat % size
  let first := min bs.length (size - tail)
  let m := (s.host.hostMem.writeBytes (base + tail) (bs.take first)).writeBytes base (bs.drop first)
  let s := { s with host := { s.host with hostMem := m } }
  raisePart (s.modPart k fun p => { p with relTail := BitVec.ofNat 32 ((tail + bs.length) % size) }) k 1

/-- A record of the gate: CLUSTER is the stack of the source, 8 for the cellar. -/
def gateRec (s : State) (k : Pt) (typ : Nat) (r : Release) (causes : Nat) : LogRec :=
  let place := match locate s (addrLoc r.src.toNat) with | .hbm h _ => h.1 | .cellar _ => 8 | _ => 0xFF
  { partRec s k typ place r.relId.toNat s.parts[k].session.transcript.length with causes := BitVec.ofNat 8 causes }

def dropRelease (s : State) (k : Pt) : State := s.modSession k fun x => { x with releases := x.releases.tail }

def refuseRelease (s : State) (k : Pt) : State := s.modSession k fun x => { x with refused := satAdd x.refused 1 }

/-- A release that passes every check: its record, its charge and its entry. -/
def gateGo (s : State) (k : Pt) (r : Release) (e : Bytes) : State :=
  match gateSource s k r e with
  | none => s
  | some (s, vs) =>
    let (out, clamps) := gateOut s s.parts[k].step.normWexp.toInt e vs
    let n := if relSigma e > 0 then relElems e else 0
    let s := { s with fresh := s.fresh + n, sc := { s.sc with gateReqs := if n = 0 then s.sc.gateReqs else (s.sc.gateReqs + n - 1) % 2 ^ 20 + 1 } }
    let idx := s.parts[k].session.transcript.length + 1
    let rec_ := [r.relId.setWidth 8, 0, 0, 0] ++ leBytes 4 (relElems e) ++ leBytes 8 r.step.toNat ++ leBytes 8 idx ++ List.replicate 40 0 ++
      (out.map fun w => leBytes 4 w.toNat).flatten
    let s := writeRing s k rec_
    let s := s.modSession k fun x =>
      { x with stepLeft := x.stepLeft - BitVec.ofNat 32 (relBytes e), totalLeft := x.totalLeft - BitVec.ofNat 64 (relBytes e), clamps := satAdd x.clamps clamps }
    let s := appendEntry s k r.step r.relId.toNat 0 (popcount r.owners) (relBytes e) (sha384 rec_)
    logPart s k (gateRec s k 0x26 r 0)

/-- GATE_RELEASE: the first release whose step has ended applied (R41, R554). A held one holds those behind it, and is tried again from
the next boundary on (R668). -/
def execGateRelease (k : Pt) (s : State) : Out :=
  .next (match s.parts[k].session.releases with
    | [] => s
    | r :: _ =>
      if !r.due || r.held then s
      else match polEntry s.parts[k].session.policy r.relId.toNat with
        | none => dropRelease s k
        | some e =>
          match gateVerdict s k r e with
          | .hold => s.modSession k fun x => { x with releases := x.releases.modifyHead fun r => { r with held := true } }
          | .full => refuseRelease (dropRelease s k) k
          | .refuse st =>
            let t := if st = 2 then gateReads s k r e else s
            let t := refuseRelease (dropRelease t k) k
            let t := appendEntry t k r.step r.relId.toNat st (popcount r.owners) 0 (List.replicate 48 0)
            settleFrom s (logPart t k (gateRec t k 0x27 r st))
          | .go => gateGo (dropRelease s k) k r e)

/-- Does the gate hold a release (R668)? -/
def gateHolds (s : State) (k : Pt) : Bool :=
  match s.parts[k].session.releases with
  | r :: _ => r.due && (match polEntry s.parts[k].session.policy r.relId.toNat with
      | some e => gateVerdict s k r e == .hold
      | none => false)
  | [] => false

/-- The releases of a step that has ended: due where it was applied, discarded where it was skipped (R323, R554). -/
def endReleases (s : State) (k : Pt) (applied : Bool) (owners : W32) : State :=
  let n := s.parts[k].step.number
  s.modSession k fun x =>
    { x with releases := if applied then x.releases.map fun r => if r.step = n ∧ !r.due then { r with due := true, owners := owners } else r
                         else x.releases.filter fun r => r.due || r.step != n,
             stepLeft := if applied then BitVec.ofNat 32 (polStep x.policy) else x.stepLeft }

end Sys2Proof.Machine
end

