-- ==== Sys2Proof/Machine/Entries.lean ====
section
/-! DEFINITION. The object dictionary: its areas, the type, access and length of every entry, and what a read returns
(spec/13_object_dictionary.md R607–R615, R629, R637–R639 and the entry tables of every chapter). -/

namespace Sys2Proof.Machine

open Sys2Proof

/-- The areas of R608. -/
inductive Area where
  | ident
  | lifeCycle
  | power
  | clocks
  | port (p : Nat)
  | links
  | tiers
  | pools
  | part (n : Pt)
  | policy
  | press
  | stepSize
  | session
  | keys
  | telemetry
  | test
  | log
  | change
deriving DecidableEq, Repr

def areaOf (idx : Nat) : Option Area :=
  match idx with
  | 0x1000 => some .ident
  | 0x1100 => some .lifeCycle
  | 0x2000 => some .power
  | 0x2100 => some .clocks
  | 0x3100 => some .links
  | 0x4000 => some .tiers
  | 0x4100 => some .pools
  | 0x5000 => some (.part 0)
  | 0x5001 => some (.part 1)
  | 0x5002 => some (.part 2)
  | 0x5003 => some (.part 3)
  | 0x5100 => some .policy
  | 0x5200 => some .press
  | 0x5210 => some .stepSize
  | 0x6000 => some .session
  | 0x6100 => some .keys
  | 0x7000 => some .telemetry
  | 0x7100 => some .test
  | 0x7200 => some .log
  | 0x7F00 => some .change
  | n => if 0x3000 ≤ n ∧ n ≤ 0x3011 then some (.port (n - 0x3000)) else none

/-- Access codes of DESCRIBE (R617). -/
inductive Access where
  | rw
  | ro
  | wo
  | const
  | arm
deriving DecidableEq, Repr

def Access.code : Access → Nat
  | .rw => 0
  | .ro => 1
  | .wo => 2
  | .const => 3
  | .arm => 4

/-- Type codes of R614. -/
inductive Typ where
  | bool
  | u8
  | u16
  | u32
  | u64
  | i16
  | i32
  | f32
  | str
  | octets (n : Nat)
  | domain
deriving DecidableEq, Repr

def Typ.code : Typ → Nat
  | .bool => 1
  | .u8 => 2
  | .u16 => 3
  | .u32 => 4
  | .u64 => 5
  | .i16 => 7
  | .i32 => 8
  | .f32 => 10
  | .str => 11
  | .octets _ => 12
  | .domain => 13

/-- The largest length of a value in bytes (R614). -/
def Typ.largest : Typ → Nat
  | .bool | .u8 => 1
  | .u16 | .i16 => 2
  | .u32 | .i32 | .f32 => 4
  | .u64 => 8
  | .str => 255
  | .octets n => n
  | .domain => 16 * 2 ^ 20

/-- Is the length one that the type admits (R615)? -/
def Typ.lengthOk (t : Typ) (n : Nat) : Bool :=
  match t with
  | .str | .domain => decide (n ≤ t.largest)
  | _ => n == t.largest

/-- A row of an entry table. -/
structure Row where
  sub : Nat
  typ : Typ
  acc : Access
deriving DecidableEq, Repr

/-- Rows of one type and access. -/
def rowsOf (t : Typ) (a : Access) (subs : List Nat) : List Row := subs.map fun n => ⟨n, t, a⟩

def identRows : List Row :=
  rowsOf .str .const [1, 2, 11] ++ rowsOf .u16 .const [3, 5] ++ rowsOf .u8 .const [4, 7, 9] ++ rowsOf .u32 .const [6] ++
  rowsOf .str .ro [8] ++ rowsOf .u8 .wo [10] ++ rowsOf (.octets 6) .const [16] ++ rowsOf .u32 .rw [17, 18] ++
  rowsOf .u8 .ro [19, 21] ++ rowsOf .u8 .rw [20] ++ rowsOf .u64 .ro [22, 23] ++ rowsOf .u32 .ro [24]

def lifeCycleRows : List Row :=
  rowsOf .u8 .ro [1, 2, 5, 12, 14] ++ rowsOf (.octets 97) .arm [3] ++ rowsOf (.octets 48) .ro [4] ++
  rowsOf .u16 .ro [6, 7, 13] ++ rowsOf .u16 .arm [8, 9] ++ rowsOf (.octets 18) .ro [10] ++ rowsOf .u64 .const [11] ++
  rowsOf .domain .wo [15]

def powerRows : List Row :=
  rowsOf .f32 .ro [1, 2, 3, 9, 10] ++ rowsOf .u16 .rw [4] ++ rowsOf .u8 .ro [5, 6, 18, 20] ++ rowsOf .u16 .ro [7, 8, 17] ++
  rowsOf .u8 .rw [11, 12, 13, 14] ++ rowsOf .u64 .ro [15, 16] ++ rowsOf (.octets 16) .ro [19]

def clockRows : List Row :=
  rowsOf .u8 .rw [1, 6] ++ rowsOf .u64 .ro [2, 7, 9] ++ rowsOf .u64 .rw [3] ++ rowsOf .u32 .ro [4, 5, 8]

def portRows : List Row :=
  rowsOf .u8 .ro [1, 3, 4, 13, 14, 18] ++ rowsOf .u16 .ro [2, 19] ++ rowsOf .u32 .ro [5] ++ rowsOf (.octets 32) .arm [6] ++
  rowsOf .u16 .rw [7] ++ rowsOf .bool .ro [8] ++ rowsOf .f32 .ro [9] ++ rowsOf .u64 .ro [10, 11, 12, 15, 16, 17]

def linksRows : List Row :=
  rowsOf .u16 .rw [1, 13, 14] ++ rowsOf .u32 .rw [2, 15] ++ rowsOf .u8 .ro [3, 7, 8, 9, 11] ++ rowsOf .u16 .ro [4, 5] ++
  rowsOf .u32 .ro [6] ++ rowsOf .i32 .ro [10] ++ rowsOf .bool .ro [12] ++ rowsOf (.octets 384) .arm [16] ++
  rowsOf (.octets 1024) .rw [17] ++ rowsOf .u64 .ro [18, 19]

def tierRows : List Row :=
  rowsOf .u16 .rw [1, 2] ++ rowsOf .u8 .ro [3, 6] ++ rowsOf .u64 .ro [4, 5, 7, 8] ++ rowsOf .u32 .ro [9]

def poolRows : List Row :=
  (List.range 4).flatMap fun p =>
    let b := 16 * (p + 1)
    rowsOf .u8 .ro [b] ++ rowsOf (.octets 16) .rw [b + 1] ++ rowsOf (.octets 16) .ro [b + 2, b + 3] ++ rowsOf .u64 .ro [b + 4, b + 5]

def partRows : List Row :=
  rowsOf .u8 .ro [1, 3, 4, 5, 6] ++ rowsOf .u16 .ro [2, 0x22, 0x23, 0x33] ++ rowsOf .u64 .ro [7, 0x26, 0x27, 0x34] ++
  rowsOf .bool .ro [8] ++ rowsOf .bool .arm [9] ++ rowsOf .u32 .ro [0x20, 0x21, 0x24, 0x25, 0x30, 0x31, 0x32, 0x5D] ++
  rowsOf .u64 .ro ((List.range 7).map (0x40 + ·)) ++ rowsOf .u64 .ro ((List.range 20).map (0x48 + ·)) ++
  rowsOf .u8 .rw [0x5C] ++ rowsOf .u64 .ro [0x5E, 0x5F, 0x60, 0x61]

def policyRows : List Row :=
  rowsOf .u16 .rw [1, 2, 3, 4, 10, 11, 12, 13] ++ rowsOf .u8 .rw [5, 6, 7, 8, 14, 15, 16, 17] ++ rowsOf .u16 .ro [9]

def pressRows : List Row :=
  rowsOf .u8 .rw [1] ++ rowsOf .u64 .rw [2] ++ rowsOf .i16 .rw [3] ++ rowsOf .f32 .ro [4] ++ rowsOf .u32 .rw [5] ++
  rowsOf (.octets 32) .wo [6] ++ rowsOf (.octets 48) .ro [7] ++ rowsOf .u64 .ro ((List.range 9).map (8 + ·))

def stepSizeRows : List Row := rowsOf .f32 .rw [1] ++ rowsOf .f32 .ro [2]

def sessionRows : List Row :=
  rowsOf .u8 .ro [1] ++ rowsOf (.octets 16) .ro [2] ++ rowsOf .domain .rw [3] ++ rowsOf (.octets 48) .ro [4, 5] ++
  rowsOf .u64 .ro [6, 10, 11, 15, 16, 17, 18, 19, 22] ++ rowsOf (.octets 33) .wo [7] ++ rowsOf .domain .arm [8] ++
  rowsOf .u32 .ro [9] ++ rowsOf .u64 .rw [12] ++ rowsOf .domain .ro [13] ++ rowsOf (.octets 96) .ro [14] ++
  rowsOf .u16 .ro [20] ++ rowsOf .u8 .arm [21]

def keyRows : List Row :=
  rowsOf .u16 .ro [1] ++ rowsOf .u16 .rw [2] ++ rowsOf (.octets 16) .ro [3] ++ rowsOf (.octets 4) .arm [4] ++ rowsOf .u64 .ro [5, 6]

def telemetryRows : List Row :=
  rowsOf .u64 .ro [1] ++ rowsOf .u8 .ro [2] ++ rowsOf .u16 .ro [0x10, 0x11, 0x12, 0x13] ++ rowsOf .domain .ro [0x20]

def testRows : List Row :=
  rowsOf (.octets 4) .wo [1] ++ rowsOf .u8 .wo [2] ++ rowsOf .u8 .ro [3] ++ rowsOf .u32 .ro [4, 5, 6, 15, 16] ++
  rowsOf .u64 .ro [7] ++ rowsOf .u16 .rw [8, 10, 11, 14] ++ rowsOf .u16 .ro [9, 12] ++ rowsOf (.octets 16) .ro [13] ++
  rowsOf (.octets 128) .ro [17]

def logRows : List Row :=
  rowsOf .u64 .ro [1, 4] ++ rowsOf .u64 .rw [2] ++ rowsOf .domain .ro [3] ++ rowsOf .u16 .const [5]

def changeRows : List Row :=
  rowsOf .domain .rw [1] ++ rowsOf (.octets 48) .ro [2, 3, 12] ++ rowsOf .u8 .ro [4, 11] ++ rowsOf .u16 .ro [5, 6] ++
  rowsOf (.octets 192) .wo [7] ++ rowsOf .domain .wo [8] ++ rowsOf (.octets 96) .wo [9] ++ rowsOf .u8 .wo [10] ++
  rowsOf .u16 .rw [13] ++ rowsOf .u64 .ro [14, 15, 16]

/-- The entries of an area. -/
def areaRows : Area → List Row
  | .ident => identRows
  | .lifeCycle => lifeCycleRows
  | .power => powerRows
  | .clocks => clockRows
  | .port _ => portRows
  | .links => linksRows
  | .tiers => tierRows
  | .pools => poolRows
  | .part _ => partRows
  | .policy => policyRows
  | .press => pressRows
  | .stepSize => stepSizeRows
  | .session => sessionRows
  | .keys => keyRows
  | .telemetry => telemetryRows
  | .test => testRows
  | .log => logRows
  | .change => changeRows

/-- The highest sub-index of an area, which sub-index 0 reads (R607). -/
def highestSub (a : Area) : Nat := (areaRows a).foldl (fun m r => max m r.sub) 0

/-- The row of an entry; none where the no-entry status applies (R607, R608). -/
def entryRow (a : Area) (sub : Nat) : Option Row :=
  if sub = 0 then some ⟨0, .u8, .ro⟩ else (areaRows a).find? fun r => r.sub == sub

/-- Does the entry belong to a unit that the SKU lacks (R8)? -/
def unitAbsent (s : State) : Area → Bool
  | .port p => !lpPresent s p
  | _ => false

/-- The areas with one copy for each partition (R609). -/
def instanced : Area → Bool
  | .press | .stepSize | .session => true
  | _ => false

/-! ## What a session may reach (R629, R500, R560, R707, R730) -/

/-- The counters and the log of a partition in its area (R560). -/
def isPartCounter (sub : Nat) : Bool :=
  sub == 0x27 || decide (0x30 ≤ sub ∧ sub ≤ 0x34) || decide (0x40 ≤ sub ∧ sub ≤ 0x5B) || decide (0x5E ≤ sub ∧ sub ≤ 0x61)

/-- The entries that R560 exempts: state, ID, digest, measurement, parties, and the transcript. -/
def exempt (a : Area) (sub : Nat) : Bool := a == .session && [0x01, 0x02, 0x04, 0x05, 0x06, 0x0B, 0x0C, 0x0D, 0x0E].contains sub

/-- The partition that an entry of the numerics policy is for (R143, R192, R328). -/
def policyPart (sub : Nat) : Option Pt :=
  if sub = 0 ∨ sub = 9 ∨ 17 < sub then none else some ⟨(if sub < 9 then sub - 1 else sub - 10) % 4, Nat.mod_lt _ (by decide)⟩

/-- The partition of an estimate of telemetry (R706). -/
def powerPart (sub : Nat) : Option Pt := if 0x10 ≤ sub ∧ sub ≤ 0x13 then some ⟨(sub - 0x10) % 4, Nat.mod_lt _ (by decide)⟩ else none

/-- What a party session reaches beside its own partition (R629, R707, R500, R730). -/
def partyReach (k : Pt) (a : Area) (sub : Nat) : Bool :=
  match a with
  | .part n => n == k
  | .policy => match policyPart sub with | some n => n == k | none => true
  | .telemetry => [0, 1, 2].contains sub || powerPart sub == some k
  | .power | .test | .port _ => false
  | .tiers => sub != 4
  | _ => true

/-- The entries that a party session may write (R629). -/
def partyWrites (a : Area) (sub : Nat) : Bool :=
  match a with
  | .session => [0x03, 0x07, 0x0C].contains sub
  | .stepSize => sub == 1
  | .change => [0x01, 0x07, 0x08, 0x09, 0x0A].contains sub
  | _ => false

/-- Is the access refused with the confidential status? -/
def confDenied (s : State) (x : OdpSession) (write : Bool) (a : Area) (sub : Nat) : Bool :=
  match x.part with
  | some k =>
    if x.party then
      !(if write then partyWrites a sub else partyReach k a sub) || (a == .press && sub == 4)
    else if s.parts[k].conf then !exempt a sub
    else
      (match a with
        | .part n => s.parts[n].conf && isPartCounter sub
        | .power => s.parts[k].live && (write || (entryRow a sub).any fun r => r.acc != .ro)
        | .telemetry => match powerPart sub with
          | some n => if s.parts[k].live then decide (n ≠ k) else s.parts[n].conf
          | none => s.parts[k].live && !([0, 1, 2].contains sub)
        | _ => false)
  | none =>
    match a with
    | .part n => s.parts[n].conf && isPartCounter sub
    | .telemetry => match powerPart sub with | some n => s.parts[n].conf | none => false
    | _ => false

/-! ## What a read returns (R611, R612) -/

/-- A register of n bits as an entry of k bytes. -/
def reg {n : Nat} (k : Nat) (w : BitVec n) : Bytes := leBytes k w.toNat

def flag (b : Bool) : Bytes := [if b then 1 else 0]

/-- The address that MGMT_IPV4 selects (R620). -/
def mgmtAddr (s : State) : W32 :=
  if s.dict.ipv4 != 0 then s.dict.ipv4
  else BitVec.ofNat 32 (169 * 2 ^ 24 + 254 * 2 ^ 16 + (1 + fld s.sc.otp.uid 15 8 % 254) * 2 ^ 8 + fld s.sc.otp.uid 7 0)

def readIdent (s : State) (sub : Nat) : Bytes :=
  match sub with
  | 1 => ascii "Medrielm Semiconductor"
  | 2 => ascii (if s.full then "VF8-16H8" else "VF8-12H6")
  | 3 => reg 2 s.sc.otp.stepping
  | 4 => [if s.full then 1 else 2]
  | 5 => reg 2 (tcMask s)
  | 6 => reg 4 (lpMask s)
  | 7 => reg 1 (hbMaskOf s)
  | 8 => Config.dfwVersion
  | 9 => [1]
  | 11 => s.sc.otp.serial
  | 16 => 0x02 :: beBytes 5 (fld s.sc.otp.uid 39 0)
  | 17 => reg 4 s.dict.ipv4
  | 18 => reg 4 s.dict.ipv4Mask
  | 19 => reg 1 s.dict.plcaNode
  | 20 => reg 1 s.dict.plcaCount
  | 21 => leBytes 1 s.dict.sessions.length
  | 22 => reg 8 s.dict.dropped
  | 23 => reg 8 s.dict.routeDrops
  | 24 => leBytes 4 (s.pins.strapId.toNat + s.pins.strapLs.toNat * 2 ^ 16 + s.pins.strapPlca.toNat * 2 ^ 18)
  | _ => []

/-- Steps of TEST_CYCLE whose bit 2j (entering) or 2j + 1 (completion) is set (R586). -/
def cycleSteps (w : W64) (o : Nat) : Nat := ((List.range 32).filter fun j => bit w (2 * j + o)).length

/-- The minimum SVN that a thermometer code holds (R572, R586). -/
def svnOf (w : W64) : Nat := popcount w

def readLifeCycle (s : State) (sub : Nat) : Bytes :=
  match sub with
  | 1 => reg 1 s.sc.lc
  | 2 => reg 1 s.sc.lcPending
  | 3 => match s.sc.lcRequest with | some (t, key) => t :: slice key 0 96 | none => List.replicate 97 0
  | 4 => s.sc.lcNonce
  | 5 => leBytes 1 (16 - (cycleSteps s.sc.otp.testCycle 0 + 1) / 2)
  | 6 => reg 2 s.sc.sfwSvn
  | 7 => reg 2 s.sc.dfwSvn
  | 8 => leBytes 2 (svnOf s.sc.otp.svnSfw)
  | 9 => leBytes 2 (svnOf s.sc.otp.svnDfw)
  | 10 => s.sc.bootTimes
  | 11 => reg 8 s.sc.otp.uid
  | 12 => reg 1 s.sc.stray
  | 13 => reg 2 s.sc.wipeReps
  | 14 => reg 1 s.sc.esState
  | _ => []

def readPower (s : State) (sub : Nat) : Bytes :=
  let p := s.power
  match sub with
  | 1 => reg 4 p.inputV
  | 2 => reg 4 p.inputA
  | 3 => reg 4 p.inputW
  | 4 => reg 2 p.limitW
  | 5 => reg 1 p.step
  | 6 => reg 1 p.cause
  | 7 => reg 2 p.mhz
  | 8 => leBytes 2 (p.vddUv / 1000)
  | 9 => reg 4 p.tjMax
  | 10 => reg 4 p.thbmMax
  | 11 => reg 1 p.tjWarnW
  | 12 => reg 1 p.tjLimitW
  | 13 => reg 1 p.thbmLimitW
  | 14 => reg 1 p.floorW
  | 15 => reg 8 p.stretch
  | 16 => reg 8 p.throttled
  | 17 => reg 2 p.trips
  | 18 => reg 1 p.lastOff
  | 19 => p.railStatus
  | 20 => reg 1 p.lugShare
  | _ => []

def readClocks (s : State) (sub : Nat) : Bytes :=
  let m := s.meridian
  match sub with
  | 1 => reg 1 (match m.periodNew with | some (v, _) => v | none => m.periodUs)
  | 2 => reg 8 m.tick
  | 3 => reg 8 m.effective
  | 4 => reg 4 m.clocksLast
  | 5 => reg 4 m.slotNs
  | 6 => reg 1 s.pins.tickModeW
  | 7 => reg 8 s.pins.capTick
  | 8 => reg 4 s.pins.capOffset
  | 9 => reg 8 s.pins.capCount
  | _ => []

/-- The state codes of R478. -/
def PortState.code : PortState → Nat
  | .down => 0
  | .training => 1
  | .handshake => 2
  | .up => 3
  | .degraded => 4
  | .fenced => 5
  | .refused => 6

def readPort (x : Port) (sub : Nat) : Bytes :=
  match sub with
  | 1 => leBytes 1 x.state.code
  | 2 => reg 2 x.peerId
  | 3 => reg 1 x.width
  | 4 => reg 1 (x.lanesFenced ||| x.opLanes)
  | 5 => reg 4 x.linkDelay
  | 6 => x.slotMap
  | 7 => reg 2 x.l2BufW
  | 8 => flag x.eqFreeze
  | 9 => reg 4 x.preFec
  | 10 => reg 8 x.crcTotal
  | 11 => reg 8 x.tagTotal
  | 12 => reg 8 x.protoTotal
  | 13 => reg 1 x.fenceCause
  | 14 => reg 1 x.shake.refuse
  | 15 => reg 8 x.discards
  | 16 => reg 8 x.lost
  | 17 => reg 8 x.mismatch
  | 18 => reg 1 x.plug
  | 19 => reg 2 x.cableCm
  | _ => []

def readLinks (l : Links) (sub : Nat) : Bytes :=
  match sub with
  | 1 => reg 2 l.deviceIdW
  | 2 => reg 4 l.constIdW
  | 3 => reg 1 l.pref
  | 4 => reg 2 l.lodestar
  | 5 => reg 2 l.standby
  | 6 => reg 4 l.epoch
  | 7 => reg 1 l.depth
  | 8 => reg 1 l.depthMax
  | 9 => reg 1 l.parentPort
  | 10 => reg 4 l.timeOffset
  | 11 => reg 1 l.timeRef
  | 12 => flag l.locked
  | 13 => reg 2 l.fenceTag
  | 14 => reg 2 l.fenceProto
  | 15 => reg 4 l.fenceCrc
  | 16 => l.acceptFw
  | 17 => (List.range 256).flatMap fun j => reg 4 (Sparse.get (0 : W32) l.jobSize j)
  | 18 => reg 8 l.mismatch
  | 19 => reg 8 l.changes
  | _ => []

def readTiers (s : State) (sub : Nat) : Bytes :=
  let c := s.cellar
  match sub with
  | 1 => reg 2 s.tiers.baseHW
  | 2 => reg 2 s.tiers.upW
  | 3 => reg 1 c.cpUp
  | 4 => reg 8 c.resends
  | 5 => reg 8 c.noticeLate
  | 6 => reg 1 c.scrub.level
  | 7 => reg 8 c.ce
  | 8 => reg 8 c.ue
  | 9 => leBytes 4 (cellarRegions s - runSum ((allObjs s).flatMap fun x => celRuns x.2))
  | _ => []

/-- The regions of the evictable objects of a pool on a stack (R404, R429). -/
def poolEvictable (s : State) (pl : Pt) (h : Hb) : Nat :=
  (((allObjs s).filter fun x => s.parts[x.1].live && poolOf s.parts[x.1] == pl && evictable s x.1 x.2).map
    fun x => runSum (hbmRuns x.2 h)).sum

def readPools (s : State) (sub : Nat) : Bytes :=
  let pl : Pt := ⟨(sub / 16 - 1) % 4, Nat.mod_lt _ (by decide)⟩
  let x := s.pools[pl]
  match sub % 16 with
  | 0 => reg 1 (maskOf 4 fun k => if h : k < 4 then (s.parts[(⟨k, h⟩ : Pt)].live && poolOf s.parts[(⟨k, h⟩ : Pt)] == pl) else false)
  | 1 => x.written.toList.flatMap (reg 2)
  | 2 => (List.finRange 8).flatMap fun h => leBytes 2 (poolUse s pl h [])
  | 3 => (List.finRange 8).flatMap fun h => leBytes 2 (poolEvictable s pl h)
  | 4 => reg 8 x.evictions
  | 5 => reg 8 x.fails
  | _ => []

/-- The counters at sub-indices 0x40 to 0x5B, and 0x5E to 0x61. -/
def readCounter (c : Counters) (sub : Nat) : W64 :=
  match sub with
  | 0x40 => c.saturate
  | 0x41 => c.overflows
  | 0x42 => c.underflow
  | 0x43 => c.flushed
  | 0x44 => c.zeroBlock
  | 0x45 => c.nonfinite
  | 0x46 => c.invalidConv
  | 0x48 => c.checkRuns
  | 0x49 => c.checkMismatch
  | 0x4A => c.checkSkipped
  | 0x4B => c.bankStalls
  | 0x4C => c.maskSkipped
  | 0x4D => c.drainStalls
  | 0x4E => c.inexactTiles
  | 0x4F => c.rangeTiles
  | 0x50 => c.merges
  | 0x51 => c.mergeRefused
  | 0x52 => c.laneRange
  | 0x53 => c.emptyReduce
  | 0x54 => c.veFaults
  | 0x55 => c.blockMask
  | 0x56 => c.replays
  | 0x57 => c.escalations
  | 0x58 => c.demotions
  | 0x59 => c.ceilings
  | 0x5A => c.unitsFailed
  | 0x5B => c.localNonfinite
  | 0x5E => c.cellarLate
  | 0x5F => c.cellarFailed
  | 0x60 => c.cellarCoinc
  | 0x61 => c.objEvicted
  | _ => 0

/-- The halted data queues of a partition. -/
def haltedMask (p : Partition) : BitVec 16 := maskOf 16 fun j => if h : j < 16 then p.data[j].halted else false

/-- Bytes of the hold and of the spill that open units hold (R308). -/
def holdInUse (p : Partition) : Nat :=
  ((p.units.filter fun u => u.captured.isSome).map fun u => (u.hold.map fun x => 4096 * x.2.length).sum + u.spillBytes).sum

def readPart (p : Partition) (sub : Nat) : Bytes :=
  match sub with
  | 1 => reg 1 p.state
  | 2 => reg 2 p.clusters
  | 3 => reg 1 p.hbMask
  | 4 => reg 1 p.pool
  | 5 => reg 1 p.jobId
  | 6 => reg 1 p.dataQueues
  | 7 => reg 8 p.seqContexts
  | 8 => flag p.vfAssigned
  | 9 => flag p.debug
  | 0x20 => reg 4 p.accBase
  | 0x21 => reg 4 p.accSize
  | 0x22 => leBytes 2 (p.accSize.toNat / 4096)
  | 0x23 => leBytes 2 (p.accSize.toNat / 20480)
  | 0x24 => reg 4 p.holdBase
  | 0x25 => reg 4 p.holdSize
  | 0x26 => reg 8 p.spillSize
  | 0x27 => leBytes 8 (holdInUse p)
  | 0x30 => reg 4 p.counters.budgetOverruns
  | 0x31 => reg 4 p.counters.coincident
  | 0x32 => reg 4 p.counters.rangeDrops
  | 0x33 => reg 2 (haltedMask p)
  | 0x34 => reg 8 p.syncOvf
  | 0x5C => reg 1 p.policy.deadlineW
  | 0x5D => reg 4 p.cellarQuota
  | n => reg 8 (readCounter p.counters n)

/-- The numerics policy as last written, and the frozen estimators (R143, R177, R192, R328). -/
def readPolicy (s : State) (sub : Nat) : Bytes :=
  if sub = 9 then reg 2 (maskOf 16 fun c => if h : c < 16 then s.clusters[c].frozen else false)
  else
    match policyPart sub with
    | none => []
    | some k =>
      let p := s.parts[k].policy
      if sub < 5 then reg 2 p.flushW
      else if sub < 9 then reg 1 p.checkTolW
      else if sub < 14 then reg 2 p.escHoldW
      else reg 1 p.replayLimitW

def readPress (p : Partition) (sub : Nat) : Bytes :=
  match sub with
  | 1 => reg 1 p.step.serviceW
  | 2 => reg 8 (match p.step.numberW with | some n => n | none => p.step.number)
  | 3 => reg 2 p.step.normWexp
  | 4 => reg 4 p.step.g2
  | 5 => reg 4 p.step.updateSync
  | 7 => p.step.digest
  | 8 => reg 8 p.counters.stepsSkipped
  | 9 => reg 8 p.counters.stepReused
  | 10 => reg 8 p.counters.normInexact
  | 11 => reg 8 p.counters.vfactRetries
  | 12 => reg 8 p.counters.vfactSingular
  | 13 => reg 8 p.counters.keptGrains
  | 14 => reg 8 p.counters.cellarGrains
  | 15 => reg 8 p.counters.updatesTorn
  | 16 => reg 8 p.counters.lockRefused
  | _ => []

/-- The session entries but for the transcript, whose read draws a signature (R564, R639). -/
def readSession (s : State) (k : Pt) (sub : Nat) : Bytes :=
  let x := s.parts[k].session
  match sub with
  | 1 => reg 1 x.state
  | 2 => sessionId x
  | 3 => x.held
  | 4 => x.digest
  | 5 => x.pm
  | 6 => reg 8 x.delivered
  | 8 => x.policy
  | 9 => reg 4 x.stepLeft
  | 10 => reg 8 x.totalLeft
  | 11 => leBytes 8 x.transcript.length
  | 12 => reg 8 x.fromEntry
  | 14 => x.pubKey
  | 15 => reg 8 x.rekeys
  | 16 => reg 8 x.exhausted
  | 17 => reg 8 x.integrity
  | 18 => reg 8 x.refused
  | 19 => reg 8 x.clamps
  | 20 => leBytes 2 (if s.parts[k].conf then numAt x.manifest 28 2 - sessionSlotsUsed s k else 0)
  | 21 => reg 1 x.closeW
  | 22 => reg 8 x.ringStalls
  | _ => []

/-- The 16-byte entry of a slot (R577); of a session-world slot only VALID, LIVE and WORLD outside its session (R584). -/
def slotEntry (s : State) (i : Nat) (open_ : Bool) : Bytes :=
  let x := slot s i
  let head := x.valid.toNat * 2 ^ 63 + (slotLive s i).toNat * 2 ^ 62 + x.world.toNat * 2 ^ 47
  if x.valid && x.world == 1 && !open_ then leBytes 8 head ++ leBytes 8 0
  else
    leBytes 8 (head + x.parent.toNat * 2 ^ 52 + x.usage.toNat * 2 ^ 49 + x.part.toNat * 2 ^ 44 + x.masters.toNat * 2 ^ 36 +
      x.lcMask.toNat * 2 ^ 28 + x.party.toNat * 2 ^ 20) ++ leBytes 8 (x.keyId.toNat * 2 ^ 56 + x.kgen.toNat * 2 ^ 32)

def readKeys (s : State) (x : OdpSession) (sub : Nat) : Bytes :=
  let keys := s.sc.keys
  match sub with
  | 1 => leBytes 2 (freeSlots s).length
  | 2 => reg 2 keys.select
  | 3 => slotEntry s keys.select.toNat (x.party && match x.part with | some k => (slot s keys.select.toNat).part.toNat == k.1 | none => false)
  | 4 => keys.attr
  | 5 => reg 8 keys.sweeps
  | 6 => reg 8 keys.invalid
  | _ => []

def readTelemetry (s : State) (sub : Nat) : Bytes :=
  match sub with
  | 1 => reg 8 s.power.sampleTick
  | 2 => reg 1 s.power.limitHit
  | 0x20 => s.power.history.flatten
  | n => match powerPart n with | some k => reg 2 s.parts[k].powerW | none => []

/-- A mask of clusters that leaves out those of a confidential partition (R730). -/
def shownClusters (s : State) (f : Cluster → Bool) : BitVec 16 :=
  maskOf 16 fun c => if h : c < 16 then
    f s.clusters[c] && (match s.clusters[c].part with | some k => !s.parts[k].conf | none => true) else false

def readTest (s : State) (sub : Nat) : Bytes :=
  let t := s.test
  match sub with
  | 3 => reg 1 t.state
  | 4 => reg 4 t.tcResult
  | 5 => reg 4 t.ld0Result
  | 6 => reg 4 t.ld1Result
  | 7 => reg 8 t.tick
  | 8 => reg 2 t.suspectAt
  | 9 => reg 2 (shownClusters s (·.suspect))
  | 10 => reg 2 t.spadUeW
  | 11 => reg 2 t.stackUeW
  | 12 => reg 2 (shownClusters s (·.fenced))
  | 13 => (List.finRange 16).map fun c => if bit (shownClusters s (·.fenced)) c.1 then s.clusters[c].fenceCause else 0
  | 14 => reg 2 t.drainLimit
  | 15 => reg 4 t.runs
  | 16 => reg 4 t.failed
  | 17 => s.clusters.toList.flatMap fun c => reg 8 c.spadCe
  | _ => []

/-- The 32 bytes of a record (R325). -/
def LogRec.bytes (r : LogRec) : Bytes :=
  [r.typ, r.causes, r.part, r.cluster] ++ reg 2 r.unitId ++ [r.levels, r.replayNo] ++ reg 8 r.tick ++ reg 8 r.step ++
  reg 4 r.detail ++ reg 2 r.handleIndex ++ [r.localNf, 0]

/-- The log that a session reaches (R711), and the records that it holds. -/
def sessionLog (s : State) (x : OdpSession) : Log × Nat :=
  match x.part with
  | some k => (s.parts[k].log, 4096)
  | none => (s.log, 16384)

def readLog (l : Log) (cap sub : Nat) : Bytes :=
  match sub with
  | 1 => reg 8 l.count
  | 2 => reg 8 l.fromRec
  | 3 => (l.recs.drop (l.fromRec.toNat - (l.count.toNat - l.recs.length + 1))).flatMap LogRec.bytes
  | 4 => reg 8 l.overwritten
  | 5 => leBytes 2 cap
  | _ => []

def readChange (c : Change) (sub : Nat) : Bytes :=
  match sub with
  | 1 => c.set
  | 2 => c.nonce
  | 3 => c.digest
  | 4 => reg 1 c.state
  | 5 => reg 2 c.required
  | 6 => reg 2 c.received
  | 11 => reg 1 c.lastResult
  | 12 => c.lastDigest
  | 13 => reg 2 c.timeout
  | 14 => reg 8 c.commits
  | 15 => reg 8 c.rejected
  | 16 => reg 8 c.armWrites
  | _ => []

/-- The value of an entry, as the session reads it; the transcript apart. -/
def readEntry (s : State) (x : OdpSession) (a : Area) (sub : Nat) : Bytes :=
  if sub = 0 then leBytes 1 (highestSub a)
  else
    match a with
    | .ident => readIdent s sub
    | .lifeCycle => readLifeCycle s sub
    | .power => readPower s sub
    | .clocks => readClocks s sub
    | .port p => if h : p < 18 then readPort s.ports[p] sub else []
    | .links => readLinks s.links sub
    | .tiers => readTiers s sub
    | .pools => readPools s sub
    | .part n => readPart s.parts[n] sub
    | .policy => readPolicy s sub
    | .press => match x.part with | some k => readPress s.parts[k] sub | none => []
    | .stepSize => match x.part with | some k => reg 4 (if sub = 1 then s.parts[k].step.eta else s.parts[k].step.etaLatched) | none => []
    | .session => match x.part with | some k => readSession s k sub | none => []
    | .keys => readKeys s x sub
    | .telemetry => readTelemetry s sub
    | .test => readTest s sub
    | .log => readLog (sessionLog s x).1 (sessionLog s x).2 sub
    | .change => readChange s.change sub

/-! ## The transcript (R558) -/

/-- Does a signature that the SC must draw fail for want of entropy (R575)? -/
def entropyStopped (s : State) : Bool := s.sc.esState != 0

/-- A read of TRANSCRIPT: entries, and the signature by the transcript key over the chain head at the last of them. Off the
anchor the entry is Empty; once the session's keys are destroyed the spec states no signature, which is then free
(notes/assumptions/61.md). None where the SC cannot draw. -/
def readTranscript (s : State) (k : Pt) : Option (State × Bytes) :=
  let x := s.parts[k].session
  if !isAnchor s k || x.state < 2 then some (s, [])
  else if entropyStopped s then none
  else
    let m := min x.transcript.length (x.fromEntry.toNat + 174760)
    let body := ((x.transcript.take m).drop (x.fromEntry.toNat - 1)).flatMap entryBytes
    match x.smkSlot.filter fun i => (slot s i.1).valid with
    | some _ =>
      let (s', c) := s.draw 56
      let d := sha384 (sessionId x ++ reg 2 s.links.deviceId ++ leBytes 8 m ++ chainAt x m)
      some (s', body ++ ecdsaSign (transcriptKey s k).1 d (beNat c % (p384n - 1) + 1))
    | none => let (s', sig) := s.draw 96; some (s', body ++ sig)

/-- The value that a read or a snapshot takes. -/
def takeValue (s : State) (x : OdpSession) (a : Area) (sub : Nat) : Option (State × Bytes) :=
  if a = .session ∧ sub = 13 then
    match x.part with
    | some k => readTranscript s k
    | none => some (s, [])
  else some (s, readEntry s x a sub)

end Sys2Proof.Machine
end

