-- ==== Sys2Proof/Machine/Reset.lean ====
section
/-! DEFINITION. The life cycle, module reset, the start-up stages on the standby rail, and the entropy source
(spec/12_keys_lifecycle_boot.md R565–R606, spec/15_power_clocks_thermal.md R690–R703, spec/17_module_interface.md
R738–R746). -/

namespace Sys2Proof.Machine

open Sys2Proof

/-! ## The life-cycle words (R585–R592) -/

/-- The mark of LC_MILE_t (R586); 0 for a state without one. -/
def mileMark (t : Nat) : W32 :=
  match t with
  | 1 => 0x0F0F0F0F
  | 3 => 0x33333333
  | 4 => 0x55555555
  | 5 => 0x00FF00FF
  | 6 => 0x0000FFFF
  | 7 => 0xFFFF0000
  | _ => 0

/-- The states with a milestone word. -/
def mileStates : List Nat := [1, 3, 4, 5, 6, 7]

def Otp.mileOf (o : Otp) (t : Nat) : W32 := o.mile.toList.getD t 0
def Otp.entOf (o : Otp) (t : Nat) : W32 := o.ent.toList.getD t 0

/-- LC_MILE_t holds its full mark. -/
def Otp.reached (o : Otp) (t : Nat) : Bool := mileStates.contains t && o.mileOf t == mileMark t

/-- The state that the ROM decodes (R587). -/
def decodeLc (o : Otp) : Nat :=
  match [7, 6, 5, 4, 3].find? o.reached with
  | some t => t
  | none => if o.reached 1 then (if cycleSteps o.testCycle 1 % 2 = 1 then 2 else 1) else 0

/-- The transitions of R588. -/
def lcAllowed (d t : Nat) : Bool :=
  match t with
  | 1 => d == 0 || d == 2
  | 2 => d == 1
  | 3 => d == 2
  | 4 => d == 3
  | 5 => d == 4
  | 6 => d == 3 || d == 4 || d == 5
  | 7 => decide (d < 7)
  | _ => false

/-- Does the transition go by a step of TEST_CYCLE (R586)? -/
def byCycle (d t : Nat) : Bool := (d == 1 && t == 2) || (d == 2 && t == 1)

/-- The step of TEST_CYCLE that is entered and not complete. -/
def openCycle (o : Otp) : Option Nat := (List.range 32).find? fun j => bit o.testCycle (2 * j) && !bit o.testCycle (2 * j + 1)

/-- The target of the pending transition (R591); of several words, the lowest (notes/assumptions/62.md). -/
def pendingLc (o : Otp) : Option Nat :=
  let d := decodeLc o
  match mileStates.find? fun t => lcAllowed d t && !byCycle d t && (o.entOf t != 0 || (o.mileOf t != 0 && !o.reached t)) with
  | some t => some t
  | none => if (openCycle o).isSome then (if d = 1 then some 2 else if d = 2 then some 1 else none) else none

/-- Stray words (R592); the words of states that the part has passed through are none (notes/assumptions/62.md). -/
def strayMask (o : Otp) : Byte :=
  let d := decodeLc o
  maskOf 8 fun t => mileStates.contains t && !o.reached t && !lcAllowed d t && (o.entOf t != 0 || o.mileOf t != 0)

/-- The wipe of a transition (R588, R589). -/
def wipeOf (d t : Nat) : Nat := if t = 7 then 2 else if t = 6 || (d == 4 && t == 5) then 1 else 0

/-! ## Module reset (R743) -/

/-- STRAP_LS as LODESTAR_PREF reads it (R738). -/
def strapPref (b : BitVec 2) : BitVec 2 := if b = 3 then 0 else b

/-- The meridian, the units, the dictionary and the host side after module reset; what the SC, the standby logic, the flash
and OTP hold stays. HBM and cellar cells keep what they hold (notes/assumptions/63.md). -/
def resetUnits (s : State) : State :=
  let (s, nonce) := s.draw 48
  let o := State.reset
  let p := Power.reset s.full
  let k := s.sc.keys
  let stage : Byte := if 3 < s.sc.stage.toNat then 3 else s.sc.stage
  { o with
    pending := s.pending, full := s.full, fresh := s.fresh, nextId := s.nextId,
    hbs := vmap s.hbs fun h => { Stack.reset with mem := h.mem },
    cellar := { Cellar.reset with mem := s.cellar.mem },
    ports := vmap s.ports fun x => { Port.reset with plug := x.plug, cableCm := x.cableCm, reservedBits := x.reservedBits },
    links := { Links.reset with deviceId := s.pins.strapId, deviceIdW := s.pins.strapId, pref := strapPref s.pins.strapLs },
    sc := { s.sc with
      stage := stage,
      keys := { Keys.reset with slots := Sparse.clear k.slots fun i => decide (8 ≤ i) } },
    dict := { Dict.reset with plcaNode := s.pins.strapPlca.setWidth 8 },
    change := { Change.reset with nonce := nonce },
    host := { HostIf.reset with hostMem := s.host.hostMem },
    power := { p with
      rails := s.power.rails, pwrgd := s.power.pwrgd, thermtrip := s.power.thermtrip, trips := s.power.trips,
      lastOff := s.power.lastOff, lref := s.power.lref, wantRails := s.power.wantRails, perstSeen := s.power.perstSeen,
      lastVolts := s.power.lastVolts },
    test := { Test.reset with contentOk := s.test.contentOk },
    pins := { s.pins with perst := true, tickMode := 0, tickModeW := 0, tickOut := false, capTick := 0, capOffset := 0, capCount := 0 } }

/-- The contents of HBM and the cellar are gone (R691). -/
def dropDram (s : State) : State :=
  { s with hbs := vmap s.hbs fun h => { h with mem := [], lines := [] }, cellar := { s.cellar with mem := [], lines := [] } }

/-- The SC restarts: every slot is cleared, and the boot state is gone (R582, R590). -/
def scStops (s : State) : State :=
  { s with
    sc := { s.sc with keys := Keys.reset, stage := 0, recovery := false, sfwCopyB := false, dfwCopyB := false, sfwSvn := 0, dfwSvn := 0,
                      sfwDigest := [], dfwDigest := [], esState := 0, esFails := 0, roundReqs := 0, gateReqs := 0, stray := 0,
                      lcPending := 0xFF, bootTimes := List.replicate 18 0 },
    power := { s.power with rails := false, pwrgd := false } }

/-- The module reset with which a life-cycle transition begins: the SC restarts with the standby rails up, and the TAP goes
to Test-Logic-Reset (R590, R598, R750). -/
def lcRestart (s : State) : State :=
  let s := scStops (resetUnits s)
  { s with sc := { s.sc with restart := true }, pins := { s.pins with jtagIr := 0x01 } }

/-- The main rails switch off together (R691): every volatile state of the main rails is lost, and POWER_OFF is recorded. -/
def railsOff (s : State) (cause : Nat) : State :=
  let s := dropDram (resetUnits s)
  let s := { s with
    power := { s.power with rails := false, pwrgd := false, lastOff := BitVec.ofNat 8 cause, wantRails := true },
    sc := { s.sc with stage := if 2 < s.sc.stage then 2 else s.sc.stage } }
  noteOp s 0x47 0xFF 0xFFFF cause

/-! ## Wipes and transitions (R588–R591) -/

/-- W0, W1 or W2. Reset has zeroed the on-die state already (R743). -/
def wipe (s : State) (w : Nat) : State :=
  let s := { s with sc := { s.sc with keys := { s.sc.keys with slots := Sparse.clear s.sc.keys.slots fun i => decide (6 ≤ i), dying := [] } } }
  let s := if w = 0 then s
    else { dropDram s with sc := { s.sc with flash := { s.sc.flash with saved := [], userCerts := [] } } }
  if w < 2 then s
  else
    let none_ : FlashImage := ⟨0, [], false, false⟩
    let fl := { s.sc.flash with sfwA := none_, sfwB := none_, dfwA := none_, dfwB := none_, deviceIdCert := [] }
    { s with test := { s.test with contentOk := false },
             sc := { s.sc with flash := fl, otp := { s.sc.otp with uds := s.sc.otp.uds.map fun _ => 0xFF, trim := s.sc.otp.trim.map fun _ => 0xFF } } }

/-- Fuses blown: the bits of b join those of a (R586: a bit can only change from 0 to 1). -/
def orBytes (a b : Bytes) : Bytes := List.zipWith (· ||| ·) a (slice b 0 a.length)

/-- The final actions of R588: UDS and UID fused, OPERATOR_KEY_DIGEST fused, or OPERATOR_KILL. -/
def finalActions (s : State) (d t : Nat) : State :=
  if d = 2 ∧ t = 3 then
    let (s, u) := s.draw 32
    let (s, i) := s.draw 8
    { s with sc := { s.sc with otp := { s.sc.otp with uds := orBytes s.sc.otp.uds u, uid := s.sc.otp.uid ||| BitVec.ofNat 64 (leNat i) } } }
  else if t = 4 then
    match s.sc.lcRequest with
    | some (_, key) => { s with sc := { s.sc with otp := { s.sc.otp with opDigest := orBytes s.sc.otp.opDigest (sha384 key) } } }
    | none => s
  else if t = 6 ∧ (d = 4 ∨ d = 5) then { s with sc := { s.sc with otp := { s.sc.otp with opKill := 0xFFFFFFFF } } }
  else s

/-- Bits of a milestone word written. -/
def setMile (s : State) (t : Nat) (bits : W32) : State :=
  let o := s.sc.otp
  let o' := if h : t < 8 then { o with mile := o.mile.set t (o.mile[t] ||| (bits &&& mileMark t)) } else o
  { s with sc := { s.sc with otp := o' } }

/-- The mark or the completion bit of the transition from d to t is set (R591 step 5). -/
def markDone (s : State) (d t : Nat) : State :=
  if byCycle d t then
    match openCycle s.sc.otp with
    | some j => { s with sc := { s.sc with otp := { s.sc.otp with testCycle := setBit s.sc.otp.testCycle (2 * j + 1) true } } }
    | none => s
  else setMile s t 0xFFFFFFFF

/-- The whole of R591 from its step 2: wipe, final actions, mark; the state is then decoded anew. -/
def completeLc (s : State) (d t : Nat) : State :=
  let s := markDone (finalActions (wipe s (wipeOf d t)) d t) d t
  { s with sc := { s.sc with lc := BitVec.ofNat 8 (decodeLc s.sc.otp), lcPending := 0xFF, lcRequest := none } }

/-! ## Stages 1 to 3 (R597, R602) -/

/-- A stage ends: its number, and its time in milliseconds, which only the part knows, up to its bound (R597). -/
def endStage (s : State) (n most : Nat) : State :=
  let (s, t) := s.draw 2
  { s with sc := { s.sc with stage := BitVec.ofNat 8 n, bootTimes := splice s.sc.bootTimes (2 * n - 2) (leBytes 2 (leNat t % (most + 1))) } }

/-- The copy that the loader uses: of those that verify, carry the signature that the state accepts and hold the minimum SVN,
the one with the higher SVN (R572, R585, R602). -/
def pickCopy (lc least : Nat) (a b : FlashImage) : Option (Bool × FlashImage) :=
  let ok := fun (x : FlashImage) => x.verifies && decide (least ≤ x.svn) &&
    (if lc = 1 ∨ lc = 2 then x.test else decide (3 ≤ lc ∧ lc ≤ 6) && !x.test)
  if ok a && (!ok b || decide (b.svn ≤ a.svn)) then some (false, a) else if ok b then some (true, b) else none

/-- A platform key in a fixed slot (R576; masters and life-cycle mask as notes/assumptions/22.md says). -/
def platformSlot (s : State) (i parent usage : Nat) (key : Bytes) : State :=
  setSlot s i { KeySlot.empty with valid := true, parent := BitVec.ofNat 10 parent, usage := BitVec.ofNat 3 usage, masters := 0xFF, lcMask := 0xFF, key := key }

/-- LCC of R568. -/
def lccOf (lc : Nat) : Byte := if lc = 6 then 2 else 1

/-- Stage 2 with an SFW that verifies: CDI_SFW and the layer keys (R566, R568). -/
def loadSfw (s : State) (copyB : Bool) (x : FlashImage) : State :=
  let uds := s.sc.otp.uds
  let lc := s.sc.lc
  let s := platformSlot s 0 0 3 uds
  let s := platformSlot s 1 0 4 (kdf uds "MDR-DEVID" [lccOf lc.toNat] 56)
  let cdi := kdf uds "MDR-CDI-SFW" (x.digest ++ beBytes 2 x.svn ++ [lc]) 48
  let s := platformSlot s 2 0 3 cdi
  let s := platformSlot s 3 2 4 (kdf cdi "MDR-SFW-KEY" [] 56)
  { s with sc := { s.sc with sfwCopyB := copyB, sfwSvn := BitVec.ofNat 16 x.svn, sfwDigest := x.digest } }

/-- Stage 3 with a DFW that verifies: CDI_DFW and the attestation key. -/
def loadDfw (s : State) (copyB : Bool) (x : FlashImage) : State :=
  let cdi := kdf (slot s 2).key "MDR-CDI-DFW" (x.digest ++ beBytes 2 x.svn) 48
  let s := platformSlot s 4 2 3 cdi
  let s := platformSlot s 5 4 4 (kdf cdi "MDR-ATTEST" [] 56)
  { s with sc := { s.sc with dfwCopyB := copyB, dfwSvn := BitVec.ofNat 16 x.svn, dfwDigest := x.digest } }

/-- The main rails come up, and power-good with the link reference present (R690, R741, R746). -/
def railsOn (s : State) (lref : Bool) : State :=
  { s with power := { s.power with rails := true, pwrgd := lref, lref := lref, thermtrip := false, wantRails := false, perstSeen := false } }

/-- The SC enters recovery (R602). -/
def recover (s : State) (lref : Bool) : State := railsOn { s with sc := { s.sc with recovery := true } } lref

/-- Stage 3: a pending transition is completed, then the DFW is loaded and the rails are enabled; a scrapped part goes no
further (R594). -/
def stage3 (s : State) (lref : Bool) : State :=
  let d := decodeLc s.sc.otp
  let s := match pendingLc s.sc.otp with | some t => completeLc s d t | none => s
  if s.sc.lc = 7 then s
  else
    let f := s.sc.flash
    match pickCopy s.sc.lc.toNat (svnOf s.sc.otp.svnDfw) f.dfwA f.dfwB with
    | some (b, x) => endStage (railsOn (loadDfw s b x) lref) 3 250
    | none => recover s lref

/-- Strays found at the decode, each with its record (R592). -/
def noteStrays (s : State) : State :=
  let m := strayMask s.sc.otp
  (bitList m).foldl (fun s t => noteOp s 0x4A 0xFF 0xFFFF t) { s with sc := { s.sc with stray := m } }

/-- Stage 2: the state is decoded (a pending target counts as the current state), the entropy source starts, W0 of a pending
transition runs, and the SFW is loaded. RAW waits for JTAG; its own transition needs W0 alone. -/
def stage2 (s : State) (lref : Bool) : State :=
  let d := decodeLc s.sc.otp
  let t := pendingLc s.sc.otp
  let now := match t with | some t => t | none => d
  let (s, nonce) := s.draw 48
  let s := noteStrays { s with sc := { s.sc with lc := BitVec.ofNat 8 now, lcNonce := nonce, esState := 0, esFails := 0,
                                                 lcPending := (match t with | some t => BitVec.ofNat 8 t | none => 0xFF) } }
  if d = 7 then s
  else if d = 0 then (if t = some 1 then completeLc s 0 1 else s)
  else
    let s := if t.isSome then wipe s 0 else s
    let f := s.sc.flash
    match pickCopy (if d = 1 ∨ d = 2 then d else 3) (svnOf s.sc.otp.svnSfw) f.sfwA f.sfwB with
    | some (b, x) => stage3 (endStage (loadSfw s b x) 2 45) lref
    | none => recover s lref

/-- The standby power is lost: the SC and all that the rails hold (R582, R746). -/
def standbyLost (s : State) : State :=
  let s := scStops (dropDram (resetUnits s))
  { s with
    sc := { s.sc with restart := false },
    power := { s.power with thermtrip := false, lastOff := 0, wantRails := false, perstSeen := false, lref := true },
    pins := { s.pins with jtagIr := 0x01, extest := false } }

/-- STANDBY_POWER_UP: stages 1 to 3. The straps are read when the standby rail comes up, not when the SC restarts (R738).
Where the power goes again before stage 3 ends, a pending transition repeats at the next boot (R591). -/
def execStandbyPowerUp (b : BootIn) (s : State) : Out :=
  .next (if s.sc.stage != 0 || s.power.rails || s.power.wantRails then s
    else
      let s := if s.sc.restart then s
        else
          let s := { s with pins := { s.pins with strapId := b.strapId, strapLs := b.strapLs, strapPlca := b.strapPlca } }
          { s with links := { s.links with deviceId := b.strapId, deviceIdW := b.strapId, pref := strapPref b.strapLs },
                   dict := { s.dict with plcaNode := b.strapPlca.setWidth 8 } }
      let s := endStage { s with sc := { s.sc with restart := false } } 1 5
      match b.cut with
      | none => stage2 s b.lref
      | some bits =>
        let d := decodeLc s.sc.otp
        let s := match pendingLc s.sc.otp with
          | none => s
          | some t =>
            let s := wipe s 0
            let s := if bits = 0 then s else finalActions (wipe s (wipeOf d t)) d t
            let s := if byCycle d t then s else setMile s t bits
            { s with sc := { s.sc with wipeReps := satAdd s.sc.wipeReps 1 } }
        standbyLost s)

/-- STANDBY_POWER_LOSS. -/
def execStandbyPowerLoss (s : State) : Out := .next (standbyLost s)

/-- LREF_PRESENT: power-good follows once the reference has been present for 10 ms (R741). -/
def execLrefPresent (s : State) : Out :=
  .next (if s.power.rails && !s.power.pwrgd then { s with power := { s.power with lref := true, pwrgd := true } } else s)

/-- PERST_N_ASSERT (R743). -/
def execPerstNAssert (s : State) : Out := .next (resetUnits s)

/-- POWER_FAULT (R691). -/
def execPowerFault (cause : OffCause) (s : State) : Out :=
  .next (if s.power.rails then railsOff s (match cause with | .undervoltage => 1 | .overvoltage => 2 | .regulator => 3) else s)

/-- THERMAL_TRIP (R703). -/
def execThermalTrip (s : State) : Out :=
  .next (if s.power.rails then
      let s := railsOff s 4
      { s with power := { s.power with thermtrip := true, trips := satAdd s.power.trips 1 } }
    else s)

/-- RAIL_RESTART: after a reset seen, and every sensor below 90 °C, start-up runs from stage 3 (R703, R745). -/
def execRailRestart (allBelow90 : Bool) (s : State) : Out :=
  .next (if s.power.wantRails && s.power.perstSeen && allBelow90 then
      (if s.sc.recovery then recover s s.power.lref else stage3 s s.power.lref)
    else s)

/-- ENTROPY_TEST_FAIL: the source stops, and after three failures within one boot it is in fault (R575). -/
def execEntropyTestFail (s : State) : Out :=
  .next (if s.sc.esState = 0 then
      let n := s.sc.esFails + 1
      { s with sc := { s.sc with esFails := n, esState := if 3 ≤ n then 2 else 1 } }
    else s)

/-- ENTROPY_RESTART. -/
def execEntropyRestart (s : State) : Out :=
  .next (if s.sc.esState = 1 then { s with sc := { s.sc with esState := 0 } } else s)

end Sys2Proof.Machine
end

