-- ==== Sys2Proof/Machine/FieldTest.lean ====
section
/-! DEFINITION. Field tests (spec/16_field_test_and_errors.md R719–R730). -/

namespace Sys2Proof.Machine

open Sys2Proof

/-- The targets of the test. -/
def testClusters (s : State) : List Tc := allTcs.filter fun c => bit s.test.tcTarget c.1

/-- The partitions that own a target cluster which is not fenced (R725 phase 1). -/
def testParts (s : State) : List Pt :=
  allPts.filter fun k => (testClusters s).any fun c => s.clusters[c].part == some k && !s.clusters[c].fenced

/-- The reason for which a request is refused; 0 for none (R723). Of several, the lowest but that an absent target comes first
(notes/assumptions/64.md). -/
def testReason (s : State) (tc : BitVec 16) (ld : BitVec 2) : Nat :=
  if (tc &&& ~~~(tcMask s)) != 0 then 5
  else if allTcs.any fun c => bit tc c.1 && (match s.clusters[c].part with | some k => s.parts[k].conf | none => false) then 1
  else if ld != 0 && anyConf s then 2
  else if !s.test.contentOk then 4
  else 0

/-- A request while no test is under way: accepted, or refused with its record. Answers whether it was accepted. -/
def requestTest (s : State) (tc : BitVec 16) (ld : BitVec 2) : State × Bool :=
  let r := testReason s tc ld
  if r ≠ 0 then (noteOp s 0x43 0xFF 0xFFFF r, false)
  else
    ({ s with test := { s.test with
        state := 1, tcTarget := tc, ldTarget := ld, drained := 0, began := s.meridian.tick, tcResult := 0, ld0Result := 0,
        ld1Result := 0, runs := satAdd s.test.runs 1 } }, true)

/-- A result code at its two bits. -/
def putResult (w : W32) (i r : Nat) : W32 := setFld w (2 * i + 1) (2 * i) r

/-- An engine of a link die (R727): a port, a gather engine or a cellar port. -/
inductive LdEngine where
  | port (p : Lp)
  | gather (g : Fin 8)
  | cellar (p : Cp)
deriving DecidableEq, Repr

/-- Engine e of link die l (R730). -/
def ldEngine (l : Fin 2) (e : Fin 15) : LdEngine :=
  if h : e.1 < 9 then .port ⟨9 * l.1 + e.1, by omega⟩
  else if h' : e.1 < 13 then .gather ⟨4 * l.1 + (e.1 - 9), by omega⟩
  else .cellar ⟨2 * l.1 + (e.1 - 13), by omega⟩

/-- Is the engine on the SKU? -/
def enginePresent (s : State) : LdEngine → Bool
  | .port p => lpPresent s p.1
  | _ => true

/-- The engines of the named link dies that the SKU has. -/
def testEngines (s : State) : List (Fin 2 × Fin 15) :=
  (List.finRange 2).flatMap fun l => if bit s.test.ldTarget l.1 then
    ((List.finRange 15).filter fun e => enginePresent s (ldEngine l e)).map fun e => (l, e) else []

def putLd (s : State) (l : Fin 2) (e : Fin 15) (r : Nat) : State :=
  { s with test := if l.1 = 0 then { s.test with ld0Result := putResult s.test.ld0Result e.1 r }
                   else { s.test with ld1Result := putResult s.test.ld1Result e.1 r } }

/-- A gather engine is fenced: the slot tables of its ports stop, and the ports are fenced with it (R450, R721). -/
def fenceGather (s : State) (g : Fin 8) : State :=
  if bit s.test.geFenced g.1 then s
  else
  let s := { s with test := { s.test with geFenced := setBit s.test.geFenced g.1 true } }
  let s := noteFence s 5 g.1 3 true (allPts.filter fun k => s.parts[k].live)
  ((allLps.filter fun p => p.1 % 8 == g.1 && lpPresent s p.1)).foldl (fun s p =>
    (fencePort s p 0 3).modPort p fun x => { x with geFenced := true }) s

/-- A cellar port is fenced. -/
def fenceCellarPort (s : State) (p : Cp) (cause : Nat) : State :=
  let c := s.cellar
  if bit c.cpFenced p.1 then s
  else
    let s := { s with cellar := { c with cpFenced := setBit c.cpFenced p.1 true, cpMove := true } }
    let s := noteFence s 4 p.1 cause true (allPts.filter fun k => s.parts[k].live)
    if cellarDown s then cellarPressLost s else s

def fenceEngine (s : State) : LdEngine → State
  | .port p => fencePort s p 0 3
  | .gather g => fenceGather s g
  | .cellar p => fenceCellarPort s p 3

def testFailed (s : State) : State := { s with test := { s.test with failed := satAdd s.test.failed 1 } }

/-- The result of one cluster. -/
def testCluster (pass : BitVec 16) (s : State) (c : Tc) : State :=
  let r := if bit pass c.1 then 1 else 2
  let s := { s with test := { s.test with tcResult := putResult s.test.tcResult c.1 r } }
  if r = 2 then testFailed (fenceCluster s c 3) else s

/-- The result of one engine; a cellar port that passes carries pages again (R727). -/
def testEngine (pass : BitVec 30) (s : State) (x : Fin 2 × Fin 15) : State :=
  let ok := bit pass (15 * x.1.1 + x.2.1)
  let s := putLd s x.1 x.2 (if ok then 1 else 2)
  if ok then s else testFailed (fenceEngine s (ldEngine x.1 x.2))

/-- Phase 4 for one cluster: scratchpad, vector and mask registers, tiles and estimators as at creation; it is no suspect any
more (R716, R725). -/
def restoreCluster (ended : Bool) (s : State) (c : Tc) : State :=
  s.modCluster c fun t =>
    { t.wiped with
      tiles := [], est := [], ve := { t.ve with regs := { t.ve.regs with v := [], m := VecRegs.zero.m } },
      suspect := t.suspect && !ended }

/-- Every data queue of the drained partitions halts (R726). -/
def haltDrained (s : State) : State := (allPts.filter fun k => bit s.test.drained k.1).foldl (fun s k => haltAll s k 0) s

/-- The cellar ports of the tested dies carry pages again, but for the fenced ones (R414, R727). -/
def reopenCellar (s : State) : State :=
  let back : BitVec 4 := maskOf 4 fun p => bit s.test.ldTarget (p / 2)
  { s with cellar := { s.cellar with cpUp := if s.cellar.up && !s.power.refLost then s.cellar.cpUp ||| (back &&& ~~~s.cellar.cpFenced) else s.cellar.cpUp } }

/-- Phase 4, and the end of the test. -/
def endTest (s : State) (ended : Bool) (failed : Nat) : State :=
  let s := (testClusters s).foldl (restoreCluster ended) s
  let s := haltDrained (reopenCellar s)
  let s := { s with test := { s.test with state := 4, drained := 0, tick := s.meridian.tick } }
  raiseGlb (noteOp s 0x42 0xFF 0xFFFF failed) 6

/-- Is a partition drained: no data command running or queued, every unit retired, no update phase (R725)? -/
def isDrained (p : Partition) : Bool := !(p.inflight.any isDataCmd) && p.units.isEmpty && !inUpdate p

/-- Phase 1 has taken effect at a boundary, and every partition is drained. -/
def drainDone (s : State) : Bool := s.test.state == 1 && decide (s.test.began < s.meridian.tick) && (testParts s).all fun k => isDrained s.parts[k]

/-- The ports and cellar ports of the named dies stop while their engines are tested (R727). -/
def stopDies (s : State) : State :=
  let s := (allLps.filter fun p => bit s.test.ldTarget (p.1 / 9) && s.ports[p].state != .fenced && s.ports[p].state != .down).foldl
    (fun s p => leavePort s p .down) s
  let down : BitVec 4 := maskOf 4 fun p => bit s.test.ldTarget (p / 2)
  if (s.cellar.cpUp &&& down) = 0 then s
  else
    let s := { s with cellar := { s.cellar with cpUp := s.cellar.cpUp &&& ~~~down, cpMove := true } }
    if cellarDown s then cellarPressLost s else s

/-- TEST_DRAINED: phases 2 and 3 begin. -/
def execTestDrained (s : State) : Out :=
  .next (if !drainDone s then s
    else
      let empty := fun (c : Tc) =>
        let t := s.clusters[c]
        if bit s.test.tcTarget c.1 then t.wiped else t
      let s' := { s with clusters := Vector.ofFn empty }
      settled s (stopDies { s' with test := { s'.test with state := 3 } }))

/-- DRAIN_TIMEOUT: the request is refused with reason 3. -/
def execDrainTimeout (s : State) : Out :=
  .next (if s.test.state == 1 && decide (s.test.began.toNat + s.test.drainLimit.toNat ≤ s.meridian.tick.toNat) && !drainDone s then
      noteOp { s with test := { s.test with state := 0, drained := 0 } } 0x43 0xFF 0xFFFF 3
    else s)

/-- TEST_COMPLETE: the verdicts of the scan, in the order of R725. -/
def execTestComplete (tcPass : BitVec 16) (ldPass : BitVec 30) (s : State) : Out :=
  .next (if s.test.state = 3 then
      let before := s.test.failed.toNat
      let t := (testEngines s).foldl (testEngine ldPass) ((testClusters s).foldl (testCluster tcPass) s)
      settled s (endTest t true (t.test.failed.toNat - before))
    else s)

/-- An abort by TEST_ABORT: the targets of phase 3 that have been tested keep their verdicts, every other target is reported as aborted, and
phase 4 runs (R729). -/
def abortTest (x : TestedIn) (s : State) : State :=
  if s.test.state = 0 ∨ s.test.state = 4 then s
  else
    let n := if s.test.state = 3 then x.n else 0
    let cs := testClusters s
    let es := testEngines s
    let before := s.test.failed.toNat
    let s := (cs.take n).foldl (testCluster x.tcPass) s
    let s := (es.take (n - cs.length)).foldl (testEngine x.ldPass) s
    let s := (cs.drop n).foldl (fun s c => { s with test := { s.test with tcResult := putResult s.test.tcResult c.1 3 } }) s
    let s := (es.drop (n - cs.length)).foldl (fun s e => putLd s e.1 e.2 3) s
    endTest s false (s.test.failed.toNat - before)

end Sys2Proof.Machine
end

