-- ==== Sys2Proof/Machine/Change.lean ====
section
/-! DEFINITION. Two-party change control (spec/13_object_dictionary.md R640–R650; the entries' own rules are R551, R572,
R583, R585, R588, R590, R595 and R442). -/

namespace Sys2Proof.Machine

open Sys2Proof

/-! ## Change sets (R640) -/

/-- A record of a change set. -/
structure ChangeRec where
  index : Nat
  sub   : Nat
  part  : Nat
  typ   : Nat
  value : Bytes
deriving DecidableEq, Repr

/-- A value's length with the zeros that follow it. -/
def padded8 (n : Nat) : Nat := (n + 7) / 8 * 8

/-- The n records that follow; none where the layout is broken. -/
def parseRecs : (n : Nat) → Bytes → Option (List ChangeRec)
  | 0, bs => if bs.isEmpty then some [] else none
  | n + 1, bs =>
    let v := numAt bs 8 4
    if bs.length < 16 + padded8 v ∨ !allZero (slice bs 5 3) ∨ !allZero (slice bs 12 4) ∨ !allZero (slice bs (16 + v) (padded8 v - v)) then none
    else
      let r : ChangeRec := { index := numAt bs 0 2, sub := (byteAt bs 2).toNat, part := (byteAt bs 3).toNat, typ := (byteAt bs 4).toNat,
                             value := slice bs 16 v }
      (parseRecs n (bs.drop (16 + padded8 v))).map fun rs => r :: rs

/-- The records of a change set. -/
def parseSet (bs : Bytes) : Option (List ChangeRec) :=
  let n := numAt bs 0 2
  if bs.length < 16 ∨ 65536 < bs.length ∨ n = 0 ∨ 64 < n ∨ numAt bs 4 4 ≠ bs.length ∨ !allZero (slice bs 2 2) ∨ !allZero (slice bs 8 8) then none
  else parseRecs n (bs.drop 16)

/-! ## The entries' own rules (R641) -/

/-- The format of a release policy (R551). -/
def policyOk (p : Bytes) : Bool :=
  let n := (byteAt p 0).toNat
  let owners := (byteAt p 1).toNat
  p.length == 32 + 32 * n && decide (1 ≤ n ∧ n ≤ 16 ∧ 1 ≤ owners ∧ owners ≤ 32) && allZero (slice p 2 2) && allZero (slice p 16 16) &&
  (List.range n).all fun i =>
    let e := slice p (32 + 32 * i) 32
    let clip := f32 (BitVec.ofNat 32 (numAt e 8 4))
    let sigma := f32 (BitVec.ofNat 32 (numAt e 12 4))
    decide ((byteAt e 0).toNat < 16) && decide (-64 ≤ relGrid e ∧ relGrid e ≤ 64) && allZero (slice e 2 2) &&
    decide (1 ≤ relElems e ∧ relElems e ≤ 2 ^ 26) && clip.isFinite && sigma.isFinite &&
    decide (0 ≤ clip.toRat ∧ 0 ≤ sigma.toRat) && (clip.toRat != 0 || sigma.toRat == 0) &&
    decide (sigma.toRat ≤ pow2 (20 + relGrid e)) && allZero (slice e 16 16)

/-- A slot map: the control code in slot 0 and only there, and no reserved code (R442). -/
def slotMapOk (m : Bytes) : Bool :=
  (List.range 64).all fun i => if i = 0 then slotCode m 0 == 15 else decide (slotCode m i ≤ 8)

/-- A life-cycle request by the dictionary (R588, R590, R595). RAW leaves by JTAG alone, and a transition that fuses a drawn UDS
needs the entropy source (R575). -/
def lcRequestOk (s : State) (v : Bytes) : Bool :=
  let d := decodeLc s.sc.otp
  let t := (byteAt v 0).toNat
  s.sc.lcPending == 0xFF && (s.parts.toList.all fun p => !p.live) && lcAllowed d t && !(d == 0 && t == 1) &&
  (t == 4 || allZero (slice v 1 96)) && (t != 2 || decide (cycleSteps s.sc.otp.testCycle 0 < 31)) &&
  !(t == 3 && entropyStopped s)

/-- The partition that an instanced record names. -/
def ChangeRec.pt (r : ChangeRec) : Option Pt := if h : r.part < 4 then some ⟨r.part, h⟩ else none

/-- The record's entry keeps its own rule. -/
def ownRule (s : State) (a : Area) (r : ChangeRec) : Bool :=
  let v := r.value
  match a with
  | .lifeCycle =>
    if r.sub = 3 then lcRequestOk s v
    else
      let old := svnOf (if r.sub = 8 then s.sc.otp.svnSfw else s.sc.otp.svnDfw)
      decide (old < numAt v 0 2 ∧ numAt v 0 2 ≤ 64)
  | .port _ => slotMapOk v
  | .links => true
  | .part n => decide ((byteAt v 0).toNat ≤ 1) && s.parts[n].state == 1 && (s.sc.lc == 3 || s.sc.lc == 4)
  | .session =>
    match r.pt with
    | none => false
    | some k => sessionOpen s k && (if r.sub = 8 then policyOk v else byteAt v 0 == 1)
  | .keys =>
    let i := numAt v 0 2
    decide (i < 1024) && (slot s i).valid && ((byteAt v 2 &&& ~~~(slot s i).masters) == 0) && ((byteAt v 3 &&& ~~~(slot s i).lcMask) == 0)
  | _ => false

/-- A record that a party session of k may stage (R641). -/
def partyMayStage (k : Pt) (r : ChangeRec) : Bool := r.index == 0x6000 && (r.sub == 8 || r.sub == 21) && r.part == k.1

/-- One record under R641. -/
def recOk (s : State) (by_ : Option Pt) (r : ChangeRec) : Bool :=
  match areaOf r.index with
  | none => false
  | some a =>
    match entryRow a r.sub with
    | none => false
    | some row =>
      row.acc == .arm && !unitAbsent s a && (if instanced a then decide (r.part < 4) else r.part == 0xFF) &&
      (r.typ == 0 || r.typ == row.typ.code) && row.typ.lengthOk r.value.length && ownRule s a r &&
      (match by_ with | some k => partyMayStage k r | none => true)

def isLcRequest (r : ChangeRec) : Bool := r.index == 0x1100 && r.sub == 3

/-- The whole set under R641. -/
def setOk (s : State) (by_ : Option Pt) (rs : List ChangeRec) : Bool :=
  (rs.all (recOk s by_)) && decide ((rs.map fun r => (r.index, r.sub, r.part)).Nodup) && !(rs.any isLcRequest && decide (1 < rs.length))

/-! ## Approvals (R642, R643) -/

def opKeyBlank (s : State) : Bool := allZero s.sc.otp.opDigest
def opKilled (s : State) : Bool := s.sc.otp.opKill != 0

/-- The bit of an operator approval: none while the key is blank and an operator session staged the set, the operator's
while the key is fused, Medrielm's after the kill. -/
def operatorBit (s : State) (byOperator : Bool) : Nat :=
  if opKilled s then 2 ^ 5 else if opKeyBlank s then (if byOperator then 0 else 1) else 1

/-- The approvals of a life-cycle request (R588). -/
def lcBits (s : State) (v : Bytes) : Nat :=
  let d := decodeLc s.sc.otp
  match (byteAt v 0).toNat with
  | 2 => 2 ^ 5
  | 3 => 2 ^ 5
  | 4 => 1
  | 5 => if opKilled s then 2 ^ 5 else 1
  | 6 => if d = 3 then 2 ^ 5 else 1 + 2 ^ 5
  | 7 => if !opKeyBlank s && !opKilled s then 1 else 2 ^ 5
  | _ => 0

/-- The bits of the confidential partitions that satisfy a condition. -/
def sessionBits (s : State) (f : Pt → Bool) : Nat := ((allPts.filter fun k => s.parts[k].conf && f k).map fun k => 2 ^ (k.1 + 1)).sum

/-- Does partition k hold a slot of a port map? -/
def hasCode (m : Bytes) (k : Pt) : Bool := (List.range 64).any fun i => decide (slotCode m i < 8) && slotCode m i % 4 == k.1

def recBits (s : State) (byOperator : Bool) (r : ChangeRec) : Nat :=
  let op := operatorBit s byOperator
  match areaOf r.index with
  | some .lifeCycle => if r.sub = 3 then lcBits s r.value else op ||| sessionBits s fun _ => true
  | some .links => op ||| sessionBits s fun _ => true
  | some (.port p) =>
    if h : p < 18 then op ||| sessionBits s fun k => hasCode s.ports[p].slotMap k || hasCode r.value k else op
  | some .keys =>
    let x := slot s (numAt r.value 0 2)
    op ||| (if x.world = 1 then sessionBits s fun k => x.part.toNat == k.1 else 0)
  | some (.part _) => op
  | some .session => if r.sub = 8 then op ||| sessionBits s fun k => r.part == k.1 else sessionBits s fun k => r.part == k.1
  | _ => 0

def requiredOf (s : State) (byOperator : Bool) (rs : List ChangeRec) : BitVec 16 :=
  BitVec.ofNat 16 (rs.foldl (fun a r => a ||| recBits s byOperator r) 0)

/-! ## The procedure (R646–R649) -/

def changeRecs (s : State) : List ChangeRec := (parseSet s.change.set).getD []

/-- The change becomes ARMED when RECEIVED covers REQUIRED (R646 step 3). -/
def maybeArm (s : State) : State :=
  let c := s.change
  if c.state = 1 ∧ (c.required &&& ~~~c.received) = 0 then { s with change := { c with state := 2 } } else s

/-- A change set is written (R646 step 1): its status. -/
def stageChange (s : State) (by_ : Option Pt) (bs : Bytes) : State × Nat :=
  match parseSet bs with
  | none => (s, 0x08)
  | some rs =>
    if !setOk s by_ rs then (s, 0x11)
    else
      let c := s.change
      (maybeArm { s with change := { c with
          set := bs, byParty := by_, digest := sha384 bs, state := 1, required := requiredOf s by_.isNone rs, received := 0,
          approvers := [], timeoutNow := c.timeout } }, 0)

/-- A change ends: IDLE, result, digest, new nonces and its record (R646 step 5, R647). CHANGE_SET goes on reading as it was last
written (R16). -/
def endChange (s : State) (result : Nat) : State :=
  let lc := (changeRecs s).any isLcRequest
  let (s, n1) := s.draw 48
  let (s, n2) := s.draw 48
  let c := s.change
  let s := { s with
    change := { c with nonce := n1, digest := List.replicate 48 0, state := 0, required := 0, received := 0,
                       approvers := [], lastResult := BitVec.ofNat 8 result, lastDigest := c.digest,
                       commits := if result = 1 then satAdd c.commits 1 else c.commits },
    sc := { s.sc with lcNonce := n2 } }
  let s := noteOp s 0x4C 0xFF 0xFFFF result
  if lc && (result == 1 || result == 5) then raiseGlb s 8 else s

/-- Does a record name partition k? -/
def namesPart (k : Pt) (r : ChangeRec) : Bool := (r.part == k.1) || r.index == 0x5000 + k.1

/-- A partition is created or destroyed, or its session has closed: a staged change that names it, or needs its session's
approval, is stale (R647). -/
def staleChange (s : State) (k : Pt) : State :=
  if s.change.state ≠ 0 ∧ ((changeRecs s).any (namesPart k) ∨ bit s.change.required (k.1 + 1)) then endChange s 4 else s

/-- The nonce that the staged set's tokens sign (R644). -/
def changeNonce (s : State) : Bytes := if (changeRecs s).any isLcRequest then s.sc.lcNonce else s.change.nonce

/-- The 106-byte token message (R644). -/
def tokenMessage (s : State) : Bytes := reg 8 s.sc.otp.uid ++ reg 2 s.links.deviceIdW ++ changeNonce s ++ s.change.digest

def rejectToken (s : State) (n : Nat) : State := { s with change := { s.change with rejected := satAdd s.change.rejected n } }

/-- An approval is complete. -/
def receive1 (s : State) (b : Nat) : State :=
  maybeArm { s with change := { s.change with received := setBit s.change.received b true } }

/-- The digest that an operator token's key must match (R644). -/
def operatorKeyDigest (s : State) : Bytes :=
  match (changeRecs s).find? isLcRequest with
  | some r => if byteAt r.value 0 = 4 then sha384 (slice r.value 1 96) else s.sc.otp.opDigest
  | none => s.sc.otp.opDigest

/-- An operator token (R644). -/
def operatorToken (s : State) (v : Bytes) : State × Nat :=
  if s.change.state ≠ 1 then (s, 0x09)
  else
    let pub := slice v 0 96
    let lc4 := (changeRecs s).any fun r => isLcRequest r && byteAt r.value 0 == 4
    if sha384 pub == operatorKeyDigest s && (lc4 || (!opKeyBlank s && !opKilled s)) && ecdsaVerify pub (sha384 (tokenMessage s)) (slice v 96 96) then
      (receive1 s 0, 0)
    else (rejectToken s 1, 0x11)

/-- A Medrielm token, under the root key in ROM (R644). -/
def medrielmToken (s : State) (v : Bytes) : State × Nat :=
  if s.change.state ≠ 1 then (s, 0x09)
  else if ecdsaVerify Config.medrielmRoot (sha384 (tokenMessage s)) (slice v 0 96) then (receive1 s 5, 0)
  else (rejectToken s 1, 0x11)

/-- The approval records of a write: the state with the new approvers, and how many records failed. -/
def approvalRecs (k : Pt) (man : Bytes) : (n : Nat) → Bytes → State → Nat → State × Nat
  | 0, _, s, bad => (s, bad)
  | n + 1, bs, s, bad =>
    let i := (byteAt bs 0).toNat
    if s.change.approvers.contains (k, byteAt bs 0) then approvalRecs k man n (bs.drop 100) s bad
    else if decide (i < manParties man) && allZero (slice bs 1 3) && ecdsaVerify (manKey man i) (sha384 (tokenMessage s)) (slice bs 4 96) then
      approvalRecs k man n (bs.drop 100) { s with change := { s.change with approvers := s.change.approvers ++ [(k, byteAt bs 0)] } } bad
    else approvalRecs k man n (bs.drop 100) s (bad + 1)

/-- A session approval (R644, R645). -/
def sessionApproval (s : State) (v : Bytes) : State × Nat :=
  let n := (v.length - 4) / 100
  if v.length < 104 ∨ (v.length - 4) % 100 ≠ 0 then (s, 0x07)
  else if 3 < (byteAt v 0).toNat ∨ !allZero (slice v 1 3) then (s, 0x08)
  else
    let k : Pt := ⟨(byteAt v 0).toNat % 4, Nat.mod_lt _ (by decide)⟩
    if s.change.state ≠ 1 ∨ !s.parts[k].conf then (s, 0x09)
    else
      let man := s.parts[k].session.manifest
      let (t, bad) := approvalRecs k man n (v.drop 4) s 0
      let t := rejectToken t bad
      let mine := (t.change.approvers.filter fun x => x.1 == k).length
      (if manQuorum man ≤ mine then receive1 t (k.1 + 1) else t, if bad = n then 0x11 else 0)

/-- CHANGE_ABORT. -/
def abortChange (s : State) (v : Bytes) : State × Nat :=
  if byteAt v 0 ≠ 1 then (s, 0x08) else if s.change.state = 0 then (s, 0x09) else (endChange s 2, 0)

/-- CHANGE_EXPIRED. A token of the same clock that completes the approvals arms the change instead (R648). -/
def execChangeExpired (tokenNow : Bool) (s : State) : Out :=
  .next (raiseChanges s (if s.change.state = 1 && !tokenNow then endChange s 3 else s))

/-! ## Applying (R646 step 4) -/

/-- The life-cycle words of an accepted request (R590). -/
def enterLc (s : State) (v : Bytes) : State :=
  let t := (byteAt v 0).toNat
  let o := s.sc.otp
  let o' :=
    if byCycle (decodeLc o) t then { o with testCycle := setBit o.testCycle (2 * cycleSteps o.testCycle 0) true }
    else if h : t < 8 then { o with ent := o.ent.set t (o.ent[t] ||| ~~~(mileMark t)) } else o
  { s with sc := { s.sc with otp := o', lcRequest := some (byteAt v 0, slice v 1 96), lcPending := byteAt v 0 } }

/-- A thermometer code of n. -/
def thermometer (n : Nat) : W64 := BitVec.ofNat 64 (2 ^ n - 1)

/-- A new release policy: what was charged stays charged, and the transcript records it (R551). -/
def setPolicy (s : State) (k : Pt) (v : Bytes) : State :=
  let s := s.modSession k fun x =>
    let usedStep := polStep x.policy - x.stepLeft.toNat
    let usedAll := polSession x.policy - x.totalLeft.toNat
    { x with policy := v, stepLeft := BitVec.ofNat 32 (polStep v - usedStep), totalLeft := BitVec.ofNat 64 (polSession v - usedAll) }
  appendEntry s k s.parts[k].step.number 0xFF 4 0 0 (sha384 v)

def applyRec (s : State) (r : ChangeRec) : State :=
  let v := r.value
  match areaOf r.index with
  | some .lifeCycle =>
    if r.sub = 3 then enterLc s v
    else
      let o := s.sc.otp
      let o' := if r.sub = 8 then { o with svnSfw := o.svnSfw ||| thermometer (numAt v 0 2) }
        else { o with svnDfw := o.svnDfw ||| thermometer (numAt v 0 2) }
      { s with sc := { s.sc with otp := o' } }
  | some .links => { s with links := { s.links with acceptFw := v } }
  | some (.port p) =>
    if h : p < 18 then s.modPort ⟨p, h⟩ fun x => { x with slotMap := v, mismatch := if x.isUp then mapMismatch v x.peerMap else x.mismatch } else s
  | some (.part n) => s.modPart n fun p => { p with debug := byteAt v 0 == 1 }
  | some .session =>
    match r.pt with
    | none => s
    | some k => if r.sub = 8 then setPolicy s k v else s.modSession k fun x => { x with closing := true, closeW := 1 }
  | some .keys =>
    let i := numAt v 0 2
    let s := setSlot s i { slot s i with masters := byteAt v 2, lcMask := byteAt v 3 }
    { s with sc := { s.sc with keys := { s.sc.keys with attr := v } } }
  | _ => s

/-- Action 2 of a boundary: an ARMED change is checked again and applied as a whole, or fails. A life-cycle request then
restarts the SC (R590). -/
def applyChange (s : State) : State :=
  if s.change.state ≠ 2 then s
  else
    let rs := changeRecs s
    if setOk s s.change.byParty rs then
      let s := endChange (rs.foldl applyRec s) 1
      if rs.any isLcRequest then lcRestart s else s
    else endChange s 5

end Sys2Proof.Machine
end

