-- ==== Sys2Proof/Machine/Writes.lean ====
section
/-! DEFINITION. Writes of the dictionary's entries: the range of every writable entry, when its rules refuse a write, and
what an accepted write does (spec/13_object_dictionary.md R609, R612, R613, R635 and the rules of each entry). -/

namespace Sys2Proof.Machine

open Sys2Proof

/-- What a write brings from outside the frame: the standby's acknowledgement (R471), the image that the bytes are (R602),
whether the scan content verifies (R723), and what a test that is aborted has tested (R729). -/
structure WriteCtx where
  ack     : Bool := false
  img     : Option ImageInfo := none
  content : Option Bool := none
  confElsewhere : Bool := false
  tested  : TestedIn := ⟨0, 0, 0⟩

/-- The value as an unsigned number. -/
def vNat (v : Bytes) : Nat := leNat v

def within (lo hi : Nat) (v : Bytes) : Bool := decide (lo ≤ leNat v ∧ leNat v ≤ hi)

/-- The reading of an F32 value. -/
def vF32 (v : Bytes) : Val := f32 (BitVec.ofNat 32 (leNat v))

/-- Is the value inside the entry's stated range (R635 order 14)? -/
def entryInRange (s : State) (a : Area) (sub : Nat) (v : Bytes) : Bool :=
  match a with
  | .ident => if sub = 10 then within 1 2 v else if sub = 20 then within 2 32 v else true
  | .power =>
    match sub with
    | 4 => within 600 (tdpWatts s.full).toNat v
    | 11 => within 85 100 v && decide (vNat v < s.power.tjLimitW.toNat)
    | 12 => within 90 105 v
    | 13 => within 80 100 v
    | _ => within 0 7 v
  | .clocks => if sub = 1 then within 5 200 v else if sub = 6 then within 0 3 v else true
  | .port _ => within 0 15808 v && vNat v % 64 == 0
  | .tiers => if sub = 1 then within 1 168 v else within 1 65535 v
  | .pools => (List.range 8).all fun h => decide (numAt v (2 * h) 2 ≤ 22888)
  | .part _ => within 1 15 v
  | .policy => if sub < 5 then true else if sub < 9 then within 8 30 v else if sub < 14 then within 1 65535 v else within 1 8 v
  | .press =>
    match sub with
    | 1 => within 0 1 v
    | 3 => decide (-512 ≤ signedOf 16 (vNat v) ∧ signedOf 16 (vNat v) ≤ 511)
    | 5 => decide (vNat v < 2 ^ 30)
    | _ => true
  | .stepSize => (vF32 v).isFinite && decide (0 ≤ (vF32 v).toRat)
  | .session => if sub = 7 then within 1 2 (v.take 1) else true
  | .keys => within 0 1023 v
  | .test =>
    match sub with
    | 1 => decide ((byteAt v 2).toNat < 4) && byteAt v 3 == 0
    | 2 => within 1 1 v
    | 14 => within 16 65535 v
    | _ => true
  | .change => if sub = 13 then within 60 3600 v else true
  | _ => true

/-- Is this device the lodestar (R45)? -/
def isLodestar (s : State) : Bool := s.links.locked && s.links.lodestar == s.links.deviceId

/-- Is the write one that only the lodestar accepts? -/
def lodestarOnly (a : Area) (sub : Nat) : Bool := (a == .clocks && sub == 1) || (a == .links && sub == 17)

/-- A session that has started (R510). -/
def sessionStarted (p : Partition) : Bool := p.conf && decide (2 ≤ p.session.state.toNat)

/-- The pool of a sub-index of 0x4100. -/
def poolAt (sub : Nat) : Pt := ⟨(sub / 16 - 1) % 4, Nat.mod_lt _ (by decide)⟩

/-- The quotas of all pools on stack h with pool p's written anew (R403). -/
def quotaSum (s : State) (pl : Pt) (v : Bytes) (h : Fin 8) : Nat :=
  (allPts.map fun p => if p = pl then numAt v (2 * h.1) 2 else s.pools[p].written[h].toNat).sum

/-- Do the entry's rules refuse the write at this time (R635 order 16)? A session that names a partition that does not exist
stages a manifest and nothing else (R609). FLUSH_THRESHOLD_n or CHECK_TOL_n of a partition that does not exist is refused with
State, where R143, R192, R609 and R611 leave its write open (notes/assumptions/148.md, DESIGN CHOICE). -/
def refused (s : State) (c : WriteCtx) (x : OdpSession) (a : Area) (sub : Nat) (v : Bytes) : Bool :=
  let part := fun (f : Pt → Partition → Bool) => match x.part with | some k => f k s.parts[k] | none => true
  let absent := match x.part with | some k => !s.parts[k].live | none => false
  if absent then !(a == .session && sub == 3)
  else
    match a with
    | .lifeCycle => !s.sc.recovery
    | .clocks => sub == 1 && (anyConf s || c.confElsewhere || decide (s.meridian.effective.toNat < s.meridian.tick.toNat + 16) ||
        decide (depthLimitAt (vNat v) < s.links.depthMax.toNat))
    | .links => sub == 17 && !c.ack
    | .tiers => anyConf s
    | .pools =>
      let pl := poolAt sub
      (allPts.any fun k => s.parts[k].conf && poolOf s.parts[k] == pl) || (List.finRange 8).any fun h => decide (22888 < quotaSum s pl v h)
    | .part n => !s.parts[n].live || s.parts[n].conf
    | .policy => match policyPart sub with | some n => !s.parts[n].live || s.parts[n].conf | none => true
    | .press =>
      part fun _ p =>
        match sub with
        | 1 => sessionStarted p
        | 2 => inUpdate p || sessionStarted p
        | 5 => false
        | _ => p.conf
    | .test => (sub == 10 || sub == 11) && anyConf s
    | .session =>
      part fun k p =>
        if sub = 7 then !isAnchor s k || !(p.session.state == 2 || p.session.state == 3) else false
    | _ => false

/-- A busy entry (R613, R646, R724). -/
def busyEntry (s : State) (a : Area) (sub : Nat) : Bool :=
  (a == .ident && sub == 10 && s.dict.saving) || (a == .change && sub == 1 && s.change.state != 0) ||
  (a == .test && sub == 1 && s.test.state != 0)

/-! ## The stored settings (R613) -/

/-- The areas that CONFIG_SAVE stores, with their indices. -/
def storedAreas (s : State) : List (Nat × Area) :=
  [(0x2000, .power), (0x2100, .clocks)] ++ ((List.range 18).filter (lpPresent s)).map (fun p => (0x3000 + p, Area.port p)) ++
  [(0x3100, .links), (0x4000, .tiers), (0x4100, .pools), (0x7000, .telemetry), (0x1000, .ident)]

/-- An operator session that names no partition, as CONFIG_SAVE reads the entries. -/
def plainSession : OdpSession :=
  { id := 0, src := .link 0 0 0 [], party := false, part := none, lastSeq := none, lastResp := [], staging := [], snaps := [] }

def storedValues (s : State) : List (BitVec 16 × Byte × Bytes) :=
  (storedAreas s).flatMap fun x =>
    ((areaRows x.2).filter fun r => r.acc == .rw).map fun r =>
      (BitVec.ofNat 16 x.1, BitVec.ofNat 8 r.sub, readEntry s plainSession x.2 r.sub)

/-! ## Accepted writes -/

def State.modPolicy (s : State) (k : Pt) (f : Policy → Policy) : State := s.modPart k fun p => { p with policy := f p.policy }
def State.modStep (s : State) (k : Pt) (f : Step → Step) : State := s.modPart k fun p => { p with step := f p.step }

/-- A new JOB_SIZE: the jobs whose size changes go out in the next four control slots (R475). -/
def setJobSizes (s : State) (v : Bytes) : State :=
  let l := s.links
  let changed := (List.range 256).filter fun j => j != 0 && (Sparse.get (0 : W32) l.jobSize j).toNat != numAt v (4 * j) 4
  let sizes := (List.range 256).foldl (fun m j => Sparse.set (0 : W32) m j (BitVec.ofNat 32 (numAt v (4 * j) 4))) l.jobSize
  let urgent := (l.jobUrgent.filter fun u => !changed.contains u.1.toNat) ++ changed.map fun j => (BitVec.ofNat 8 j, 4)
  { s with links := { l with jobSize := sizes, jobUrgent := urgent } }

/-- An image for the flash in recovery: it replaces copy A where that does not verify, else copy B (notes/assumptions/65.md). -/
def storeFirmware (s : State) (i : ImageInfo) : State :=
  let x : FlashImage := ⟨i.svn, i.digest, i.verifies, i.test⟩
  let f := s.sc.flash
  let f' :=
    if i.isSfw then (if f.sfwA.verifies then { f with sfwB := x } else { f with sfwA := x })
    else (if f.dfwA.verifies then { f with dfwB := x } else { f with dfwA := x })
  { s with sc := { s.sc with flash := f' } }

def setIdent (s : State) (sub : Nat) (v : Bytes) : State :=
  match sub with
  | 10 =>
    if vNat v = 1 then { s with sc := { s.sc with flash := { s.sc.flash with saved := storedValues s } }, dict := { s.dict with saving := true } }
    else { s with sc := { s.sc with flash := { s.sc.flash with saved := [] } } }
  | 17 => { s with dict := { s.dict with ipv4 := BitVec.ofNat 32 (vNat v) } }
  | 18 => { s with dict := { s.dict with ipv4Mask := BitVec.ofNat 32 (vNat v) } }
  | _ => { s with dict := { s.dict with plcaCount := BitVec.ofNat 8 (vNat v) } }

def setPower (p : Power) (sub : Nat) (v : Bytes) : Power :=
  match sub with
  | 4 => { p with limitW := BitVec.ofNat 16 (vNat v) }
  | 11 => { p with tjWarnW := BitVec.ofNat 8 (vNat v) }
  | 12 => { p with tjLimitW := BitVec.ofNat 8 (vNat v) }
  | 13 => { p with thbmLimitW := BitVec.ofNat 8 (vNat v) }
  | _ => { p with floorW := BitVec.ofNat 8 (vNat v) }

/-- The tick period written takes effect at the tick of OD 0x2100.03 (R46), as that entry reads when the period is written: that a later
write of the entry leaves a pending change as it is, is a choice (notes/assumptions/148.md, DESIGN CHOICE). -/
def setClocks (s : State) (sub : Nat) (v : Bytes) : State :=
  let m := s.meridian
  match sub with
  | 1 => { s with meridian := { m with periodNew := some (BitVec.ofNat 8 (vNat v), m.effective) } }
  | 3 => { s with meridian := { m with effective := BitVec.ofNat 64 (vNat v) } }
  | _ => { s with pins := { s.pins with tickModeW := BitVec.ofNat 8 (vNat v) } }

def setLinks (s : State) (sub : Nat) (v : Bytes) : State :=
  let l := s.links
  match sub with
  | 1 => { s with links := { l with deviceIdW := BitVec.ofNat 16 (vNat v) } }
  | 2 => { s with links := { l with constIdW := BitVec.ofNat 32 (vNat v) } }
  | 13 => { s with links := { l with fenceTag := BitVec.ofNat 16 (vNat v) } }
  | 14 => { s with links := { l with fenceProto := BitVec.ofNat 16 (vNat v) } }
  | 15 => { s with links := { l with fenceCrc := BitVec.ofNat 32 (vNat v) } }
  | _ => setJobSizes s v

def setPolicyEntry (s : State) (sub : Nat) (v : Bytes) : State :=
  match policyPart sub with
  | none => s
  | some k =>
    if sub < 5 then s.modPolicy k fun p => { p with flushW := BitVec.ofNat 16 (vNat v) }
    else if sub < 9 then s.modPolicy k fun p => { p with checkTolW := BitVec.ofNat 8 (vNat v) }
    else if sub < 14 then s.modPolicy k fun p => { p with escHoldW := BitVec.ofNat 16 (vNat v) }
    else s.modPolicy k fun p => { p with replayLimitW := BitVec.ofNat 8 (vNat v) }

def setPress (s : State) (k : Pt) (sub : Nat) (v : Bytes) : State :=
  match sub with
  | 1 => s.modStep k fun t => { t with serviceW := BitVec.ofNat 8 (vNat v) }
  | 2 => s.modStep k fun t => { t with numberW := some (BitVec.ofNat 64 (vNat v)) }
  | 3 => s.modStep k fun t => { t with normWexp := BitVec.ofNat 16 (vNat v) }
  | 5 => s.modStep k fun t => { t with updateSync := BitVec.ofNat 32 (vNat v) }
  | _ => s.modStep k fun t => { t with seedW := some v }

/-- The step size as the register and the dictionary write it (R358). -/
def setEta (s : State) (k : Pt) (v : W32) : State := s.modStep k fun t => { t with eta := v, etaFresh := true }

/-- A step size that is a NaN, infinite or negative is rejected and logged (R358; the record as notes/assumptions/66.md says). -/
def etaRefused (s : State) (k : Pt) (v : W32) : State := notePart s k 0x36 0xFF 0 v.toNat

/-- The SPDM secure session that carries a source. -/
def secureConn (s : State) (o : OdpSrc) : Option SpdmConn :=
  match o with
  | .mgmtSpdm n => s.spdm.find? fun (c : SpdmConn) => c.conn == n && c.overUdp && c.secure
  | .mctpSpdm n => s.spdm.find? fun (c : SpdmConn) => c.conn == n && !c.overUdp && c.secure
  | _ => none

/-- The key that authenticated the requester of a secure session. -/
def requesterOf (s : State) (o : OdpSrc) : Bytes := match secureConn s o with | some c => c.requester | none => []

/-- The party whose key this is. -/
def partyIndex (man key : Bytes) : Option Nat := if key.isEmpty then none else (List.range (manParties man)).find? fun i => manKey man i == key

/-- A party's key (R518): KIND 2 is the custodian's. The party is the one whose key opened the secure session. It goes on to the devices
that have joined (R519). -/
def deliverKey (s : State) (x : OdpSession) (k : Pt) (v : Bytes) : State × Nat :=
  let man := s.parts[k].session.manifest
  match partyIndex man (requesterOf s x.src) with
  | none => (s, 0x09)
  | some i =>
    if bit s.parts[k].session.delivered i then (s, 0x09)
    else if (byteAt v 0 == 2) != (manRole man i == 3) then (s, 0x08)
    else
      match storeKey s k (BitVec.ofNat 8 i) (v.drop 1) with
      | some s => (s.parts[k].session.peers.foldl (fun s d => sendAnswer s k d) (maybeRun s k), 0)
      | none => (s, 0x09)

/-- An accepted write; the status of the two-party checks and of the checks that the write itself makes. -/
def applyWrite (s : State) (c : WriteCtx) (x : OdpSession) (a : Area) (sub : Nat) (v : Bytes) : State × Nat :=
  let ok := fun (s : State) => (s, 0)
  match a with
  | .ident => ok (setIdent s sub v)
  | .lifeCycle => match c.img with | some i => if i.verifies then ok (storeFirmware s i) else (s, 0x08) | none => (s, 0x08)
  | .power => ok { s with power := setPower s.power sub v }
  | .clocks => ok (setClocks s sub v)
  | .port p => if h : p < 18 then ok (s.modPort ⟨p, h⟩ fun x => { x with l2BufW := BitVec.ofNat 16 (vNat v) }) else ok s
  | .links => ok (setLinks s sub v)
  | .tiers => ok { s with tiers := if sub = 1 then { s.tiers with baseHW := BitVec.ofNat 16 (vNat v) } else { s.tiers with upW := BitVec.ofNat 16 (vNat v) } }
  | .pools => ok (s.modPool (poolAt sub) fun p => { p with written := Vector.ofFn fun h => BitVec.ofNat 16 (numAt v (2 * h.1) 2) })
  | .part n => ok (s.modPolicy n fun p => { p with deadlineW := BitVec.ofNat 8 (vNat v) })
  | .policy => ok (setPolicyEntry s sub v)
  | .press => match x.part with | some k => ok (setPress s k sub v) | none => ok s
  | .stepSize => match x.part with | some k => ok (setEta s k (BitVec.ofNat 32 (vNat v))) | none => ok s
  | .session =>
    match x.part with
    | none => ok s
    | some k =>
      match sub with
      | 3 => ok (s.modSession k fun t => { t with held := v })
      | 7 => deliverKey s x k v
      | _ => ok (s.modSession k fun t => { t with fromEntry := BitVec.ofNat 64 (vNat v) })
  | .keys => ok { s with sc := { s.sc with keys := { s.sc.keys with select := BitVec.ofNat 16 (vNat v) } } }
  | .test =>
    match sub with
    | 1 =>
      let s := { s with test := { s.test with contentOk := c.content.getD s.test.contentOk } }
      let (t, yes) := requestTest s (BitVec.ofNat 16 (numAt v 0 2)) (BitVec.ofNat 2 (byteAt v 2).toNat)
      (t, if yes then 0 else 0x09)
    | 2 => ok (abortTest c.tested s)
    | 8 => ok { s with test := { s.test with suspectAt := BitVec.ofNat 16 (vNat v) } }
    | 10 => ok { s with test := { s.test with spadUeW := BitVec.ofNat 16 (vNat v) } }
    | 11 => ok { s with test := { s.test with stackUeW := BitVec.ofNat 16 (vNat v) } }
    | _ => ok { s with test := { s.test with drainLimit := BitVec.ofNat 16 (vNat v) } }
  | .log =>
    let n := BitVec.ofNat 64 (vNat v)
    match x.part with
    | some k => ok (s.modPart k fun p => { p with log := { p.log with fromRec := n } })
    | none => ok { s with log := { s.log with fromRec := n } }
  | .change =>
    match sub with
    | 1 => stageChange s (if x.party then x.part else none) v
    | 7 => operatorToken s v
    | 8 => sessionApproval s v
    | 9 => medrielmToken s v
    | 10 => abortChange s v
    | _ => ok { s with change := { s.change with timeout := BitVec.ofNat 16 (vNat v) } }
  | .telemetry => ok s

/-- A write that has passed the checks up to the segment check: the rest of R635, and its effect. -/
def writeEntry (s : State) (c : WriteCtx) (x : OdpSession) (a : Area) (sub : Nat) (v : Bytes) : State × Nat :=
  if !entryInRange s a sub v then
    ((match a, x.part with | .stepSize, some k => if s.parts[k].live then etaRefused s k (BitVec.ofNat 32 (vNat v)) else s | _, _ => s), 0x08)
  else if lodestarOnly a sub && !isLodestar s then (s, 0x0A)
  else if refused s c x a sub v then (s, 0x09)
  else applyWrite s c x a sub v

/-! ## Values that wait for a boundary, and the stored values of start-up -/

/-- The device-wide values as last written come into force (R403, R428, R705, R717, R748). -/
def takeWritten (s : State) : State :=
  let p := s.power
  { s with
    power := { p with limit := p.limitW, tjWarn := p.tjWarnW, tjLimit := p.tjLimitW, thbmLimit := p.thbmLimitW, floor := p.floorW },
    tiers := { s.tiers with baseH := s.tiers.baseHW, up := s.tiers.upW },
    pools := vmap s.pools fun x => { x with quota := x.written },
    pins := { s.pins with tickMode := s.pins.tickModeW },
    test := { s.test with spadUe := s.test.spadUeW, stackUe := s.test.stackUeW } }

/-- A stored value replaces a default at stage 4, unless it is out of range (R613). -/
def restoreOne (s : State) (e : BitVec 16 × Byte × Bytes) : State :=
  match areaOf e.1.toNat with
  | none => s
  | some a =>
    let sub := e.2.1.toNat
    if unitAbsent s a || !entryInRange s a sub e.2.2 then s
    else if a = .clocks ∧ sub = 1 then { s with meridian := { s.meridian with periodUs := BitVec.ofNat 8 (vNat e.2.2) } }
    else (applyWrite s {} plainSession a sub e.2.2).1

def restoreStored (s : State) : State :=
  let s := takeWritten (s.sc.flash.saved.foldl restoreOne s)
  { s with
    links := { s.links with deviceId := s.links.deviceIdW, constId := s.links.constIdW, jobUrgent := [] },
    meridian := { s.meridian with slotNs := BitVec.ofNat 32 (s.meridian.periodUs.toNat * 1000 / 64) } }

end Sys2Proof.Machine
end

