-- ==== Sys2Proof/Machine/Boot.lean ====
section
/-! DEFINITION. Reset release and the start-up stages 4 to 8 (spec/12_keys_lifecycle_boot.md R597–R603,
spec/17_module_interface.md R742–R745). -/

namespace Sys2Proof.Machine

open Sys2Proof

/-- Training of one stack (R597 stage 5). A trained stack of VF8-16H8 has its reserved bits set by firmware (R658); one that
fails is fenced, and the failure is recorded (R603). -/
def trainStack (ok : BitVec 8) (s : State) (h : Hb) : State :=
  if !hbPresent s h.1 then s
  else if bit ok h.1 then
    let bits := if s.full then Vector.ofFn fun i => Config.reservedBits s.fresh (54 + 3 * h.1 + i.1) else Vector.replicate 3 0
    ({ s with fresh := s.fresh + 1 }).modStack h fun t => { t with trained := true, reservedBits := bits }
  else noteOp (fenceStack s h 4) 0x4B h.1 0xFFFF 0

/-- The cellar port that carries the CC's firmware (R31): CP0, or CP2 where CP0 does not train. -/
def firmwarePort (trained : BitVec 4) : Option Cp := if bit trained 0 then some 0 else if bit trained 2 then some 2 else none

/-- Cellar bring-up (R549, R597 stage 5); one that fails leaves CP_UP at 0 (R603). -/
def bringUpCellar (b : BringUpIn) (s : State) : State :=
  let fw := firmwarePort b.cpTrained
  if b.cellarOk && fw.isSome then
    let s := (List.range 4).foldl (fun s c => if bit b.cpTrained c then keyLink (keyLink s (18 + c) false 1) (18 + c) true 1 else s) s
    { s with cellar := { s.cellar with firmware := fw, up := true, cpUp := b.cpTrained, attested := b.ccAttested } }
  else noteOp { s with cellar := { s.cellar with firmware := fw, up := false, cpUp := 0, attested := false } } 0x4B 8 0xFFFF 0

def allHbs : List Hb := List.finRange 8

/-- Stages 4 to 8 from reset release. Links train and the tick locks by events of their own, which stage 8 does not wait for
(R599); the stage times are free within their bounds. -/
def bootFromRelease (b : BringUpIn) (s : State) : State :=
  let s := restoreStored (endStage { s with pins := { s.pins with perst := false } } 4 150)
  let s := endStage (bringUpCellar b (allHbs.foldl (trainStack b.stacksTrained) s)) 5 350
  endStage (endStage (endStage s 6 450) 7 460) 8 1000

/-- PERST_N_RELEASE. While PWRGD is deasserted the module behaves as if PERST_N stayed asserted, and the assertion and the
release count for a restart of the rails (R703, R745). While EXTEST is selected the module stays in reset (R752). A release
that breaks the other conditions of R742 has an undefined outcome only for a partition that issued it, and none did (R12): the
bring-up runs (notes/assumptions/155.md, DESIGN CHOICE). In recovery the host port and the dictionary answer as R602
says, and no further stage runs. -/
def execPerstNRelease (b : BringUpIn) (s : State) : Out :=
  if !s.pins.perst || s.pins.extest then .next s
  else if !s.power.pwrgd then .next { s with power := { s.power with perstSeen := s.power.perstSeen || s.power.wantRails } }
  else if s.sc.recovery then .next { s with pins := { s.pins with perst := false } }
  else .next (settled s (bootFromRelease b s))

end Sys2Proof.Machine
end

