-- ==== Sys2Proof/Machine/Power.lean ====
section
/-! DEFINITION. Power, clocks and thermal control (spec/15_power_clocks_thermal.md R684–R707): the input monitor, stretching,
the lost clocks, and the decisions that a tick boundary makes. -/

namespace Sys2Proof.Machine

open Sys2Proof

/-- The rational number that an FP32 reading holds. -/
def reading (w : W32) : Rat := (f32 w).toRat

/-! ## Stretching (R685, R687, R698, R700, R701) -/

/-- The excursion limit of the SKU in watts (R684). -/
def excursionWatts (full : Full) : Nat := if full then 1800 else 1380

/-- INPUT_SAMPLE: one 10 µs average. excess_us counts while it lies above TDP; the limiter stretches from an excursion or 900 µs
of excess until an average at or below TDP. Each interval stretched removes half of its clocks. -/
def execInputSample (_volts _amps watts : W32) (s : State) : Out :=
  let p := s.power
  let w := reading watts
  let tdp : Rat := (tdpWatts s.full).toNat
  let excess := if w > tdp then p.excessUs + 10 else 0
  let on := if w > (excursionWatts s.full : Rat) ∨ 900 ≤ excess then true else if w ≤ tdp then false else p.limiter
  .next { s with power := { p with excessUs := excess, limiter := on,
                                   stretch := satAdd p.stretch (if p.limiter then 5 * p.mhz.toNat else 0) } }

/-- DROOP_STRETCH: every second edge of the compute domain is removed. -/
def execDroopStretch (s : State) : Out := .next { s with power := { s.power with droop := true } }

/-- DROOP_RESTORE: after at least 64 delivered clocks, 16 of them above the threshold. As many edges have been removed as
delivered; those of an interval in which the limiter stretches too are counted there. -/
def execDroopRestore (delivered aboveFor : Nat) (s : State) : Out :=
  let p := s.power
  .next (if !p.droop || decide (delivered < 64) || decide (aboveFor < 16) then s
    else { s with power := { p with droop := false, stretch := satAdd p.stretch (if p.limiter then 0 else delivered) } })

/-! ## Lost clocks (R693) -/

/-- REFCLK_LOST: every link and cellar port goes to DOWN, every data queue halts; only a module reset recovers the device. A
port held by a fence stays FENCED. -/
def execRefclkLost (s : State) : Out :=
  .next (if s.power.refLost || s.pins.perst then s
    else
      let t := noteOp { s with power := { s.power with refLost := true } } 0x48 0xFF 0xFFFF 0
      let t := (allLps.filter fun p => lpPresent s p.1 && s.ports[p].state != .fenced).foldl (fun t p => leavePort t p .down) t
      let t := { t with cellar := { t.cellar with cpUp := 0 } }
      let t := cellarPressLost t
      settled s ((allPts.filter fun k => s.parts[k].live).foldl (fun t k => haltAll t k 0) t))

/-- TIMEREF_LOST at the lodestar; other devices ignore their time inputs (R497). -/
def execTimerefLost (s : State) : Out :=
  .next (if isLodestar s && s.links.timeRef != 0 then
      noteOp { s with links := { s.links with timeRef := 0 } } 0x49 0xFF 0xFFFF 0
    else s)

/-- TIMEREF_RESTORED: 10 s of valid input, with or without the 1 PPS. -/
def execTimerefRestored (pps : Bool) (s : State) : Out :=
  .next (if isLodestar s then { s with links := { s.links with timeRef := if pps then 2 else 1 } } else s)

/-! ## The decisions of a boundary (R695–R699) -/

/-- The clock cap of a throttle step (R697). -/
def capMhz (step : Nat) : Nat :=
  match step with
  | 0 => 2100
  | 1 => 1950
  | 2 => 1800
  | 3 => 1700
  | 4 => 1600
  | _ => 1500

/-- The throttle decision: step, calm count, the causes of R698, and whether the readings are good. -/
structure Throttle where
  step  : Nat
  calm  : Nat
  cause : Nat
  good  : Bool

def decideThrottle (s : State) (b : BoundaryIn) : Throttle :=
  let p := s.power
  let w := reading b.meanWatts
  let limit : Rat := p.limit.toNat
  let hot := reading b.hotDie
  let hbm := reading b.hotHbm
  let pow := decide (w > limit) || decide (reading b.meanAmps > 5 / 4 * limit / 40)
  let therm := decide ((p.tjLimit.toNat : Rat) ≤ hot) || decide ((p.thbmLimit.toNat : Rat) ≤ hbm)
  let step := if pow && decide (w > limit * 11 / 10) then min (p.step.toNat + 2) 7
    else if pow || therm then min (p.step.toNat + 1) 7 else p.step.toNat
  let low := decide (reading b.meanVolts < 40)
  let step := if low then max step 5 else step
  let long := decide (500 ≤ p.excessUs)
  let step := if long then 7 else step
  let none_ := !pow && !therm && !low
  let good := decide (w < limit - 60) && decide (hot < (p.tjWarn.toNat : Rat)) && decide (hbm < (p.thbmLimit.toNat : Rat) - 5)
  let calm := if none_ && good then p.calm + 1 else 0
  let step' := if calm = 8 then step - 1 else step
  { step := max step' p.floor.toNat, calm := if calm = 8 then 0 else calm,
    cause := pow.toNat + 2 * therm.toNat + 4 * low.toNat + 8 * long.toNat + 16 * (decide (step' < p.floor.toNat)).toNat,
    good := none_ && good }

/-- The compute clock (R693, R694, R696, R698, R699): the override first, then the cap; a rise needs the voltage. Without the link
reference, and until the first tick lock, it holds its frequency. -/
def decideMhz (s : State) (b : BoundaryIn) (t : Throttle) : Nat :=
  let f := s.power.mhz.toNat
  let cap := capMhz t.step
  let want := if s.host.fixFreq then min s.host.clkFreq.toNat cap
    else if cap < f then cap
    else if t.good && decide (f < cap) then f + 25
    else f
  if s.power.refLost ∨ s.links.epoch = 0 ∨ (f < want ∧ !b.voutCovers) then f else want

/-- Adaptive voltage scaling (R695, R699): µV of VDD_CD, and ticks in which every margin stayed above 45 ps. The setpoint covers the
frequency one step above the present one, up to 0.90 V. -/
def decideVolts (s : State) (b : BoundaryIn) (mhz : Nat) : Nat × Nat :=
  let p := s.power
  let cover := fun (uv : Nat) => max uv (min 900000 (Config.coverUv (min 2100 (mhz + 25))))
  let calm := if 45 < b.minMarginPs then p.calmAvs + 1 else 0
  if s.host.avsFreeze then (p.vddUv, calm)
  else if b.minMarginPs < 20 then (cover (min 900000 (p.vddUv + 10000)), calm)
  else if 16 ≤ calm then (cover (max 650000 (p.vddUv - 2500)), 0)
  else (cover p.vddUv, calm)

/-- Action 5 of a boundary. -/
def powerDecisions (s : State) (b : BoundaryIn) : State :=
  let s := match s.host.clkNew with
    | some (f, fix, avs) => { s with host := { s.host with clkFreq := f, fixFreq := fix, avsFreeze := avs, clkNew := none } }
    | none => s
  let t := decideThrottle s b
  let mhz := decideMhz s b t
  let (uv, calmAvs) := decideVolts s b mhz
  let p := s.power
  let s' := { s with power := { p with
    step := BitVec.ofNat 3 t.step, cause := BitVec.ofNat 8 t.cause, calm := t.calm, mhz := BitVec.ofNat 16 mhz, vddUv := uv,
    calmAvs := calmAvs, throttled := satAdd p.throttled (if p.step = 0 then 0 else 1) } }
  let s' := if s'.power.step ≠ p.step then raiseGlb s' 4 else s'
  if (p.tjWarn.toNat : Rat) ≤ reading b.hotDie then raiseGlb s' 5 else s'

/-! ## The telemetry of a boundary (R705, R706) -/

/-- A reading as an unsigned or a signed whole number, rounded to nearest even (R123) and held within its range. -/
def wholeU16 (w : W32) : Nat := min 65535 (rne (reading w)).toNat
def wholeI8 (w : W32) : Nat := ofInt 8 (max (-128) (min 127 (rne (reading w))))

/-- One entry of HISTORY, for the tick that has ended: the step and the cause are those decided from it
(notes/assumptions/69.md, DEDUCED). -/
def historyEntry (tick : W64) (mhz : BitVec 16) (s : State) (b : BoundaryIn) : Bytes :=
  let p := s.power
  leBytes 4 tick.toNat ++ leBytes 2 (wholeU16 b.meanWatts) ++ [p.step.setWidth 8, p.cause] ++ leBytes 1 (wholeI8 b.hotDie) ++
  leBytes 1 (wholeI8 b.hotHbm) ++ leBytes 2 mhz.toNat ++ leBytes 2 (min 65535 (p.stretch.toNat - p.stretchTick.toNat)) ++ leBytes 2 0

/-- Action 7 of a boundary: `tick` is the tick that has ended, `mhz` the compute clock in it. The estimate of a confidential
partition is quantised to 8 W (R561). -/
def latchTelemetry (tick : W64) (mhz : BitVec 16) (b : BoundaryIn) (s : State) : State :=
  let p := s.power
  let hit := (if p.cause &&& 0x0D != 0 then 1 else 0) + (if bit p.cause 1 then 2 else 0)
  let h := historyEntry tick mhz s b
  let watts := fun (k : Fin 4) =>
    let w := b.partWatts[k]
    let q := s.parts[k]
    { q with powerW := if !q.live then 0 else if q.conf then BitVec.ofNat 16 (w.toNat / 8 * 8) else w }
  { s with
    power := { p with
      inputV := b.meanVolts, inputA := b.meanAmps, inputW := b.meanWatts, tjMax := b.hotDie, thbmMax := b.hotHbm, sampleTick := tick,
      limitHit := BitVec.ofNat 8 hit, history := (p.history ++ [h]).drop (p.history.length + 1 - 4096), stretchTick := p.stretch,
      lugShare := b.lugShare, railStatus := slice b.railStatus 0 16 },
    parts := Vector.ofFn watts,
    ports := Vector.ofFn fun p => { s.ports[p] with preFec := b.preFec[p] },
    meridian := { s.meridian with clocksLast := b.clocks } }

end Sys2Proof.Machine
end

