-- ==== Sys2Proof/Machine/Teardown.lean ====
section
/-! DEFINITION. Flushing a queue, and the destruction of a partition (spec/14_host_registers.md R673, R679). -/

namespace Sys2Proof.Machine

open Sys2Proof

/-! ## Flushing (R673) -/

def Entry.zero : Entry := ⟨0, 0, 0, 0, 0, 0, 0, 0⟩

/-- Entries of the ring that the queue has not fetched. -/
def Queue.waiting (u : Queue) : Nat := (u.tail.toNat + u.size - u.head.toNat) % u.size

/-- Every unfetched entry completes with the flushed status, as far as completion entries can be reserved; an entry that the
sender does not give reads as zeros (notes/assumptions/4.md). -/
def flushRing (q : QRef) : (fuel : Nat) → List Entry → State → State
  | 0, _, s => s
  | fuel + 1, es, s =>
    let u := s.queue q
    if u.head == u.tail || !decide (u.taken + 1 < u.size) then s
    else
      let p : Pending := { id := s.nextId, q := q, e := es.headD Entry.zero, items := [], wait := .head }
      flushRing q fuel es.tail (endCmd { fetchEntry s q with nextId := s.nextId + 1 } p 0x29 0 0 0)

/-- The command is in no cluster's stream any more. -/
def dropJobs (s : State) (id : Nat) : State :=
  { s with clusters := vmap s.clusters fun c => { c with jobs := c.jobs.filter fun b => b.id != id } }

/-- Was the command started on some cluster? -/
def startedAnywhere (s : State) (id : Nat) : Bool := s.clusters.toList.any fun c => c.jobs.any fun b => b.id == id && b.started

/-- A command of the queue that the halt holds: in the streams and started on no cluster, or not yet issued (R763). -/
def heldByHalt (s : State) (p : Pending) : Bool :=
  match p.wait with
  | .head => true
  | .stream _ => !startedAnywhere s p.id
  | .move => (s.clusters.toList.any fun c => c.jobs.any fun b => b.id == p.id && b.held)
  | _ => false

/-- The halt of a data queue ends: its held commands may start. -/
def releaseHeld (s : State) (k : Pt) (j : Fin 16) : State :=
  let s := s.modQueue (.data k j) fun u => { u with halted := false }
  { s with clusters := vmap s.clusters fun c =>
      { c with jobs := c.jobs.map fun b => if b.part = k ∧ b.qj = j then { b with held := false } else b } }

/-- RESUME. -/
def resumeQueue (s : State) (k : Pt) (j : Fin 16) : State := pumpAll (retryHeads (releaseHeld s k j) k)

/-- FLUSH. -/
def flushQueue (s : State) (k : Pt) (j : Fin 16) (es : List Entry) : State :=
  let mine := (s.inflightOf (.data k j)).filter (heldByHalt s)
  let s := mine.foldl (fun s p => endPending (dropJobs s p.id) p 0x29 0 0 0) s
  let s := flushRing (.data k j) (s.queue (.data k j)).waiting es s
  pumpAll (releaseHeld s k j)

/-! ## PART_CREATE (R678) -/

/-- PART_CREATE. A staged change that names the new partition is stale (R647), and start-up has reached stage 9 (R597). -/
def execPartCreate (e : Entry) (record : Bytes) (s : State) : Out :=
  .next (raiseChanges s (takeCmd s .admin e 0x01 { w2 := 2 ^ 64 - 1 } fun s p =>
    let k := recPt record
    let t := createPartition record s p
    if s.parts[k].live || !t.parts[k].live then t
    else
      let t := staleChange t k
      { t with sc := { t.sc with stage := 9 } }))

/-! ## The destruction of a partition (R679) -/

/-- The queues of a partition. -/
def queuesOf (s : State) (k : Pt) : List QRef :=
  .ctrl k :: ((List.finRange 16).filter fun j => decide (j.1 < s.parts[k].dataQueues.toNat)).map fun j => .data k j

/-- Completions and interrupts that a confidential partition holds for a boundary reach the host (R559). -/
def releaseToHost (s : State) (k : Pt) : State :=
  let held := s.parts[k].held
  let msgs := s.parts[k].heldMsix
  let s := s.modPart k fun p => { p with held := [], heldMsix := [] }
  let s := held.foldl (fun s x => writeCompletion s x.1 x.2) s
  let more := s.parts[k].heldMsix
  let s := s.modPart k fun p => { p with heldMsix := [] }
  (msgs ++ more.filter fun m => !msgs.contains m).foldl (fun s m => msixSend s (if m.1 then vfOf k else 0) m.2) s

/-- Step 3: every command still pending completes with the flushed status, and the queues are disabled. -/
def flushPartition (s : State) (k : Pt) (rings : List (QRef × Entry)) : State :=
  let s := s.parts[k].inflight.foldl (fun s p => endPending s p 0x29 0 0 0) s
  let s := (queuesOf s k).foldl (fun s q =>
    let u := s.queue q
    if u.enable then flushRing q u.waiting ((rings.filter fun x => x.1 == q).map (·.2)) s else s) s
  releaseToHost s k

/-- Step 4: setup objects, sequence contexts, press slots and memory objects are released. -/
def releaseUnits (s : State) (k : Pt) : State :=
  let p := s.parts[k]
  let s := p.mem.foldl releaseRegions s
  let zero : SeqCtx := { bytes := List.replicate 32 0, next := none }
  let clear := fun (i : Fin 64) => if bit p.seqContexts i.1 then zero else s.seqs[i]
  { s with
    seqs := Vector.ofFn clear,
    presses := vmap s.presses fun x => { x with slots := vmod x.slots k fun _ => { active := none, pending := none } },
    cellar := { s.cellar with notices := s.cellar.notices.filter fun n => n.part != k, batch := s.cellar.batch.map fun b => b.filter fun n => n.part != k } }

/-- Step 6: the clusters and grant units return to the free pool, the vector and mask registers of the clusters are 0 (R237), and the partition's entries to their defaults. The generations of its
indices go on, and the TDISP assignment of its function is the host's. -/
def freePartition (s : State) (k : Pt) : State :=
  let leave := fun (c : Cluster) =>
    { c with part := none, ve := { c.ve with regs := { c.ve.regs with v := [], m := Vector.replicate 8 0 } } }
  let s := { s with clusters := vmap s.clusters fun c => if c.part = some k then leave c else c, noc := freeUnits s.noc k }
  s.modPart k fun p =>
    { Partition.reset with
      gens := p.objs.foldl (fun g o => Sparse.set (0 : BitVec 10) g (genKey o.typ.toNat o.idx.toNat) (o.gen + 1)) p.gens,
      vfAssigned := p.vfAssigned }

/-- The steps of R679 after the first. -/
def destroyPartition (s : State) (k : Pt) (rings : List (QRef × Entry)) : State :=
  let s := flushPartition (stopWork s k) k rings
  let s := killSlots (releaseUnits s k) k
  let s := staleChange s k
  let s := freePartition s k
  let gone := fun (p : Pending) => if p.wait = .partDestroy k then { p with wait := .partGone } else p
  { s with host := { s.host with inflight := s.host.inflight.map gone } }

/-- PART_DESTROY_COMPLETE: once no queue fetches and no update phase runs; PART_DESTROY completes at the next boundary. -/
def execPartDestroyComplete (k : Pt) (rings : List (QRef × Entry)) (s : State) : Out :=
  .next (match s.parts[k].destroying with
    | some (true, _) => if inUpdate s.parts[k] then s else settled s (destroyPartition s k rings)
    | _ => s)

end Sys2Proof.Machine
end

