-- ==== Sys2Proof/Machine/Regs.lean ====
section
/-! DEFINITION. Host registers, doorbells, the sync-object window and the MSI-X tables (spec/14_host_registers.md R651–R674,
R681–R683, spec/08_press.md R379–R381, spec/09_memory_tiers.md R424–R427, spec/10_constellation_links.md R484, R490, R499,
spec/12_keys_lifecycle_boot.md R604). -/

namespace Sys2Proof.Machine

open Sys2Proof

/-! ## Where an access goes (R651–R654, R672) -/

/-- A register block (R652). -/
inductive Block where
  | glob
  | tc (c : Tc)
  | lp (p : Lp)
  | mc (h : Hb)
  | ps (h : Hb)
  | pt (k : Pt)
deriving DecidableEq, Repr

/-- The place of an access: a register of a block in one of its views, a doorbell, an object of the sync window, the security
status block, an MSI-X table entry, the pending bits, the function mask of the configuration space, or nothing. -/
inductive Place where
  | reg (b : Block) (view : Fin 4) (r : Nat)
  | bell (q : QRef) (o : Nat)
  | noBell
  | sync (o : Nat)
  | sec (r : Nat)
  | msix (v o : Nat)
  | pba (o : Nat)
  | fnMask
  | none_
deriving DecidableEq, Repr

/-- Block number i of a run of blocks of 256 KiB, at an offset in the run. -/
def inBlock (b : Block) (off : Nat) : Place := .reg b ⟨off / 0x10000 % 4, Nat.mod_lt _ (by decide)⟩ (off % 0x10000)

/-- The PF control BAR (R652). -/
def pfControl (off : Nat) : Place :=
  let n := off % 0x1000000 / 0x40000
  match off / 0x1000000 with
  | 0 => if n = 0 then inBlock .glob off else .none_
  | 1 => if h : n < 16 then inBlock (.tc ⟨n, h⟩) off else .none_
  | 2 => if h : n < 18 then inBlock (.lp ⟨n, h⟩) off else .none_
  | 3 => if h : n < 8 then inBlock (.mc ⟨n, h⟩) off else if h : n - 8 < 8 then inBlock (.ps ⟨n - 8, h⟩) off else .none_
  | 4 => if h : n < 4 then inBlock (.pt ⟨n, h⟩) off else .none_
  | 5 => if off % 0x1000000 < 0x20000 then .sync (off % 0x1000000) else .none_
  | 6 => if off % 0x1000000 < 0x10000 then .sec (off % 0x1000000) else .none_
  | 7 => let o := off % 0x1000000
         if o < 0x8000 then .msix (o / 16) (o % 16) else if o < 0x8100 then .pba (o - 0x8000) else .none_
  | _ => .none_

/-- The data queue with a device number (R59, R672). -/
def queueOfNumber (s : State) (n : Nat) : Option QRef :=
  (allPts.find? fun k => s.parts[k].live && decide (s.parts[k].dqBase.toNat ≤ n) && decide (n < s.parts[k].dqBase.toNat + s.parts[k].dataQueues.toNat)).bind fun k =>
    let j := n - s.parts[k].dqBase.toNat
    if h : j < 16 then some (.data k ⟨j, h⟩) else none

/-- A doorbell page (R672). -/
def bellPage (s : State) (fn : Fin 5) (page o : Nat) : Place :=
  match ptOfFn fn with
  | none =>
    if page < 64 then (match queueOfNumber s page with | some q => .bell q o | none => .noBell)
    else if h : page - 64 < 4 then .bell (.ctrl ⟨page - 64, h⟩) o
    else if page = 68 then .bell .admin o
    else .noBell
  | some k =>
    if page = 0 then .bell (.ctrl k) o
    else if h : page - 1 < 16 then .bell (.data k ⟨page - 1, h⟩) o
    else if page = 24 then (if o < 512 then .msix (o / 16) (o % 16) else .none_)
    else if page = 28 then .pba o
    else .noBell

/-- Where an access goes. BAR 6 stands for the function's configuration space, of which the module's state is the function mask
of its MSI-X capability (notes/assumptions/70.md, DESIGN CHOICE). -/
def placeOf (s : State) (fn : Fin 5) (bar off : Nat) : Place :=
  match bar with
  | 0 => match ptOfFn fn with
    | none => pfControl off
    | some k => if off < 0x40000 then inBlock (.pt k) off else .none_
  | 2 => if off < (if fn.1 = 0 then 0x1000000 else 0x20000) then bellPage s fn (off / 4096) (off % 4096) else .none_
  | 6 => .fnMask
  | _ => .none_

/-- The host reaches the BARs once stage 8 has ended, and never in recovery (R599, R602). -/
def hostUp (s : State) : Bool := !s.pins.perst && decide (8 ≤ s.sc.stage.toNat) && !s.sc.recovery

/-- A naturally aligned access of 4 or 8 bytes (R653). -/
def accessOk (off len : Nat) : Bool := (len == 4 || len == 8) && off % len == 0

/-- A dropped access is recorded (R653). -/
def badAccess (s : State) (fn : Fin 5) (off : Nat) : State := noteOp s 0x45 0xFF fn.1 off

/-! ## Blocks -/

/-- Is the block's unit on the SKU, and does its partition exist (R7, R766)? -/
def blockThere (s : State) : Block → Bool
  | .glob => true
  | .tc c => tcPresent s c.1
  | .lp p => lpPresent s p.1
  | .mc h | .ps h => hbPresent s h.1
  | .pt k => s.parts[k].live

/-- May a function reach the block: of a confidential partition, the VF once it is assigned under TDISP (R664)? -/
def reaches (s : State) (fn : Fin 5) (b : Block) : Bool :=
  match b with
  | .pt k => !s.parts[k].conf || (fn.1 != 0 && s.parts[k].vfAssigned)
  | _ => true

/-- Kind and number of a block in a GUARD_REFUSED record (R712). -/
def blockCode : Block → Nat × Nat
  | .glob => (0, 0)
  | .tc c => (1, c.1)
  | .lp p => (2, p.1)
  | .mc h => (3, h.1)
  | .ps h => (4, h.1)
  | .pt k => (5, k.1)

/-- The guarded registers (R659). -/
def guarded (b : Block) (r : Nat) : Bool :=
  match b with
  | .glob => r == 0x100 || r == 0x108
  | .tc _ | .lp _ => r == 0x8 || r == 0x10
  | .mc _ | .ps _ => r == 0x10
  | .pt _ => false

def unlockedOf (s : State) : Block → Bool
  | .glob => s.host.unlocked
  | .tc c => s.clusters[c].unlocked
  | .lp p => s.ports[p].unlocked
  | .mc h => s.hbs[h].unlocked
  | .ps h => s.presses[hbBank h].unlocked
  | .pt k => bit s.host.partLocks k.1

def setUnlocked (s : State) (b : Block) (u : Bool) : State :=
  match b with
  | .glob => { s with host := { s.host with unlocked := u } }
  | .tc c => s.modCluster c fun x => { x with unlocked := u }
  | .lp p => s.modPort p fun x => { x with unlocked := u }
  | .mc h => s.modStack h fun x => { x with unlocked := u }
  | .ps h => s.modPress (hbBank h) fun x => { x with unlocked := u }
  | .pt k => { s with host := { s.host with partLocks := setBit s.host.partLocks k.1 u } }

/-- The queue of a partition block at an offset, and its register (R667, R670). -/
def queueReg (s : State) (k : Pt) (r : Nat) : Option (QRef × Nat) :=
  if r < 0x1000 ∨ 0x1440 ≤ r ∨ 0x20 ≤ (r - 0x1000) % 0x40 then none
  else
    let j := (r - 0x1000) / 0x40
    if j = 0 then some (.ctrl k, (r - 0x1000) % 0x40)
    else if h : j - 1 < 16 then (if j - 1 < s.parts[k].dataQueues.toNat then some (.data k ⟨j - 1, h⟩, (r - 0x1000) % 0x40) else none)
    else none

/-! ## What a register reads as -/

/-- A word with value v at bit position p. -/
def place64 (p v : Nat) : Nat := v * 2 ^ p

def readQueue (u : Queue) (r : Nat) : Nat :=
  match r with
  | 0x00 => u.base.toNat / 4096 * 4096
  | 0x08 => u.cbase.toNat / 4096 * 4096
  | 0x10 => place64 63 u.enable.toNat + place64 40 u.log2.toNat + place64 16 u.vector.toNat
  | 0x18 => place64 63 u.halted.toNat + place64 62 u.cqFull.toNat + place64 48 u.lastSt.toNat + place64 32 u.cqTail.toNat +
      place64 16 u.tail.toNat + u.head.toNat
  | _ => 0

/-- GLB_CLK_OVERRIDE as last written. -/
def clkWord (s : State) : Nat :=
  let (f, fix, avs) := s.host.clkNew.getD (s.host.clkFreq, s.host.fixFreq, s.host.avsFreeze)
  place64 32 f.toNat + place64 1 fix.toNat + avs.toNat

def readGlob (s : State) (r : Nat) : Nat :=
  match r with
  | 0x0000 => place64 56 (if s.full then 1 else 2) + place64 48 (hbMaskOf s).toNat + place64 32 (tcMask s).toNat + (lpMask s).toNat
  | 0x0008 => s.meridian.tick.toNat
  | 0x0010 => s.host.event.toNat
  | 0x0018 => s.host.eventEn.toNat
  | 0x0100 => clkWord s
  | 0x0108 => place64 62 (s.test.state == 1 || s.test.state == 2 || s.test.state == 3).toNat + place64 32 s.host.scanLd.toNat + s.host.scanTc.toNat
  | _ => if 0x1000 ≤ r ∧ r < 0x1020 then readQueue s.host.admin (r - 0x1000) else 0

/-- Bits 2:0 of TC_STATUS read 0 through the PF for a cluster of a confidential partition (R666). -/
def readCluster (s : State) (c : Tc) (r : Nat) : Nat :=
  let t := s.clusters[c]
  match r with
  | 0x00 =>
    let conf := match t.part with | some k => s.parts[k].conf | none => false
    let busy := if conf then 0
      else 4 * t.ve.run.isSome.toNat + 2 * (!t.meQueue.isEmpty).toNat + (t.jobs.any fun b => b.kind == .run && b.started && !b.ended).toNat
    place64 32 (match t.part with | some k => k.1 | none => 7) + 8 * t.fenced.toNat + busy
  | 0x08 => t.fenced.toNat
  | 0x10 => t.frozen.toNat
  | _ => 0

def widthCode (w : BitVec 4) : Nat := match w.toNat with | 2 => 1 | 4 => 2 | 8 => 3 | _ => 0

/-- The reserved bits of the link-port and memory-controller registers (R658), and the word of `reservedBits` that holds them. -/
def reservedOf (b : Block) (r : Nat) : Option (Fin 3 × Nat) :=
  match b with
  | .lp _ => (match r with
    | 0x00 => some (0, place64 39 0x1FF + place64 8 0xFFFF)
    | 0x08 => some (1, place64 16 0xFFFFFFFFFFFF + place64 5 7)
    | 0x10 => some (2, 0xFFFFFFFFFFFFFFFE)
    | _ => none)
  | .mc _ => (match r with
    | 0x00 => some (0, place64 35 0x1FFF + place64 3 0x1FFFFFFF)
    | 0x10 => some (1, 0xFFFFFFFFFFFFFFF0)
    | 0x18 => some (2, place64 44 0x7FFFF)
    | _ => none)
  | _ => none

def reservedWords (s : State) : Block → Vector W64 3
  | .lp p => s.ports[p].reservedBits
  | .mc h => s.hbs[h].reservedBits
  | _ => Vector.replicate 3 0

/-- The recorded line belongs to a confidential partition (R427). -/
def poisonHidden (s : State) (h : Hb) (loc : BitVec 44) : Bool :=
  match bankOwner s (hbBank h) (loc.toNat % 2 ^ 36) with
  | some k => s.parts[k].conf
  | none => false

/-- Does MC_POISON_ADDR name a line that is hidden, so that all of it reads 0? -/
def addrHidden (s : State) (b : Block) (r : Nat) : Bool :=
  match b with
  | .mc h => r == 0x18 && s.hbs[h].poisonAddr.any (poisonHidden s h)
  | _ => false

/-- What the reserved bits of a register read as. -/
def readReserved (s : State) (b : Block) (r : Nat) : Nat :=
  match reservedOf b r with
  | some (i, m) => if addrHidden s b r then 0 else ((reservedWords s b)[i].toNat &&& m)
  | none => 0

def readLpReg (s : State) (p : Lp) (r : Nat) : Nat :=
  let x := s.ports[p]
  match r with
  | 0x00 => place64 48 x.peerId.toNat + place64 36 x.state.code + place64 34 (widthCode x.width) + place64 33 x.treeParent.toNat +
      place64 32 x.treeChild.toNat + place64 24 (x.lanesFenced ||| x.opLanes).toNat + x.shake.refuse.toNat
  | 0x08 => place64 8 x.opLanes.toNat + place64 2 x.fenceCause.toNat + x.fence.toNat
  | 0x10 => x.eqFreeze.toNat
  | 0x18 => place64 48 x.tagFails.toNat + place64 32 x.protoStr.toNat + x.crcRes.toNat
  | _ => 0

def readStack (s : State) (h : Hb) (r : Nat) : Nat :=
  let x := s.hbs[h]
  match r with
  | 0x00 => place64 48 (22888 - stackUsed s h) + place64 32 x.scrub.level.toNat + 4 * x.trained.toNat + 2 * x.fenced.toNat +
      x.poisonSeen.toNat
  | 0x08 => place64 32 x.ue.toNat + x.ce.toNat
  | 0x10 => 8 * x.scrub.freeze.toNat + x.scrub.levelSet.toNat
  | 0x18 => (match x.poisonAddr with
    | some a => if poisonHidden s h a then 0 else place64 63 1 + a.toNat
    | none => 0)
  | _ => 0

/-- STATE of PRS_STATUS (R379). -/
def pressCode (s : State) (p : Ps) : Nat :=
  let x := s.presses[p]
  if x.fenced then 6
  else if x.faulted then 5
  else match x.run with
    | some r => (match r.pass with | 1 => 1 | 2 => 3 | _ => 4)
    | none => if allPts.any fun k => x.slots[k].active.isSome && (s.parts[k].step.phase == .norm || s.parts[k].step.phase == .normHere) then 2 else 0

def readPsReg (s : State) (h : Hb) (r : Nat) : Nat :=
  let p := hbBank h
  let x := s.presses[p]
  let hide := (pressServes s p).any fun k => s.parts[k].conf
  let code := pressCode s p
  match r with
  | 0x00 =>
    if hide then place64 6 (x.byCellar != 0).toNat + (if code = 5 ∨ code = 6 then code else 0)
    else place64 32 x.stepLow.toNat + place64 6 (x.byCellar != 0).toNat + place64 4 x.lastPart.toNat + code
  | 0x08 => if hide then 0 else place64 63 x.progValid.toNat + place64 48 x.progRegion.toNat + x.progGrain.toNat
  | 0x10 => 2 * x.faulted.toNat + ((x.fenced && !x.unfence) || x.fenceReq).toNat
  | _ => 0

def readPartBlock (s : State) (fn : Fin 5) (k : Pt) (r : Nat) : Nat :=
  let p := s.parts[k]
  let shown := place64 52 p.dqBase.toNat + place64 46 p.vfAssigned.toNat + place64 44 p.state.toNat
  if !reaches s fn (.pt k) then (if r = 0 then shown else 0)
  else match r with
    | 0x000 => shown + place64 47 p.dataQueues.toNat + place64 16 (haltedMask p).toNat + p.clusters.toNat
    | 0x008 => p.event.toNat
    | 0x010 => place64 63 p.evEnable.toNat + p.evVector.toNat
    | 0x020 => p.syncOvf.toNat
    | 0x100 => p.step.eta.toNat
    | 0x108 => p.step.etaLatched.toNat
    | 0x200 => p.relBase.toNat / 4096 * 4096
    | 0x208 => place64 63 p.relEnable.toNat + p.relLog2.toNat
    | 0x210 => p.relHead.toNat
    | 0x218 => p.relTail.toNat
    | _ => match queueReg s k r with
      | some (q, o) => readQueue (s.queue q) o
      | none => 0

/-- The 64-bit register at r, a multiple of 8. LOCK_KEY is the PF's alone (R663). -/
def readReg (s : State) (fn : Fin 5) (b : Block) (r : Nat) : W64 :=
  if !blockThere s b then 0
  else if r = 0xFFF8 then (if fn.1 = 0 ∧ reaches s fn b then BitVec.ofNat 64 (place64 32 (unlockedOf s b).toNat) else 0)
  else BitVec.ofNat 64 (readReserved s b r + match b with
    | .glob => readGlob s r
    | .tc c => readCluster s c r
    | .lp p => readLpReg s p r
    | .mc h => readStack s h r
    | .ps h => readPsReg s h r
    | .pt k => readPartBlock s fn k r)

/-- Debug access is open (R585, R604). -/
def debugOpen (s : State) : Bool :=
  [0, 2, 6].contains s.sc.lc.toNat || ([3, 4].contains s.sc.lc.toNat && s.parts.toList.any fun p => p.live && p.debug)

/-- SEC_STATUS (R604). -/
def secStatus (s : State) : Nat :=
  place64 48 s.sc.stage.toNat + place64 40 s.sc.lc.toNat + place64 32 s.sc.lcPending.toNat + place64 7 s.sc.recovery.toNat +
  place64 6 s.sc.dfwCopyB.toNat + place64 5 s.sc.sfwCopyB.toNat + place64 3 s.sc.esState.toNat + place64 2 (debugOpen s).toNat +
  place64 1 (s.links.locked && s.sc.lc == 5 && s.sc.esState != 2).toNat + s.links.locked.toNat

/-- The words of an MSI-X table entry: address, then data and vector control. -/
def readMsix (s : State) (fn : Fin 5) (v o : Nat) : Nat :=
  let x := msixGet s fn v
  if o < 8 then x.addr.toNat else x.data.toNat + place64 32 x.mask.toNat

/-- The word that a place reads as, the access aligned down to 8 bytes. -/
def readPlace (s : State) (fn : Fin 5) : Place → W64
  | .reg b _ r => readReg s fn b (r / 8 * 8)
  | .sync o => if syncClosed s (o / 8) then 0 else (syncGet s (o / 8)).setWidth 64
  | .sec r => if r / 8 = 0 then BitVec.ofNat 64 (secStatus s) else 0
  | .msix v o => BitVec.ofNat 64 (readMsix s fn v o)
  | .pba o => maskOf 64 fun i => (msixGet s fn (o / 8 * 64 + i)).pending
  | .fnMask => BitVec.ofNat 64 (bit s.host.fnMask fn.1).toNat
  | .bell .. | .noBell | .none_ => 0

/-! ## Writes to registers -/

/-- A write as it reaches a register: view, data and the bits that its lanes carry, and what the device sets in that clock. -/
structure RegWrite where
  view : Fin 4
  d    : W64
  m    : W64
  hw   : W64

/-- The RW bits `rw` of a register after a write (R655, R657). -/
def RegWrite.rw (w : RegWrite) (old rw : W64) : W64 :=
  let m := w.m &&& rw
  let v := match w.view.1 with
    | 0 => (old &&& ~~~m) ||| (w.d &&& m)
    | 1 => old ||| (w.d &&& m)
    | 2 => old &&& ~~~(w.d &&& m)
    | _ => old ^^^ (w.d &&& m)
  (v &&& rw) ||| (w.hw &&& rw)

/-- The bits written 1 to W1C and WO fields, which the aliases do not reach. -/
def RegWrite.ones (w : RegWrite) : W64 := if w.view = 0 then w.d &&& w.m else 0

/-- A W1C field after a write: what the device sets in the same clock stays set (R17). -/
def RegWrite.w1c (w : RegWrite) {n : Nat} (old : BitVec n) : BitVec n := (old &&& ~~~(w.ones.setWidth n)) ||| w.hw.setWidth n

/-- GLB_EVENT (R683). -/
def writeEvent (s : State) (w : RegWrite) : State :=
  let s := { s with host := { s.host with event := s.host.event &&& ~~~(w.ones.setWidth 10) ||| (s.host.event &&& w.hw.setWidth 10) } }
  (bitList (w.hw.setWidth 10)).foldl raiseGlb s

/-- GLB_CLK_OVERRIDE (R665). -/
def writeClk (s : State) (w : RegWrite) : State :=
  let v := w.rw (BitVec.ofNat 64 (clkWord s)) (BitVec.ofNat 64 (place64 32 0xFFF + 3))
  let f := fld v 43 32
  if anyConf s || decide (f < 1500) || decide (2100 < f) || f % 25 != 0 then s
  else { s with host := { s.host with clkNew := some (BitVec.ofNat 12 f, bit v 1, bit v 0) } }

/-- GLB_SCAN_CTRL: the targets, and with START a request, which is ignored unless TEST_STATE is 0 (R723, R724). -/
def writeScan (s : State) (w : RegWrite) : State :=
  let v := w.rw (BitVec.ofNat 64 (place64 32 s.host.scanLd.toNat + s.host.scanTc.toNat)) (BitVec.ofNat 64 (place64 32 3 + 0xFFFF))
  let s := { s with host := { s.host with scanTc := v.setWidth 16, scanLd := BitVec.ofNat 2 (fld v 33 32) } }
  if bit w.ones 63 && s.test.state == 0 then (requestTest s s.host.scanTc s.host.scanLd).1 else s

/-- QBASE, QCBASE and QCFG of a queue (R670, R671). -/
def writeQueue (s : State) (fn : Fin 5) (q : QRef) (r : Nat) (w : RegWrite) : State :=
  let u := s.queue q
  let old := BitVec.ofNat 64 (readQueue u r)
  let addr : W64 := BitVec.ofNat 64 (2 ^ 64 - 4096)
  match r with
  | 0x00 => if u.enable then s else s.modQueue q fun u => { u with base := w.rw old addr }
  | 0x08 => if u.enable then s else s.modQueue q fun u => { u with cbase := w.rw old addr }
  | 0x10 =>
    let v := w.rw old (BitVec.ofNat 64 (place64 63 1 + place64 40 0x1F + place64 16 0x7FF))
    let vec := fld v 26 16
    let log2 := fld v 44 40
    let on := bit v 63
    if (if fn.1 = 0 then 2032 else 32) ≤ vec ∨ log2 < 4 ∨ 16 < log2 then s
    else s.modQueue q fun u =>
      let u := { u with vector := BitVec.ofNat 11 vec, vf := fn.1 != 0, log2 := if u.enable then u.log2 else BitVec.ofNat 5 log2 }
      if on && !u.enable then { u with enable := true, head := 0, tail := 0, cqTail := 0, cqHead := 0, phase := true }
      else { u with enable := on }
  | _ => s

def writeGlob (s : State) (r : Nat) (w : RegWrite) : State :=
  match r with
  | 0x0010 => writeEvent s w
  | 0x0018 => { s with host := { s.host with eventEn := (w.rw (s.host.eventEn.setWidth 64) 0x3FF).setWidth 10 } }
  | 0x0100 => writeClk s w
  | 0x0108 => writeScan s w
  | _ => if 0x1000 ≤ r ∧ r < 0x1020 then writeQueue s 0 .admin (r - 0x1000) w else s

/-- TC_FENCE and EST_FREEZE (R96, R177, R728). -/
def writeCluster (s : State) (c : Tc) (r : Nat) (w : RegWrite) : State :=
  let t := s.clusters[c]
  match r with
  | 0x08 =>
    if s.test.state == 3 && bit s.test.tcTarget c.1 then s
    else if bit (w.rw (BitVec.ofNat 64 t.fenced.toNat) 1) 0 then fenceCluster s c (if bit w.hw 0 then 2 else 1)
    else unfenceCluster s c
  | 0x10 =>
    if (match t.part with | some k => s.parts[k].conf | none => false) then s
    else s.modCluster c fun t => { t with frozen := bit (w.rw (BitVec.ofNat 64 t.frozen.toNat) 1) 0 }
  | _ => s

/-- Does a slot of the port have a code of a confidential partition (R490)? -/
def portConf (s : State) (p : Lp) : Bool := allPts.any fun k => s.parts[k].conf && hasCode s.ports[p].slotMap k

/-- LP_FENCE and LP_EQ_CTRL (R484, R488, R490, R499). -/
def writePort (s : State) (p : Lp) (r : Nat) (w : RegWrite) : State :=
  let x := s.ports[p]
  match r with
  | 0x08 =>
    let v := w.rw (BitVec.ofNat 64 (place64 8 x.opLanes.toNat + x.fence.toNat)) (BitVec.ofNat 64 (place64 8 0xFF + 1))
    let lanes : Byte := BitVec.ofNat 8 (fld v 15 8)
    let s := if lanes = x.opLanes then s
      else noteFence (s.modPort p fun x => { x with opLanes := lanes, widthDue := true }) 3 p.1 1 ((lanes &&& ~~~x.opLanes) != 0) (portServes s p)
    if bit v 0 then fencePort s p (if bit w.hw 0 then (if fenceDue s p = 0 then 2 else fenceDue s p) else 1) (if bit w.hw 0 then 5 else 1)
    else
      let s := unfencePort s p
      if bit w.ones 1 then leavePort s p .down else s
  | 0x10 => if portConf s p then s else s.modPort p fun x => { x with eqFreeze := bit (w.rw (BitVec.ofNat 64 x.eqFreeze.toNat) 1) 0 }
  | _ => s

/-- Is a stack one of a confidential partition? -/
def stackConf (s : State) (h : Hb) : Bool := allPts.any fun k => s.parts[k].conf && bit s.parts[k].hbMask h.1

/-- What a write makes of MC_SCRUB; none where it is ignored: for a stack of a confidential partition (R424), and for level 7, which is none. -/
def scrubWrite (s : State) (h : Hb) (w : RegWrite) : Option W64 :=
  let x := s.hbs[h].scrub
  let v := w.rw (BitVec.ofNat 64 (8 * x.freeze.toNat + x.levelSet.toNat)) 0xF
  if fld v 2 0 = 7 ∨ stackConf s h then none else some v

/-- MC_STATUS and MC_SCRUB (R424, R426). LEVEL_SET 7 is outside its range, and the write is ignored (notes/assumptions/71.md,
DESIGN CHOICE). -/
def writeStack (s : State) (h : Hb) (r : Nat) (w : RegWrite) : State :=
  match r with
  | 0x00 => s.modStack h fun x => { x with poisonSeen := bit (w.w1c (BitVec.ofNat 1 x.poisonSeen.toNat)) 0 }
  | 0x10 =>
    match scrubWrite s h w with
    | none => s
    | some v =>
      let level := BitVec.ofNat 3 (fld v 2 0)
      s.modStack h fun x => { x with scrub := { x.scrub with freeze := bit v 3, levelSet := level, level := if bit v 3 then level else x.scrub.level } }
  | _ => s

/-- Does an update phase run on the images of a press? -/
def pressInUpdate (s : State) (p : Ps) : Bool := allPts.any fun k => s.presses[p].slots[k].active.isSome && inUpdate s.parts[k]

/-- The fence of a press is cleared (R96, R377). -/
def unfencePress (s : State) (p : Ps) : State :=
  if !s.presses[p].fenced then s
  else noteFence (s.modPress p fun x => { x with fenced := false, unfence := false, tookOver := if x.faulted then x.tookOver else 0 }) 2 p.1 0 false (pressServes s p)

/-- PRS_FENCE: a fence takes effect at the next grain boundary, in pass 1, which writes no grain, at once, its clearing outside an update phase, and FAULT_CLEAR at a tick
boundary (R376, R377, R379). -/
def writePress (s : State) (h : Hb) (r : Nat) (w : RegWrite) : State :=
  let p := hbBank h
  match r with
  | 0x10 =>
    let x := s.presses[p]
    let s := if bit w.ones 2 && x.faulted then s.modPress p fun x => { x with faultClr := true } else s
    if bit (w.rw (BitVec.ofNat 64 ((x.fenced && !x.unfence) || x.fenceReq).toNat) 1) 0 then
      (if x.fenced then s.modPress p fun x => { x with unfence := false }
       else if !x.faulted && x.run.any fun r => decide (2 ≤ r.pass) then s.modPress p fun x => { x with fenceReq := true }
       else fencePress s p 1)
    else
      let s := s.modPress p fun x => { x with fenceReq := false }
      if pressInUpdate s p then s.modPress p fun x => { x with unfence := x.fenced } else unfencePress s p
  | _ => s

/-- STEP_SIZE through a function: of a confidential partition only its assigned VF (R359). -/
def writeStepSize (s : State) (k : Pt) (w : RegWrite) : State :=
  if (w.m &&& 0xFFFFFFFF) = 0 then s
  else
    let v := (w.rw (s.parts[k].step.eta.setWidth 64) 0xFFFFFFFF).setWidth 32
    if entryInRange s .stepSize 1 (leBytes 4 v.toNat) then setEta s k v else etaRefused s k v

/-- PART_EVENT: what the device sets in the same clock stays set, and sends the vector where it rises (R17, R667). -/
def writePartEvent (s : State) (k : Pt) (w : RegWrite) : State :=
  let s := s.modPart k fun p => { p with event := p.event &&& ~~~(w.ones.setWidth 4) ||| (p.event &&& w.hw.setWidth 4) }
  (bitList (w.hw.setWidth 4)).foldl (fun s b => raisePart s k b) s

/-- The registers of a partition block (R667, R668, R671, R381). -/
def writePartBlock (s : State) (fn : Fin 5) (k : Pt) (r : Nat) (w : RegWrite) : State :=
  let p := s.parts[k]
  let old := BitVec.ofNat 64 (readPartBlock s fn k r)
  if !reaches s fn (.pt k) then s
  else match r with
    | 0x008 => writePartEvent s k w
    | 0x010 =>
      let v := w.rw old (BitVec.ofNat 64 (place64 63 1 + 0x7FF))
      if (if fn.1 = 0 then 2032 else 32) ≤ fld v 10 0 then s
      else s.modPart k fun p => { p with evEnable := bit v 63, evVector := v.setWidth 11, evVf := fn.1 != 0 }
    | 0x020 => s.modPart k fun p => { p with syncOvf := w.w1c p.syncOvf }
    | 0x100 => writeStepSize s k w
    | 0x200 => s.modPart k fun p => { p with relBase := w.rw old (BitVec.ofNat 64 (2 ^ 64 - 4096)) }
    | 0x208 =>
      let v := w.rw old (BitVec.ofNat 64 (place64 63 1 + 0x1F))
      if fld v 4 0 < 16 ∨ 30 < fld v 4 0 then s else s.modPart k fun p => { p with relEnable := bit v 63, relLog2 := v.setWidth 5 }
    | 0x210 => s.modPart k fun p => { p with relHead := (w.rw (p.relHead.setWidth 64) 0xFFFFFFFF).setWidth 32 }
    | _ => match queueReg s k r with
      | some (q, o) => writeQueue s fn q o w
      | none => s

/-- A write through the normal view sets the reserved bits that its lanes carry (R658). On VF8-12H6 they are fixed at 0. -/
def writeReserved (s : State) (b : Block) (r : Nat) (w : RegWrite) : State :=
  match reservedOf b r with
  | none => s
  | some (i, m) =>
    if !s.full || w.view != 0 || (match b with
      | .lp p => r == 0x10 && portConf s p
      | .mc h => r == 0x10 && (scrubWrite s h w).isNone
      | _ => false) then s
    else
      let m := BitVec.ofNat 64 m &&& w.m
      let put := fun (v : Vector W64 3) => vmod v i fun x => (x &&& ~~~m) ||| (w.d &&& m)
      match b with
      | .lp p => s.modPort p fun x => { x with reservedBits := put x.reservedBits }
      | .mc h => s.modStack h fun x => { x with reservedBits := put x.reservedBits }
      | _ => s

/-- A write to a register other than LOCK_KEY. -/
def writeReg (s : State) (fn : Fin 5) (b : Block) (r : Nat) (w : RegWrite) : State :=
  let s := writeReserved s b r w
  match b with
  | .glob => writeGlob s r w
  | .tc c => writeCluster s c r w
  | .lp p => writePort s p r w
  | .mc h => writeStack s h r w
  | .ps h => writePress s h r w
  | .pt k => writePartBlock s fn k r w

/-- LOCK_KEY: a write that carries KEY unlocks with the right value and locks with any other (R660). -/
def writeLock (s : State) (fn : Fin 5) (b : Block) (w : RegWrite) : State :=
  if fn.1 ≠ 0 ∨ !reaches s fn b ∨ w.view ≠ 0 ∨ (w.m &&& 0xFFFFFFFF) = 0 then s
  else setUnlocked s b (w.d.setWidth 32 == (0x6D644C4B : W32))

/-- A write to a block, through the guard of R660–R662. -/
def writeBlock (s : State) (fn : Fin 5) (b : Block) (r : Nat) (w : RegWrite) : State :=
  if !blockThere s b then s
  else if r = 0xFFF8 then writeLock s fn b w
  else if guarded b r then
    (if unlockedOf s b then writeReg (setUnlocked s b false) fn b r w
     else noteOp s 0x44 (blockCode b).1 (blockCode b).2 r)
  else writeReg s fn b r w

/-! ## Doorbells (R672–R674) -/

/-- Is the page of the queue live: its partition exists, the function may reach it, and the queue is enabled? -/
def bellLive (s : State) (fn : Fin 5) (q : QRef) : Bool :=
  (s.queue q).enable && (match qPart q with | some k => s.parts[k].live && reaches s fn (.pt k) | none => true) &&
  (match q with | .data k j => decide (j.1 < s.parts[k].dataQueues.toNat) | _ => true)

/-- Index j of a queue in its partition block (R667). -/
def queueIndex : QRef → Nat
  | .data _ j => j.1 + 1
  | _ => 0

/-- TAIL is applied; at or above the ring size it is ignored and logged. -/
def writeTail (s : State) (fn : Fin 5) (off : Nat) (q : QRef) (v : Nat) : State :=
  if v < (s.queue q).size then s.modQueue q fun u => { u with tail := BitVec.ofNat 16 v }
  else match qPart q with
    | some k => notePart s k 0x3B 0xFF (queueIndex q) v
    | none => badAccess s fn off

/-- The fields of a doorbell write: TAIL where it carries one, RESUME, FLUSH; or the completion head. -/
inductive Bell where
  | tail (v : Option Nat) (resume flush : Bool)
  | cqHead (v : Nat)
  | nothing
deriving DecidableEq, Repr

def bellOf (o len : Nat) (d : W64) : Bell :=
  match o with
  | 0x0 => if len = 8 then .tail (some (fld d 15 0)) (bit d 63) (bit d 62) else .tail (some (fld d 15 0)) false false
  | 0x4 => .tail none (bit d 31) (bit d 30)
  | 0x8 => .cqHead (fld d 15 0)
  | _ => .nothing

/-- A doorbell is written. A completion head at or above the ring size names no entry and is ignored. -/
def ring (s : State) (fn : Fin 5) (off : Nat) (q : QRef) (b : Bell) (es : List Entry) : State :=
  if !bellLive s fn q then s
  else match b with
    | .nothing => s
    | .cqHead v => if v < (s.queue q).size then s.modQueue q fun u => { u with cqHead := BitVec.ofNat 16 v } else s
    | .tail v resume flush =>
      let s := match v with | some v => writeTail s fn off q v | none => s
      match q with
      | .data k j => if !(s.queue q).halted then s else if flush then flushQueue s k j es else if resume then resumeQueue s k j else s
      | _ => s

/-! ## The other places -/

/-- A vector whose masks are both clear and that waits is sent (R682). -/
def sendWaiting (s : State) (fn : Fin 5) (v : Nat) : State :=
  let x := msixGet s fn v
  if x.pending && !x.mask && !bit s.host.fnMask fn.1 then msixSend (msixSet s fn v { x with pending := false }) fn (BitVec.ofNat 11 v) else s

/-- A write to an entry of an MSI-X table. -/
def writeMsix (s : State) (fn : Fin 5) (v o : Nat) (w : RegWrite) : State :=
  let x := msixGet s fn v
  let y := (BitVec.ofNat 64 (readMsix s fn v (o / 8 * 8)) &&& ~~~w.m) ||| (w.d &&& w.m)
  let x := if o < 8 then { x with addr := y } else { x with data := y.setWidth 32, mask := bit y 32 }
  sendWaiting (msixSet s fn v x) fn v

/-- The vectors of a function that are listed. -/
def listedVectors (s : State) (fn : Fin 5) : List Nat :=
  match ptOfFn fn with
  | none => s.host.msixPf.map fun (e : Nat × MsixVec) => e.1
  | some k => s.host.msixVf[k].map fun (e : Nat × MsixVec) => e.1

def writeFnMask (s : State) (fn : Fin 5) (w : RegWrite) : State :=
  if (w.m &&& 1) = 0 then s
  else
    let s := { s with host := { s.host with fnMask := setBit s.host.fnMask fn.1 (bit w.d 0) } }
    (listedVectors s fn).foldl (fun s v => sendWaiting s fn v) s

/-- SIGNAL through the window: n in bits 15:0 of the object's word; the objects of a confidential partition are closed (R664,
R669). -/
def writeSync (s : State) (o : Nat) (w : RegWrite) : State :=
  let n := fld (w.d &&& w.m) 15 0
  if n = 0 then s else signalSync s none 0xFF (o / 8) n

/-! ## The commands -/

/-- The lanes and the data of an access as they stand in its 8-byte word. -/
def regWrite (a : Mmio) (view : Fin 4) : RegWrite :=
  let low : W64 := 0xFFFFFFFF
  if a.len = 8 then { view := view, d := a.data, m := BitVec.allOnes 64, hw := a.hwSet }
  else if a.off % 8 = 0 then { view := view, d := a.data &&& low, m := low, hw := a.hwSet }
  else { view := view, d := (a.data &&& low) <<< 32, m := low <<< 32, hw := a.hwSet }

/-- A host write. -/
def hostWrite (s : State) (a : Mmio) (es : List Entry) : State :=
  if !hostUp s then s
  else if !accessOk a.off a.len then badAccess s a.fn a.off
  else
    let w := regWrite a 0
    match placeOf s a.fn a.bar a.off with
    | .reg b view r => writeBlock s a.fn b (r / 8 * 8) { w with view := view }
    | .bell q o => ring s a.fn a.off q (bellOf o a.len a.data) es
    | .sync o => writeSync s o w
    | .msix v o => writeMsix s a.fn v o w
    | .fnMask => writeFnMask s a.fn w
    | .noBell | .sec _ | .pba _ | .none_ => s

/-- The place of a host write. -/
def mmioPlace (s : State) (a : Mmio) : Place := placeOf s a.fn a.bar a.off

/-- A host write that is the event of a row: where the access goes elsewhere, the event does not occur
(notes/assumptions/2.md). -/
def writeWhere (f : Place → Bool) (a : Mmio) (es : List Entry) (s : State) : Out :=
  .next (if f (mmioPlace s a) then settled s (hostWrite s a es) else s)

/-- The normal view of a register. -/
def isReg (kind : Block → Bool) (r : Nat) : Place → Bool
  | .reg b view x => kind b && view == 0 && x / 8 * 8 == r
  | _ => false

/-- A register through an alias. -/
def isAlias (v : Fin 4) : Place → Bool
  | .reg _ view _ => view == v
  | _ => false

def isTc : Block → Bool | .tc _ => true | _ => false
def isLp : Block → Bool | .lp _ => true | _ => false
def isMc : Block → Bool | .mc _ => true | _ => false
def isPs : Block → Bool | .ps _ => true | _ => false
def isPt : Block → Bool | .pt _ => true | _ => false

def execLockKey (a : Mmio) (s : State) : Out := writeWhere (isReg (fun _ => true) 0xFFF8) a [] s
def execSetAliasWrite (a : Mmio) (s : State) : Out := writeWhere (isAlias 1) a [] s
def execClearAliasWrite (a : Mmio) (s : State) : Out := writeWhere (isAlias 2) a [] s
def execToggleAliasWrite (a : Mmio) (s : State) : Out := writeWhere (isAlias 3) a [] s
def execGlbClkOverride (a : Mmio) (s : State) : Out := writeWhere (isReg (· == .glob) 0x100) a [] s
def execScanStart (a : Mmio) (s : State) : Out := writeWhere (isReg (· == .glob) 0x108) a [] s
def execTcFence (a : Mmio) (s : State) : Out := writeWhere (isReg isTc 0x08) a [] s
def execEstFreeze (a : Mmio) (s : State) : Out := writeWhere (isReg isTc 0x10) a [] s
def execLpFence (a : Mmio) (s : State) : Out := writeWhere (isReg isLp 0x08) a [] s

/-- RETRAIN: bit 1 of LP_FENCE. -/
def execRetrain (a : Mmio) (s : State) : Out :=
  writeWhere (fun p => isReg isLp 0x08 p && bit (regWrite a 0).ones 1) a [] s

/-- LANE_FENCE: bits 15:8 of LP_FENCE. -/
def execLaneFence (a : Mmio) (s : State) : Out := writeWhere (isReg isLp 0x08) a [] s
def execLpEqCtrl (a : Mmio) (s : State) : Out := writeWhere (isReg isLp 0x10) a [] s
def execMcScrub (a : Mmio) (s : State) : Out := writeWhere (isReg isMc 0x10) a [] s
def execPrsFence (a : Mmio) (s : State) : Out := writeWhere (isReg isPs 0x10) a [] s

/-- FAULT_CLEAR: bit 2 of PRS_FENCE. -/
def execFaultClear (a : Mmio) (s : State) : Out :=
  writeWhere (fun p => isReg isPs 0x10 p && bit (regWrite a 0).ones 2) a [] s

/-- A doorbell write with what it carries. -/
def isBell (f : Bell → Bool) (a : Mmio) : Place → Bool
  | .bell _ o => f (bellOf o a.len a.data)
  | _ => false

def execDoorbellTail (a : Mmio) (s : State) : Out :=
  writeWhere (isBell (fun b => match b with | .tail _ r f => !r && !f | _ => false) a) a [] s
def execResume (a : Mmio) (s : State) : Out :=
  writeWhere (isBell (fun b => match b with | .tail _ r f => r && !f | _ => false) a) a [] s
def execFlush (a : Mmio) (es : List Entry) (s : State) : Out :=
  writeWhere (isBell (fun b => match b with | .tail _ _ f => f | _ => false) a) a es s
def execCqHeadDoorbell (a : Mmio) (s : State) : Out :=
  writeWhere (isBell (fun b => match b with | .cqHead _ => true | _ => false) a) a [] s

/-- QCFG of a queue of a partition or of the admin queue. -/
def isQcfg : Place → Bool
  | .reg .glob view x => view == 0 && x / 8 * 8 == 0x1010
  | .reg (.pt _) view x => view == 0 && decide (0x1000 ≤ x) && decide (x < 0x1440) && x / 8 * 8 % 0x40 == 0x10
  | _ => false

def execQcfg (a : Mmio) (s : State) : Out := writeWhere isQcfg a [] s
def execStepSize (a : Mmio) (s : State) : Out := writeWhere (isReg isPt 0x100) a [] s
def execSyncWindowSignal (a : Mmio) (s : State) : Out := writeWhere (fun p => match p with | .sync _ => true | _ => false) a [] s

/-- REGISTER_WRITE: any host write but one to a doorbell, which has rows of its own. -/
def execRegisterWrite (a : Mmio) (s : State) : Out := writeWhere (fun p => match p with | .bell .. => false | _ => true) a [] s

/-! ### Reads with an effect (R17, R426, R499, R653, R656) -/

/-- What the host reads: the half or the whole of the word. -/
def readValue (s : State) (a : MmioRead) : W64 :=
  let w := readPlace s a.fn (placeOf s a.fn a.bar a.off)
  if a.len = 8 then w else if a.off % 8 = 0 then w &&& 0xFFFFFFFF else w >>> 32

/-- The bits of an RC register after the read of `m`: the events counted in the same clock win. -/
def rcAfter {n : Nat} (old : BitVec n) (lo : Nat) (m hw : W64) : BitVec n :=
  if bit m lo then BitVec.ofNat n (fld hw (lo + n - 1) lo) else old

/-- The RC fields that a read through the normal view clears. -/
def clearRead (s : State) (b : Block) (r : Nat) (m hw : W64) : State :=
  if !blockThere s b then s
  else match b with
    | .mc h => if r = 0x08 then s.modStack h fun x => { x with ue := rcAfter x.ue 32 m hw, ce := rcAfter x.ce 0 m hw } else s
    | .lp p => if r = 0x18 then s.modPort p fun x =>
        { x with tagFails := rcAfter x.tagFails 48 m hw, protoStr := rcAfter x.protoStr 32 m hw, crcRes := rcAfter x.crcRes 0 m hw } else s
    | _ => s

/-- A host read. -/
def hostRead (s : State) (a : MmioRead) : State :=
  if !hostUp s then s
  else if !accessOk a.off a.len then badAccess { s with host := { s.host with readOut := 0 } } a.fn a.off
  else
    let m := (regWrite ⟨a.fn, a.bar, a.off, a.len, 0, 0⟩ 0).m
    let t := { s with host := { s.host with readOut := readValue s a } }
    match placeOf s a.fn a.bar a.off with
    | .reg b view r => if view = 0 then clearRead t b (r / 8 * 8) m a.hwSet else t
    | _ => t

/-- A read of a register of one kind of block, through any view. -/
def readWhere (kind : Block → Bool) (r : Nat) (a : MmioRead) (s : State) : Out :=
  .next (match placeOf s a.fn a.bar a.off with
    | .reg b _ x => if kind b && x / 8 * 8 == r then raiseChanges s (hostRead s a) else s
    | _ => s)

def execMcEccCount (a : MmioRead) (s : State) : Out := readWhere isMc 0x08 a s
def execLpErrCount (a : MmioRead) (s : State) : Out := readWhere isLp 0x18 a s

end Sys2Proof.Machine
end

