-- ==== Sys2Proof/Machine/Waiting.lean ====
section
/-! DEFINITION. What waits and is tried again: writes that wait for a generation slot or for the pointer of a re-key, and transfers that a
quench or a write holds (spec/02_meridian_and_scheduling.md R93, spec/11_confidential_computing.md R540–R544). -/

namespace Sys2Proof.Machine

open Sys2Proof

/-- A write that waits is tried once more; one that must go on waiting is kept behind those that have been tried. -/
def retryWrite (s : State) (x : Stalled) : State :=
  let keep := fun (s : State) => { s with stalled := s.stalled ++ [x] }
  match x with
  | .move id cc =>
    match s.reqs.find? fun r => r.id == id with
    | none => s
    | some r => if admits s r.part then finishMove s r cc else keep s
  | .copy k tag =>
    let t := finishCopy s k tag
    if t.stalled.contains x || (waitingAs t k tag fun w => match w with | .cellarCopy .. => true | _ => false).isNone then t else keep t
  | .page k obj page => if !admits s k || copyWaits s k obj (4096 * page) 4096 then keep s else (fillPage s k obj page).1
  | .fill k f =>
    let t := finishFill s k f
    if t.stalled.contains x || (waitingAs t k f.tag fun w => match w with | .cacheFill .. => true | _ => false).isNone then t else keep t
  | .grain p =>
    match s.presses[p].run with
    | none => s
    | some r =>
      let d := runRegion s r
      if !r.body || decide (r.group + 1 < grainGroups d) then s
      else if s.presses[p].faulted || s.presses[p].fenced then s
      else finishGrain s p r d
  | .image k c dst bs => if s.clusters[c].part = some k then storeImage s k c dst bs else s
  | .touched k bm g v => setTouched s k bm g v

/-- A command that a quench or a write holds goes on. -/
def retryCommand (s : State) (k : Pt) (p : Pending) : State :=
  match p.wait with
  | .blocked => pressLoadBody k { e := p.e, late := false, ccError := false } (dropPending s p) p
  | .importing off last => importFrom k (dropPending s p) p off last
  | .exporting off seq => exportFrom k (dropPending s p) p off seq
  | _ => s

/-- The commands of a partition that a quench or a write holds. -/
def heldCommands (s : State) (k : Pt) : List Pending :=
  s.parts[k].inflight.filter fun p => match p.wait with | .blocked | .importing .. | .exporting .. => true | _ => false

/-- Everything that waits is tried again: writes in the order in which they began to wait, data received, and commands. Nothing happens
where nothing waits. -/
def retryStalled (s : State) : State :=
  let ready := allPts.filter fun k => admits s k && !(heldCommands s k).isEmpty
  if s.stalled.isEmpty && ready.isEmpty && s.ports.toList.all (fun x => x.held.isEmpty) then s
  else
    let s := applyReleased (s.stalled.foldl retryWrite { s with stalled := [] })
    settle (ready.foldl (fun s k => (heldCommands s k).foldl (fun s p => retryCommand s k p) s) s)

/-- REKEY_ENGINE: one line of a region is re-keyed; writes that waited for its pointer go on (R541, R542). -/
def execRekeyEngine (m : Ps) (region : Nat) (s : State) : Out := .next (retryStalled (rekeyLine m region s))

/-- REKEY_WAIT_EXPIRY: a region has waited two boundaries for a generation slot; its writes fail with it (R544). -/
def execRekeyWaitExpiry (m : Ps) (region : Nat) (freedNow : Bool) (s : State) : Out := .next (retryStalled (expireWait m region freedNow s))

/-- SLOT_SWEEP: destroyed slots return to the pool, and regions that waited for one start (R544, R580). -/
def execSlotSweep (s : State) : Out := .next (retryStalled (sweepSlots s))

end Sys2Proof.Machine
end

