-- ==== Sys2Proof/Machine/Boundary.lean ====
section
/-! DEFINITION. The tick boundary: the actions of R50 in their order, and what takes effect with them
(spec/02_meridian_and_scheduling.md R42–R50, R762; the rules of the single effects stand beside them). -/

namespace Sys2Proof.Machine

open Sys2Proof

/-! ## Action 1: the tick number, and what no other action names (R762) -/

/-- The frames and messages that left the module in the tick that ends are gone. -/
def clearSent (s : State) : State :=
  { s with dict := { s.dict with out := [] }, host := { s.host with sentMsix := [] } }

/-- The tick number rises once the device has been locked (R44), and a period written for this tick takes effect (R46). The
trace output of TICK_IO follows the boundary (R747). -/
def nextTick (s : State) : State :=
  let t := if s.links.epoch = 0 then s.meridian.tick else s.meridian.tick + 1
  let m := { s.meridian with tick := t }
  let m := match m.periodNew with
    | some (p, due) => if due.toNat ≤ t.toNat then { m with periodUs := p, periodNew := none, slotNs := BitVec.ofNat 32 (p.toNat * 1000 / 64) } else m
    | none => m
  { s with meridian := m, pins := { s.pins with tickOut := bit s.pins.tickMode 0 && !bit s.pins.tickMode 1 } }

/-- A written STEP_NUMBER and step size (R358, R361). -/
def takeStep (p : Partition) : Partition :=
  { p with step := { p.step with number := p.step.numberW.getD p.step.number, numberW := none, etaTick := p.step.eta } }

/-- The policies of R144, R193 and R430 as last written. -/
def takePolicies (p : Partition) : Partition :=
  let y := p.policy
  { p with policy := { y with flush := y.flushW, checkTol := y.checkTolW, deadline := y.deadlineW } }

/-- Bytes of the poisoned words of a cluster that no partition owns (R713). -/
def zeroPoison (c : Cluster) : Cluster :=
  if c.part.isSome then c
  else { c with spad := c.poison.foldl (fun m (e : Nat × Bool) => m.writeBytes (8 * e.1) (List.replicate 8 0)) c.spad, poison := [], poisonNew := [], ueNew := [] }

/-- Words of a scratchpad (R152). -/
def spadWordsAll : Nat := 0x300000

/-- What befalls stored bits: nothing finds it before a read, a scrub or a partial write (R156, R420, R536, R537). -/
def strikeCell (s : State) (e : CellError) : State :=
  match e with
  | .forged m l => s.modBank m fun b =>
      let x := Sparse.get LineMeta.zero b.lines l
      { b with lines := Sparse.set LineMeta.zero b.lines l { x with bad := true } }
  | .forgedNode m n => s.modTree m fun t => { t with tampered := if t.tampered.contains n then t.tampered else t.tampered ++ [n] }
  | .line m l unc => s.modBank m fun b =>
      let x := Sparse.get LineMeta.zero b.lines l
      { b with lines := Sparse.set LineMeta.zero b.lines l (if unc then { x with ue := !x.poison } else { x with ce := !x.poison && !x.ue }) }
  | .word c w unc => s.modCluster c fun t =>
      if spadWordsAll ≤ w ∨ Sparse.get false t.poison w then t
      else if unc then { t with poison := Sparse.set false t.poison w true, poisonNew := Sparse.set false t.poisonNew w true,
                                ueNew := Sparse.set false t.ueNew w true, soft := Sparse.set false t.soft w false }
      else { t with soft := Sparse.set false t.soft w true }

/-- Waits that count boundaries: WAITs with a timeout in ticks (R76), regions that wait for a generation slot (R544). -/
def countBoundary (s : State) : State :=
  let count := fun (rs : List Rekey) => rs.map fun (e : Rekey) => if e.waiting then { e with bounds := e.bounds + 1 } else e
  { s with
    waiters := s.waiters.map fun (w : Waiter) => if w.ticks then { w with left := w.left - 1 } else w
    hbs := vmap s.hbs fun (x : Stack) => { x with rekeys := count x.rekeys }
    cellar := { s.cellar with rekeys := count s.cellar.rekeys } }

/-- Units of confidential partitions re-run from the boundary on (R310 step 6). -/
def startReruns (s : State) : State :=
  { s with parts := vmap s.parts fun p => { p with units := p.units.map fun (u : ReplayUnit) => { u with rerunWait := false } } }

/-- The data queues of a partition after a fault in it halt (R57). -/
def haltFaulted (s : State) (k : Pt) : State :=
  if s.parts[k].halting then haltAll (s.modPart k fun p => { p with halting := false }) k 0x0D else s

/-- PART_DESTROY: from the boundary on no queue of the partition fetches; a command whose partition is gone completes (R679). -/
def destroySteps (s : State) : State :=
  let s := { s with parts := vmap s.parts fun (p : Partition) => { p with destroying := p.destroying.map fun (x : Bool × W64) => (true, x.2) } }
  (s.host.inflight.filter fun (p : Pending) => p.wait == .partGone).foldl (fun s p => endPending s p 0 0 0 0) s

/-- Phase 1 of a field test stops the data queues of the partitions that own a target (R725). -/
def drainSteps (s : State) : State :=
  if s.test.state = 1 ∧ s.test.began.toNat < s.meridian.tick.toNat then
    { s with test := { s.test with drained := maskOf 4 fun k => (testParts s).any fun x => x.1 == k } }
  else s

/-- The gate holds a release of an earlier boundary (R668). -/
def countStalls (s : State) (k : Pt) : State :=
  if gateHolds s k then s.modSession k fun x => { x with ringStalls := satAdd x.ringStalls 1 } else s

/-! ## Memory objects at a boundary (R395, R406, R540, R679) -/

/-- Does a run of regions hold region r? -/
def inRuns (rs : List (Nat × Nat)) (r : Nat) : Bool := rs.any fun x => decide (x.1 ≤ r ∧ r < x.1 + x.2)

/-- The regions of runs stop re-keying. -/
def dropRekeys (s : State) (o : MemObj) : State :=
  let stack := fun (h : Fin 8) =>
    let x := s.hbs[h]
    { x with rekeys := x.rekeys.filter fun (e : Rekey) => !inRuns (heldRuns o h) e.region }
  { s with
    hbs := Vector.ofFn stack
    cellar := { s.cellar with rekeys := s.cellar.rekeys.filter fun (e : Rekey) => !inRuns (celRuns o) e.region } }

/-- The generations under which the regions of an object stand, and to which they are on their way. -/
def gensOf (s : State) (o : MemObj) : List Nat :=
  allPss.flatMap fun m =>
    let b := bank s m
    let runs := if m.1 < 8 then (if o.stack.1 = m.1 then (o.hbmBase.map fun b => (b, o.regions)).toList ++ o.oldRuns else [])
      else (o.celBase.map fun b => (b, o.regions)).toList
    runs.flatMap fun r => (List.range r.2).map (fun i => (regionGen b (r.1 + i)).toNat) ++
      (b.rekeys.filter fun e => inRange r.1 r.2 e.region).map fun e => e.newGen.toNat

/-- Generation slots of a key ID that no region uses any longer are freed (R540). -/
def freeGens (s : State) (k : Pt) (keyId : Nat) (gens : List Nat) : State :=
  if keyId = 0 then s
  else gens.dedup.foldl (fun s g =>
    if genUsed s k keyId g then s
    else match memSlot s k keyId g with
      | some i => killSlot s i
      | none => s) s

/-- One memory object at a boundary: gone after MEM_FREE (R395), without its regions or its copy after an eviction, or without the runs of
an evicted copy that has been replaced (R406). -/
def memLeaves (k : Pt) (s : State) (o : MemObj) : State :=
  let gens := gensOf s o
  match o.st with
  | .freeing | .readyFreed | .evictingFreed =>
    let s := dropRekeys s o
    freeGens (s.modPart k fun p => { p with mem := p.mem.filter fun x => x.obj != o.obj }) k o.keyId.toNat gens
  | .evicting =>
    let s := dropRekeys s { o with celBase := none, celMeta := none }
    let s := modObj s k o.obj fun o =>
      if o.place = 0 then { o with st := .evicted, hbmBase := none, metaBase := none, metaRegs := 0 } else { dropCopy o with oldRuns := [] }
    freeGens s k o.keyId.toNat gens
  | _ =>
    if o.oldRuns.isEmpty then s
    else
      let s := dropRekeys s { o with hbmBase := none, metaBase := none, celBase := none, celMeta := none }
      freeGens (modObj s k o.obj fun o => { o with oldRuns := [] }) k o.keyId.toNat gens

/-- A region is cleared: its lines read zero and keep nothing (R395, R679). -/
def clearRegion (r : Nat) (mem : Memory) (lines : Sparse LineMeta) : Memory × Sparse LineMeta :=
  (mem.zero (r * regionBytes) regionBytes, Sparse.clear lines fun i => decide (64 * i / regionBytes = r))

/-- The SC and the CC's zeroing engine have cleared the regions of partitions that are gone (R30, R523, R679); by when is
notes/assumptions/72.md, DESIGN CHOICE. -/
def clearedRegions (s : State) : State :=
  let stack := fun (x : Stack) =>
    let (mem, lines) := x.clearing.foldl (fun a r => clearRegion r a.1 a.2) (x.mem, x.lines)
    { x with mem := mem, lines := lines, clearing := [] }
  let c := s.cellar
  let (mem, lines) := c.clearing.foldl (fun a r => clearRegion r a.1 a.2) (c.mem, c.lines)
  { s with hbs := vmap s.hbs stack, cellar := { c with mem := mem, lines := lines, clearing := [] } }

/-- Written sequence contexts (R189). -/
def takeContexts (s : State) : State :=
  { s with seqs := vmap s.seqs fun (x : SeqCtx) => match x.next with | some b => { bytes := b, next := none } | none => x }

/-- Does the partition's step end at this boundary, in action 4 (R412)? -/
def stepEnds (p : Partition) : Bool :=
  match p.step.phase with
  | .applied | .skipped | .torn => true
  | _ => false

/-- The images of partitions whose step does not end at this boundary; the others keep theirs until it has ended (R336). -/
def earlyImages (s : State) (k : Pt) : State := if stepEnds s.parts[k] then s else activateImages s k

/-- A press outside an update phase: its fence or fault is cleared as written (R377, R379). -/
def pressBoundary (s : State) (p : Ps) : State :=
  if pressInUpdate s p then s
  else
    let s := if s.presses[p].unfence then unfencePress s p else s
    s.modPress p fun x => if x.faultClr then { x with faulted := false, faultClr := false, tookOver := if x.fenced then x.tookOver else 0 } else x

/-- Action 1. The completions and interrupts of confidential partitions that have waited for the boundary reach the host with it (R559). -/
def action1 (errs : List CellError) (s : State) : State :=
  let s := allPts.foldl (fun s k => if s.parts[k].conf then releaseToHost s k else s) (clearSent s)
  let s := takeContexts (takeWritten (nextTick s))
  let s := { s with parts := vmap s.parts fun p => takeStep (takePolicies p), clusters := vmap s.clusters zeroPoison }
  let s := allPts.foldl (fun s k => s.parts[k].mem.foldl (memLeaves k) s) (clearedRegions s)
  let s := errs.foldl strikeCell s
  let s := allPts.foldl earlyImages (allPss.foldl pressBoundary s)
  let s := allPts.foldl countStalls s
  let s := allPts.foldl haltFaulted (startReruns (countBoundary s))
  linkBoundary (drainSteps (destroySteps s))

/-! ## Action 2: two-party changes, and the sessions that close directly after (R523) -/

/-- A session closes; a staged change that needs its approval is stale (R647). -/
def closeOne (s : State) (k : Pt) : State :=
  if s.parts[k].session.closing then staleChange (closeSession s k) k else s

def action2 (s : State) : State := allPts.foldl closeOne s

/-! ## Action 3: setup objects and memory objects -/

/-- Tokens that the tentative SENDs of a slot table could need in one control slot (R459, R463): one for each route. -/
def tableTokens (s : State) (k : Pt) (bs : Bytes) : Nat :=
  let named := (List.range (stPhases bs)).flatMap fun ph => (List.range 64).flatMap fun sl => (List.range 4).filterMap fun i =>
    let w := stEntry bs ph sl i
    if fld w 7 6 = 1 then some (fld w 31 20) else none
  (s.parts[k].objs.filter fun o => o.typ == 2 && rtOp o.bytes == 1 && rtUnit o.bytes != 0 && named.contains o.idx.toNat).length

/-- Is a setup object refused where it would become active (R764, R459)? -/
def setupRefused (s : State) (k : Pt) (o : SetupObj) : Bool :=
  o.typ == 3 && (!slotTableOk s k o.bytes || decide ((slot0Flits s - 32) * 14 < tableTokens s k o.bytes))

/-- What becoming active does for a sync-object group: with CLEAR its objects are 0 (R73). -/
def startGroup (s : State) (o : SetupObj) : State :=
  if o.typ = 5 ∧ byteAt o.bytes 4 = 1 then
    { s with sync := s.sync.filter fun e => !inRange (numAt o.bytes 0 2) (numAt o.bytes 2 2) e.1 }
  else s

/-- A pending object becomes active; a slot table takes the place of the active one of its port, which is removed as by a DESTROY: its handle
no longer names an object (notes/assumptions/175.md, DESIGN CHOICE). -/
def activateOne (s : State) (k : Pt) (o : SetupObj) : State :=
  if setupRefused s k o then
    notePart (removeObj s k o) k 0x3C 0xFF o.typ.toNat (handleOf k o.typ.toNat o.gen.toNat o.idx.toNat).toNat
  else
    let old := s.parts[k].objs.filter fun x => o.typ == 3 && x.typ == 3 && x.st != .pending && x.st != .withdrawn && stPort x.bytes == stPort o.bytes
    let s := old.foldl (fun s x => removeObj s k x) s
    startGroup (s.modPart k fun p => { p with objs := p.objs.map fun x => if x.typ = o.typ ∧ x.idx = o.idx then { x with st := .active } else x }) o

/-- Pending objects become active, and those whose destruction has completed are removed, a mark with its level (R301). -/
def setupObjects (s : State) (k : Pt) : State :=
  let s := (s.parts[k].objs.filter fun o => o.st == .destroyed || o.st == .withdrawn).foldl (fun s o => removeObj s k o) s
  let s := (s.parts[k].objs.filter fun o => o.st == .pending).foldl (fun s o => activateOne s k o) s
  s.modPart k fun p => { p with marks := p.marks.filter fun m => p.objs.any fun o => o.typ == 6 && o.idx == m.idx }

/-- An allocated object becomes usable (R395). -/
def memUsable (p : Partition) : Partition :=
  { p with mem := p.mem.map fun (o : MemObj) => if o.st = .ready then { o with st := .usable } else o }

def action3 (s : State) : State :=
  let s := allPts.foldl setupObjects s
  { s with parts := vmap s.parts memUsable }

/-! ## Action 4: notices of the cellar (R407–R410, R414), and the step ends that come with them (R412) -/

/-- The pages of a copy that a notice names are invalid, and a fetch under way does not validate them. -/
def applyNotice (s : State) (n : Notice) : State :=
  let hit := fun (p : Nat) => n.page.isNone || n.page == some p
  let s := { s with stalled := s.stalled.filter fun x => match x with | .page k o p => !(k == n.part && o == n.obj && hit p) | _ => true }
  modObj s n.part n.obj fun o =>
    { o with pages := o.pages.filter fun p => !hit p, fetching := o.fetching.map fun (f : Refill) => if hit f.page then { f with good := false } else f }

/-- A late batch: every page of every copy is invalid (R409). -/
def applyLate (s : State) : State :=
  let s := (allObjs s).foldl (fun s x => applyNotice s { part := x.1, obj := x.2.obj, page := none }) s
  { s with cellar := { s.cellar with noticeLate := satAdd s.cellar.noticeLate 1 } }

def cellarNotices (s : State) : State :=
  let s := match s.cellar.batch with
    | none => s
    | some ns => if s.cellar.late then applyLate s else ns.foldl applyNotice s
  { s with cellar := { s.cellar with batch := none, late := false } }

/-- The pages of a failed or fenced cellar port move to the others, and requests in flight are reissued there (R414). -/
def moveCellarPorts (s : State) : State :=
  if s.cellar.cpMove then
    let s := { s with cellar := { s.cellar with cpUp := s.cellar.cpUp &&& ~~~s.cellar.cpFenced, cpMove := false } }
    { s with reqs := s.reqs.map fun (r : CellarReq) => { r with pieces := r.pieces.map fun x => (x.1, pagePort s x.1) } }
  else s

/-! ## Step ends (R313, R319–R324, R329, R350, R353, R355–R361, R364) -/

/-- A STEP_SKIPPED record (R324, R356). -/
def noteSkipped (s : State) (k : Pt) (causes : Byte) (own : Bool) : State :=
  logPart s k { partRec s k 0x08 0xFF 0xFFFF 0 with causes := causes, localNf := if own then 1 else 0 }

/-- The combined norm is here: a NaN or infinity in it skips the step; otherwise G² is rounded once, and pass 2 may start. -/
def takeNorm (s : State) (k : Pt) : State :=
  let t := s.parts[k].step
  match t.phase, t.combined with
  | .norm, some v =>
    if v.nf then s.modStep k fun t => { t with phase := .skipped }
    else
      let s := s.modStep k fun t => { t with phase := .normHere, g2 := BitVec.ofNat 32 (longToF32 t.normWexp.toInt v.value).code }
      if v.low || v.range then
        notePart (s.count k fun c => { c with normInexact := satAdd c.normInexact 1 }) k 0x15 0xFF 0xFFFF
          (v.low.toNat * 2 ^ 31 + v.range.toNat * 2 ^ 30)
      else s
  | _, _ => s

/-- A raised level after one more applied step: at the end of the last of ESC_HOLD_STEPS it falls by one. -/
def holdLevel (k : Pt) (hold : Nat) (s : State) (m : MarkState) : State :=
  if m.level = 0 then s
  else if m.held.toNat + 1 < hold then s.modPart k fun p => setMark p { m with held := m.held + 1 }
  else
    -- Units that are open already keep the level under which they began.
    let keep := fun (u : ReplayUnit) => if u.oldLevels.any (fun x => x.1 == m.idx) then u else { u with oldLevels := (m.idx, m.level) :: u.oldLevels }
    let s := s.modPart k fun p => { p with units := p.units.map keep }
    let s := s.modPart k fun p => setMark p { m with level := m.level - 1, held := 0 }
    let s := s.count k fun c => { c with demotions := satAdd c.demotions 1 }
    let unit := match s.parts[k].objs.find? fun o => o.typ == 6 && o.idx == m.idx with | some o => markId o | none => 0xFFFF
    logPart s k { partRec s k 0x03 0xFF unit 0 with
      levels := BitVec.ofNat 8 (m.level.toNat * 16 + (m.level.toNat - 1)), handleIndex := m.idx }

/-- The touched bits of the partition's regions are cleared (R350). -/
def clearAllTouched (s : State) (k : Pt) : State :=
  (activeRegions s k).foldl (fun s (_, d) =>
    if !regTrack d then s
    else (List.range (regGrains d)).foldl (fun s g =>
      let t := readTouched s k (regBitmap d) g
      if t.set then clearTouched t.s k (regBitmap d) g else t.s) s) s

/-- UPDATE_SYNC. -/
def updateSignal (s : State) (k : Pt) : State :=
  let w := s.parts[k].step.updateSync
  if fld w 15 0 = 0 then s else signalSync s (some k) 0xFF (fld w 29 16) (fld w 15 0)

/-- The next step begins: its flag and fences are those that have come already, and the values written for it are in force. -/
def beginStep (s : State) (k : Pt) : State :=
  let nf := s.parts[k].step.nextNf
  let s := s.modPart k fun p =>
    let t := p.step
    { p with
      step := { t with phase := .compute, fences := t.nextFences, nextFences := 0, localNf := nf != 0, nfCauses := nf, nextNf := 0, finalNf := false,
                       service := t.serviceW, combined := none, owners := 0 } }
  let s := if nf = 0 then s
    else logPart (s.count k fun c => { c with localNonfinite := satAdd c.localNonfinite 1 }) k { partRec s k 0x07 0xFF 0xFFFF 0 with causes := nf }
  match s.parts[k].step.seedW with
  | none => s
  | some v =>
    let s := s.modStep k fun t => { t with seed := v, seedW := none }
    match s.parts[k].session.roundSlot with
    | some i => setSlot s i.1 { slot s i.1 with key := kdf v "MDR-ROUND" (List.replicate 16 0) 32 }
    | none => s

/-- A step ends, applied or skipped. ESC_HOLD_STEPS and REPLAY_LIMIT as last written apply from this step end on. -/
def endStep (s : State) (k : Pt) (applied : Bool) : State :=
  let s := s.modPart k fun p =>
    let y := p.policy
    { p with policy := { y with escHold := y.escHoldW, replayLimit := y.replayLimitW },
             marks := p.marks.map fun (m : MarkState) => { m with replays := 0 } }
  let s := endReleases s k applied s.parts[k].step.owners
  let s := if applied then s.parts[k].marks.foldl (holdLevel k s.parts[k].policy.escHold.toNat) s else s
  let s := { s with clusters := vmap s.clusters fun c => if c.part = some k then clusterStepEnd c applied else c }
  let s := clearAllTouched s k
  let s := if applied then s.modStep k fun t => { t with number := t.number + 1 } else s
  beginStep (raisePart (updateSignal s k) k 3) k

/-- A skipped step: by the OR, or by the combined norm (R322, R356). -/
def skipStep (s : State) (k : Pt) : State :=
  let s := s.count k fun c => { c with stepsSkipped := satAdd c.stepsSkipped 1 }
  let t := s.parts[k].step
  let s := if t.combined.isSome then noteSkipped s k 0x10 t.partial_.nf else noteSkipped s k t.nfCauses t.localNf
  endStep s k false

/-- The step end of one partition. A torn update leaves the step number, and no step has ended (R378). -/
def stepBoundary (s : State) (k : Pt) : State :=
  let s := takeNorm s k
  match s.parts[k].step.phase with
  | .applied => endStep s k true
  | .skipped => skipStep s k
  | .torn => beginStep s k
  | _ => s

def action4 (s : State) : State :=
  let s := moveCellarPorts (cellarNotices s)
  let s := allPts.foldl stepBoundary s
  allPts.foldl sealDue (allPts.foldl activateImages (allPss.foldl pressBoundary s))

/-! ## Actions 6 and 8 -/

/-- The rind gate tries the releases it holds again (R668), released data reaches its consumers, and commands that waited for an object
or a place go on. -/
def action6 (s : State) : State :=
  let s := { s with parts := vmap s.parts fun p => { p with session := { p.session with releases := p.session.releases.map fun (r : Release) => { r with held := false } } } }
  let s := retryStalled (allTcs.foldl serveWindow (applyReleased (allPts.foldl retryHeads s)))
  allPts.foldl tryReplay s

/-- The control slot opens (R458). -/
def action8 (s : State) : State := settle (openControlSlot s)

/-- The actions 3 to 8: `tick` is the tick that has ended, `mhz` the compute clock in it. -/
def laterActions (tick : W64) (mhz : BitVec 16) (b : BoundaryIn) (s : State) : State :=
  action8 (latchTelemetry tick mhz b (action6 (powerDecisions (action4 (action3 s)) b)))

/-- TICK_BOUNDARY (R50). A module in reset or without power has no ticks. A life-cycle change restarts the SC with a module
reset, and the boundary goes no further (R590). -/
def execTickBoundary (b : BoundaryIn) (s : State) : Out :=
  .next (if s.pins.perst || !s.power.pwrgd then s
    else
      let t := applyChange (action1 b.cellErrors s)
      if t.pins.perst then raiseChanges s t
      else settled s (laterActions s.meridian.tick s.power.mhz b (action2 t)))

end Sys2Proof.Machine
end

