-- ==== Sys2Proof/Machine/Odp.lean ====
section
/-! DEFINITION. The object dictionary protocol: frames, sessions, operations and the routing of ODP flits
(spec/13_object_dictionary.md R616–R637, R765). -/

namespace Sys2Proof.Machine

open Sys2Proof

/-! ## Frames (R616, R618, R619) -/

structure Frame where
  op      : Nat
  seq     : BitVec 16
  session : BitVec 16
  index   : Nat
  sub     : Nat
  typ     : Nat
  offset  : Nat
  data    : Bytes

/-- A frame whose version, length and check hold; none for one that is dropped (R618). -/
def parseFrame (bs : Bytes) : Option Frame :=
  let n := numAt bs 12 4
  if bs.length ≠ 24 + n ∨ byteAt bs 0 ≠ 1 ∨ numAt bs (20 + n) 4 ≠ (crc32c (bs.take (20 + n))).toNat then none
  else some { op := (byteAt bs 1).toNat, seq := BitVec.ofNat 16 (numAt bs 2 2), session := BitVec.ofNat 16 (numAt bs 4 2),
              index := numAt bs 8 2, sub := (byteAt bs 10).toNat, typ := (byteAt bs 11).toNat, offset := numAt bs 16 4,
              data := slice bs 20 n }

/-- What an operation answers: status, MORE, type and data. -/
structure Answer where
  status : Nat
  more   : Bool := false
  typ    : Nat := 0
  data   : Bytes := []

/-- The bytes of a response. -/
def responseBytes (f : Frame) (session : BitVec 16) (a : Answer) : Bytes :=
  let h := [1, BitVec.ofNat 8 (f.op ||| 0x80)] ++ reg 2 f.seq ++ reg 2 session ++ [BitVec.ofNat 8 a.status, if a.more then 1 else 0] ++
    leBytes 2 f.index ++ leBytes 1 f.sub ++ leBytes 1 a.typ ++ leBytes 4 a.data.length ++ leBytes 4 f.offset ++ a.data
  h ++ reg 4 (crc32c h)

/-- The largest LENGTH of a transport (R619). -/
def largestOf : OdpSrc → Nat
  | .mgmt _ _ => 1448
  | .mgmtSpdm _ => 1000
  | .mctp _ => 1000
  | .mctpSpdm _ => 1000
  | .link .. => 180

/-- The transport's code and the source of R636. -/
def srcCode : OdpSrc → Nat
  | .mgmt _ _ => 0
  | .mgmtSpdm _ => 1
  | .mctp _ => 2
  | .mctpSpdm _ => 3
  | .link .. => 4

def srcLow (s : State) : OdpSrc → Nat
  | .mgmt ip _ => ip.toNat % 65536
  | .mctp eid => eid.toNat
  | .link d .. => d.toNat
  | o => match secureConn s o with | some c => c.addr.toNat % 65536 | none => 0

/-- The dictionary is served from stage 4 on, and in recovery (R597, R602). -/
def odpUp (s : State) : Bool := !s.pins.perst && (decide (4 ≤ s.sc.stage.toNat) || s.sc.recovery)

/-- Does the transport bring the request to the dictionary (R621, R625)? -/
def arrives (s : State) (o : OdpSrc) : Bool :=
  odpUp s && match o with
    | .mgmt _ _ => true
    | .mctp _ => s.dict.eid.isSome
    | .link d via .. => d == s.links.lodestar && s.links.locked && s.ports[via].isUp
    | .mctpSpdm _ => s.dict.eid.isSome && (secureConn s o).isSome
    | .mgmtSpdm _ => (secureConn s o).isSome

/-- The port on which an ODP flit brings a request. -/
def viaPort : OdpSrc → Option Lp
  | .link _ via .. => some via
  | _ => none

/-- Has the port of the flit taken the eight ODP flits of this control slot (R434)? -/
def overOdpLimit (s : State) (o : OdpSrc) : Bool := (viaPort o).any fun p => decide (8 ≤ s.ports[p].odpCount)

/-- An ODP flit has arrived: one more in this control slot. -/
def countOdp (s : State) (o : OdpSrc) : State :=
  match viaPort o with
  | some p => s.modPort p fun x => { x with odpCount := x.odpCount + 1 }
  | none => s

/-- A ninth ODP flit of a control slot is dropped, with a strike (R434). -/
def strikeOdp (s : State) (o : OdpSrc) : State :=
  match viaPort o with
  | some p => raiseChanges s (strike s p)
  | none => s

/-- An ODP flit leaves on a port; eight go in a control slot (R434, R625). -/
def queueOdp (s : State) (p : Lp) (b : Bytes) : State := { s with dict := { s.dict with odpOut := s.dict.odpOut ++ [(p, b)] } }

/-- The flit of a response: the PATH reversed and the same HOPS (R622, R623). -/
def responseFlit (s : State) (dest : BitVec 16) (hops : Byte) (back body : Bytes) : Bytes :=
  slice ([2, 0, 0] ++ reg 2 dest ++ reg 2 s.links.deviceId ++ [hops] ++ slice back 0 12 ++ body) 0 224

/-- A message leaves. -/
def sendOut (s : State) (bs : Bytes) : State := { s with dict := { s.dict with out := s.dict.out ++ [bs] } }

/-- A response leaves for the source of its request; to a link, in an ODP flit on the port on which the request came (R623, R624). -/
def respond (s : State) (o : OdpSrc) (bs : Bytes) : State :=
  let s := sendOut s bs
  match o with
  | .link dev via hops path => queueOdp s via (responseFlit s dev hops (path.take hops.toNat).reverse bs)
  | _ => s

/-! ## Sessions (R626–R630, R765) -/

def setSession (s : State) (x : OdpSession) : State :=
  { s with dict := { s.dict with sessions := s.dict.sessions.map fun y => if y.id = x.id then x else y } }

def endOdpSession (s : State) (id : BitVec 16) : State :=
  { s with dict := { s.dict with sessions := s.dict.sessions.filter fun y => y.id != id } }

/-- May a source open a party session of partition k (R628)? -/
def partyMayOpen (s : State) (o : OdpSrc) (k : Pt) : Bool :=
  s.parts[k].conf && (partyIndex s.parts[k].session.manifest (requesterOf s o)).isSome

/-- The source to which a session is bound: of a link, SRC alone (R626). -/
def boundSrc : OdpSrc → OdpSrc
  | .link dev .. => .link dev 0 0 []
  | o => o

/-- The session that a request names from its source. -/
def sessionOf (s : State) (o : OdpSrc) (f : Frame) : Option OdpSession :=
  s.dict.sessions.find? fun y => y.id == f.session && y.src == boundSrc o

/-- A request flit of a port that is UP which the device does not accept (R625) takes its place among the eight of the control slot all the
same (R434). -/
def stray (s : State) (o : OdpSrc) : State :=
  if (viaPort o).any fun p => s.links.locked && s.ports[p].isUp && !s.pins.perst then
    (if overOdpLimit s o then strikeOdp s o else countOdp s o)
  else s

/-- One request: dropped where the frame is bad (R618); otherwise served. -/
def withFrame (o : OdpSrc) (frame : Bytes) (mine : Frame → Bool) (go : State → Frame → State) (s : State) : State :=
  if !arrives s o then stray s o
  else
    match parseFrame frame with
    | none => if overOdpLimit s o then strikeOdp s o else { countOdp s o with dict := { s.dict with dropped := satAdd s.dict.dropped 1 } }
    | some f => if !mine f then s else if overOdpLimit s o then strikeOdp s o else settled s (go (countOdp s o) f)

/-- A request within a session: the kept response for a SEQ that was served, else the operation (R626, R630). -/
def served (o : OdpSrc) (body : State → OdpSession → Frame → State × Answer) (s : State) (f : Frame) : State :=
  match sessionOf s o f with
  | none => respond s o (responseBytes f f.session { status := 0x0C })
  | some x =>
    if x.lastSeq = some f.seq then respond s o x.lastResp
    else
      let (s, a) := body s x f
      let bs := responseBytes f f.session a
      let s := match s.dict.sessions.find? fun y => y.id == x.id with
        | some y => setSession s { y with lastSeq := some f.seq, lastResp := bs }
        | none => s
      respond s o bs

/-- The operations that R617 leaves reserved, and those that use no session and travel in link control slots only. -/
def reservedOp (op : Nat) : Bool := op == 0 || decide (9 < op)

/-! ## The checks of an entry (R635) -/

/-- In recovery only identity and life cycle are answered (R602). -/
def inRecovery (s : State) (a : Area) : Bool := !s.sc.recovery || a == .ident || a == .lifeCycle

/-- Another session stages a write to the entry (R633). -/
def stagedElsewhere (s : State) (x : OdpSession) (a : Area) (f : Frame) : Bool :=
  s.dict.sessions.any fun y => y.id != x.id && (!instanced a || y.part == x.part) &&
    y.staging.any fun e => e.1.toNat == f.index && e.2.1.toNat == f.sub

/-- What an access is for. -/
inductive Use where
  | read
  | write
  | stage
  | describe
deriving DecidableEq, Repr

/-- Is it a write, of the value or of a segment of it? -/
def Use.writes (u : Use) : Bool := u == .write || u == .stage

/-- Checks 3 to 11 in their order: the failing status, or the entry. -/
def entryCheck (s : State) (x : OdpSession) (f : Frame) (u : Use) : Except Nat (Area × Row) :=
  match areaOf f.index with
  | none => .error 0x01
  | some a =>
    if u.writes && (busyEntry s a f.sub || (u == .stage && stagedElsewhere s x a f)) then .error 0x0D
    else
      match (if inRecovery s a then entryRow a f.sub else none) with
      | none => .error 0x01
      | some r =>
        if unitAbsent s a then .error 0x02
        else if instanced a ∧ x.part = none then .error 0x14
        else if confDenied s x u.writes a f.sub then .error 0x0B
        else if u.writes ∧ (r.acc = .ro ∨ r.acc = .const) then .error 0x03
        else if u = .read ∧ r.acc = .wo then .error 0x04
        else if u.writes ∧ r.acc = .arm then .error 0x05
        else if f.typ ≠ 0 ∧ f.typ ≠ r.typ.code then .error 0x06
        else if largestOf x.src < f.data.length then .error 0x07
        else .ok (a, r)

/-- A direct write to an ARM entry is logged and counted (R636). -/
def noteArm (s : State) (o : OdpSrc) (f : Frame) : State :=
  let s := { s with change := { s.change with armWrites := satAdd s.change.armWrites 1 } }
  noteOp s 0x46 (srcCode o) f.index (f.sub + srcLow s o * 2 ^ 16)

/-- The failing answer of a write. -/
def writeFail (s : State) (x : OdpSession) (f : Frame) (st : Nat) : State × Answer :=
  (if st = 0x05 then noteArm s x.src f else s, { status := st })

/-! ## The operations (R617, R633, R634) -/

def opRead (s : State) (x : OdpSession) (f : Frame) : State × Answer :=
  match entryCheck s x f .read with
  | .error st => (s, { status := st })
  | .ok (a, r) =>
    match takeValue s x a f.sub with
    | none => (s, { status := 0x15 })
    | some (s', v) =>
      if largestOf x.src < v.length then (s, { status := 0x07, typ := r.typ.code }) else (s', { status := 0, typ := r.typ.code, data := v })

/-- The bytes of a value from an offset, as many as the transport carries. -/
def segment (x : OdpSession) (r : Row) (v : Bytes) (o : Nat) : Answer :=
  { status := 0, more := decide (o + largestOf x.src < v.length), typ := r.typ.code, data := (v.drop o).take (largestOf x.src) }

def snapOf (x : OdpSession) (f : Frame) : Option Bytes :=
  (x.snaps.find? fun e => e.1.toNat == f.index && e.2.1.toNat == f.sub).map (·.2.2)

def opReadSeg (s : State) (x : OdpSession) (f : Frame) : State × Answer :=
  match entryCheck s x f .read with
  | .error st => (s, { status := st })
  | .ok (a, r) =>
    if f.offset = 0 then
      match takeValue s x a f.sub with
      | none => (s, { status := 0x15 })
      | some (s, v) =>
        let snaps := (x.snaps.filter fun e => !(e.1.toNat == f.index && e.2.1.toNat == f.sub)) ++ [(BitVec.ofNat 16 f.index, BitVec.ofNat 8 f.sub, v)]
        (setSession s { x with snaps := snaps }, segment x r v 0)
    else
      match snapOf x f with
      | none => (s, { status := 0x0E })
      | some v => if v.length < f.offset then (s, { status := 0x0E }) else (s, segment x r v f.offset)

/-- Checks from Length on, and the effect of a write of the whole value. -/
def writeValue (c : WriteCtx) (s : State) (x : OdpSession) (a : Area) (r : Row) (sub : Nat) (v : Bytes) : State × Answer :=
  if !r.typ.lengthOk v.length then (s, { status := 0x07 })
  else
    let (s, st) := writeEntry s c x a sub v
    (s, { status := st, typ := if st = 0 then r.typ.code else 0 })

def opWrite (c : WriteCtx) (s : State) (x : OdpSession) (f : Frame) : State × Answer :=
  match entryCheck s x f .write with
  | .error st => writeFail s x f st
  | .ok (a, r) => writeValue c s x a r f.sub f.data

/-- The bytes that the session has staged for the entry. -/
def stagedOf (x : OdpSession) (f : Frame) : Option Bytes :=
  (x.staging.find? fun e => e.1.toNat == f.index && e.2.1.toNat == f.sub).map (·.2.2)

def setStaged (x : OdpSession) (f : Frame) (v : Option Bytes) : OdpSession :=
  let rest := x.staging.filter fun e => !(e.1.toNat == f.index && e.2.1.toNat == f.sub)
  match v with
  | some v => { x with staging := rest ++ [(BitVec.ofNat 16 f.index, BitVec.ofNat 8 f.sub, v)] }
  | none => { x with staging := rest }

def opWriteSeg (s : State) (x : OdpSession) (f : Frame) : State × Answer :=
  match entryCheck s x f .stage with
  | .error st => writeFail s x f st
  | .ok (_, r) =>
    let old := (stagedOf x f).getD []
    if r.typ.largest < f.offset + f.data.length then (s, { status := 0x07 })
    else if f.offset ≠ 0 ∧ f.offset ≠ old.length then (s, { status := 0x0E })
    else (setSession s (setStaged x f (some ((if f.offset = 0 then [] else old) ++ f.data))), { status := 0, typ := r.typ.code })

/-- WRITE_END: the staged bytes as one write; they stay where it fails. -/
def opWriteEnd (c : WriteCtx) (s : State) (x : OdpSession) (f : Frame) : State × Answer :=
  match entryCheck s x f .write with
  | .error st => writeFail s x f st
  | .ok (a, r) =>
    let v := (stagedOf x f).getD []
    if f.data.length ≠ 4 ∨ !r.typ.lengthOk v.length then (s, { status := 0x07 })
    else if numAt f.data 0 4 ≠ v.length then (s, { status := 0x0E })
    else
      let (s, ans) := writeValue c s x a r f.sub v
      (if ans.status = 0 then setSession s (setStaged x f none) else s, ans)

def opDescribe (s : State) (x : OdpSession) (f : Frame) : State × Answer :=
  match entryCheck s x f .describe with
  | .error st => (s, { status := st })
  | .ok (a, r) =>
    let cur := if r.acc = .wo then 0 else if a = .session ∧ f.sub = 13 then
        (match x.part with
          | some k => let t := s.parts[k].session; if isAnchor s k && decide (2 ≤ t.state.toNat) then
              96 * (min t.transcript.length (t.fromEntry.toNat + 174760) - (t.fromEntry.toNat - 1)) + 96 else 0
          | none => 0)
      else (readEntry s x a f.sub).length
    (s, { status := 0, typ := r.typ.code,
          data := [BitVec.ofNat 8 r.typ.code, BitVec.ofNat 8 r.acc.code, 0, 0] ++ leBytes 4 cur ++ leBytes 4 r.typ.largest })

def opEcho (s : State) (x : OdpSession) (f : Frame) : State × Answer :=
  if largestOf x.src < f.data.length then (s, { status := 0x07 }) else (s, { status := 0, data := f.data })

/-- OPEN in the order of R765. -/
def openSession (o : OdpSrc) (s : State) (f : Frame) : State :=
  let role := (byteAt f.data 0).toNat
  let part := (byteAt f.data 1).toNat
  let fail := fun (st : Nat) => respond s o (responseBytes f f.session { status := st })
  if f.data.length ≠ 2 then fail 0x07
  else if 1 < role then fail 0x12
  else if 3 < part ∧ part ≠ 0xFF then fail 0x08
  else if 32 ≤ s.dict.sessions.length then fail 0x10
  else
    let k : Option Pt := if h : part < 4 then some ⟨part, h⟩ else none
    if role = 1 ∧ !(match k with | some k => partyMayOpen s o k | none => false) then fail 0x12
    else
      let id := ((List.range 33).find? fun i => decide (0 < i) && !(s.dict.sessions.any fun y => y.id.toNat == i)).getD 0
      let x : OdpSession := { id := BitVec.ofNat 16 id, src := boundSrc o, party := role == 1, part := k, lastSeq := none, lastResp := [],
                              staging := [], snaps := [] }
      let bs := responseBytes f x.id { status := 0, data := leBytes 2 (largestOf o) }
      respond { s with dict := { s.dict with sessions := s.dict.sessions ++ [{ x with lastSeq := some f.seq, lastResp := bs }] } } o bs

/-! ## Rows -/

/-- The entries whose writes are rows of their own. -/
def ownRow (f : Frame) : Bool :=
  [(0x1000, 10), (0x1100, 15), (0x2100, 1), (0x3100, 17), (0x4100, 17), (0x4100, 33), (0x4100, 49), (0x4100, 65), (0x5200, 2), (0x5200, 6),
   (0x6000, 7), (0x7100, 1), (0x7100, 2), (0x7F00, 1), (0x7F00, 7), (0x7F00, 8), (0x7F00, 9), (0x7F00, 10)].contains (f.index, f.sub)

/-- A WRITE or a WRITE_END of one entry. -/
def entryWrite (c : WriteCtx) (o : OdpSrc) (frame : Bytes) (mine : Frame → Bool) (s : State) : State :=
  withFrame o frame (fun f => (f.op == 4 || f.op == 7) && mine f)
    (fun s f => if f.op = 4 then served o (opWrite c) s f else served o (opWriteEnd c) s f) s

def named (idx sub : Nat) (f : Frame) : Bool := f.index == idx && f.sub == sub

/-- OPEN (R765). -/
def execOdpOpen (o : OdpSrc) (frame : Bytes) (s : State) : Out := .next (withFrame o frame (·.op == 1) (openSession o) s)

/-- CLOSE (R627). -/
def execOdpClose (o : OdpSrc) (frame : Bytes) (s : State) : Out :=
  .next (withFrame o frame (·.op == 2) (served o fun s x f =>
    if largestOf x.src < f.data.length then (s, { status := 0x07 }) else (endOdpSession s x.id, { status := 0 })) s)

/-- READ. -/
def execOdpRead (o : OdpSrc) (frame : Bytes) (s : State) : Out := .next (withFrame o frame (·.op == 3) (served o opRead) s)

/-- WRITE of an entry that has no row of its own. -/
def execOdpWrite (o : OdpSrc) (frame : Bytes) (s : State) : Out :=
  .next (withFrame o frame (fun f => f.op == 4 && !ownRow f) (served o (opWrite {})) s)

/-- READ_SEG (R634). -/
def execReadSeg (o : OdpSrc) (frame : Bytes) (s : State) : Out := .next (withFrame o frame (·.op == 5) (served o opReadSeg) s)

/-- WRITE_SEG (R633). -/
def execWriteSeg (o : OdpSrc) (frame : Bytes) (s : State) : Out := .next (withFrame o frame (·.op == 6) (served o opWriteSeg) s)

/-- WRITE_END of an entry that has no row of its own. -/
def execWriteEnd (o : OdpSrc) (frame : Bytes) (s : State) : Out :=
  .next (withFrame o frame (fun f => f.op == 7 && !ownRow f) (served o (opWriteEnd {})) s)

/-- DESCRIBE. -/
def execDescribe (o : OdpSrc) (frame : Bytes) (s : State) : Out := .next (withFrame o frame (·.op == 8) (served o opDescribe) s)

/-- ECHO. The row also carries the requests with a reserved operation, which no row names: bad-operation. -/
def execEcho (o : OdpSrc) (frame : Bytes) (s : State) : Out :=
  .next (withFrame o frame (fun f => f.op == 9 || reservedOp f.op)
    (fun s f => if reservedOp f.op then respond s o (responseBytes f f.session { status := 0x0F }) else served o opEcho s f) s)

/-- ODP_SESSION_TIMEOUT (R627). -/
def execOdpSessionTimeout (id : Nat) (s : State) : Out := .next (endOdpSession s (BitVec.ofNat 16 id))

/-- TICK_PERIOD_US (R46); refused while a confidential partition exists here or, as the operand says, on another device of the
constellation (R47). -/
def execTickPeriodUs (o : OdpSrc) (x : PeriodIn) (s : State) : Out :=
  .next (entryWrite { confElsewhere := x.confElsewhere } o x.frame (named 0x2100 1) s)

/-- Does the write of CONFIG_SAVE erase? -/
def erases (s : State) (o : OdpSrc) (f : Frame) : Bool :=
  (if f.op = 4 then f.data else ((sessionOf s o f).bind fun x => stagedOf x f).getD []) == [2]

/-- CONFIG_SAVE_STORE: a write of CONFIG_SAVE that does not erase (R613). -/
def execConfigSaveStore (o : OdpSrc) (frame : Bytes) (s : State) : Out :=
  .next (entryWrite {} o frame (fun f => named 0x1000 10 f && !erases s o f) s)

/-- CONFIG_SAVE_ERASE. -/
def execConfigSaveErase (o : OdpSrc) (frame : Bytes) (s : State) : Out :=
  .next (entryWrite {} o frame (fun f => named 0x1000 10 f && erases s o f) s)

/-- CONFIG_SAVE_COMPLETE. -/
def execConfigSaveComplete (s : State) : Out := .next { s with dict := { s.dict with saving := false } }

/-- KEY_DELIVER (R518). -/
def execKeyDeliver (o : OdpSrc) (frame : Bytes) (s : State) : Out := .next (entryWrite {} o frame (named 0x6000 7) s)

/-- CHANGE_SET (R646). -/
def execChangeSet (o : OdpSrc) (frame : Bytes) (s : State) : Out := .next (entryWrite {} o frame (named 0x7F00 1) s)

/-- OPERATOR_TOKEN (R644). -/
def execOperatorToken (o : OdpSrc) (frame : Bytes) (s : State) : Out := .next (entryWrite {} o frame (named 0x7F00 7) s)

/-- SESSION_APPROVAL (R645). -/
def execSessionApproval (o : OdpSrc) (frame : Bytes) (s : State) : Out := .next (entryWrite {} o frame (named 0x7F00 8) s)

/-- MEDRIELM_TOKEN (R644). -/
def execMedrielmToken (o : OdpSrc) (frame : Bytes) (s : State) : Out := .next (entryWrite {} o frame (named 0x7F00 9) s)

/-- CHANGE_ABORT (R647). -/
def execChangeAbort (o : OdpSrc) (frame : Bytes) (s : State) : Out := .next (entryWrite {} o frame (named 0x7F00 10) s)

/-- STEP_NUMBER (R361). -/
def execStepNumber (o : OdpSrc) (frame : Bytes) (s : State) : Out := .next (entryWrite {} o frame (named 0x5200 2) s)

/-- SR_SEED (R364). -/
def execSrSeed (o : OdpSrc) (frame : Bytes) (s : State) : Out := .next (entryWrite {} o frame (named 0x5200 6) s)

/-- JOB_SIZE (R471). -/
def execJobSize (o : OdpSrc) (frame : Bytes) (standbyAck : Bool) (s : State) : Out :=
  .next (entryWrite { ack := standbyAck } o frame (named 0x3100 17) s)

/-- POOL_QUOTA (R403). -/
def execPoolQuota (o : OdpSrc) (frame : Bytes) (s : State) : Out :=
  .next (entryWrite {} o frame (fun f => f.index == 0x4100 && [17, 33, 49, 65].contains f.sub) s)

/-- RECOVERY_IMAGE (R602). -/
def execRecoveryImage (o : OdpSrc) (frame : Bytes) (img : ImageInfo) (s : State) : Out :=
  .next (entryWrite { img := some img } o frame (named 0x1100 15) s)

/-- TEST_REQUEST (R723). -/
def execTestRequest (o : OdpSrc) (frame : Bytes) (contentOk : Bool) (s : State) : Out :=
  .next (entryWrite { content := some contentOk } o frame (named 0x7100 1) s)

/-- TEST_ABORT (R729). -/
def execTestAbort (o : OdpSrc) (x : AbortIn) (s : State) : Out := .next (entryWrite { tested := x.tested } o x.frame (named 0x7100 2) s)

/-! ## Routing (R622–R625) -/

def odpDir (b : Bytes) : Nat := (byteAt b 0).toNat
def odpDest (b : Bytes) : Nat := numAt b 3 2
def odpSrcId (b : Bytes) : Nat := numAt b 5 2
def odpHops (b : Bytes) : Nat := (byteAt b 7).toNat

/-- The route status that the device which drops a request returns to SRC, on the port on which it came: the frame's response,
on the reversed route, with the same HOPS. -/
def routeResponse (s : State) (p : Lp) (hop : Nat) (b : Bytes) : State :=
  if odpDir b ≠ 1 then s
  else
    match parseFrame (slice b 20 (24 + numAt b 32 4)) with
    | none => s
    | some f =>
      let back := (List.range hop).reverse.map fun i => byteAt b (8 + i)
      let body := responseBytes f f.session { status := 0x13 }
      queueOdp s p (responseFlit s (BitVec.ofNat 16 (odpSrcId b)) (byteAt b 7) back body)

/-- A flit that cannot go on is dropped and counted. -/
def routeDrop (s : State) (p : Lp) (hop : Nat) (b : Bytes) : State :=
  routeResponse { s with dict := { s.dict with routeDrops := satAdd s.dict.routeDrops 1 } } p hop b

/-- The flit on each of the ports that are UP; dropped on the others. -/
def forwardOn (s : State) (p : Lp) (hop : Nat) (outs : List Lp) (b : Bytes) : State :=
  outs.foldl (fun s q => if s.ports[q].isUp then queueOdp s q b else routeDrop s p hop b) s

/-- ODP_FORWARD: along PATH, the byte of the hop overwritten with the arrival port, or along the control tree: a request and a
JOIN from parent to children, a response and its answer from child to parent (notes/assumptions/67.md). -/
def execOdpForward (p : Lp) (hop : Nat) (flit : Bytes) (s : State) : Out :=
  .next (if !s.links.locked || !s.ports[p].isUp then s
    else if 8 ≤ s.ports[p].odpCount then raiseChanges s (strike s p)
    else
      let s := s.modPort p fun x => { x with odpCount := x.odpCount + 1 }
      let b := slice flit 0 224
      let dir := odpDir b
      if odpHops b = 0xFF then
        let outs := if dir = 1 ∨ dir = 3 then allLps.filter fun q => s.ports[q].treeChild && q != p
          else allLps.filter fun q => s.ports[q].treeParent && q != p
        forwardOn s p 0 outs b
      else if odpDest b = s.links.deviceId.toNat then s
      else if 12 < odpHops b ∨ odpHops b ≤ hop then routeDrop s p hop b
      else
        match allLps.find? fun q => (byteAt b (8 + hop)).toNat == q.1 with
        | some q => forwardOn s p hop [q] (splice b (8 + hop) (leBytes 1 p.1))
        | none => routeDrop s p hop b)

end Sys2Proof.Machine
end

