-- ==== Sys2Proof/Machine/Pins.lean ====
section
/-! DEFINITION. The tick pin, the TDISP assignment of a virtual function, and the test access port
(spec/17_module_interface.md R747–R752, spec/11_confidential_computing.md R559). -/

namespace Sys2Proof.Machine

open Sys2Proof

/-- TICK_IO_EDGE: a falling edge while the tick input is enabled; `grains` meridian grains of 0.8 ns after the boundary of the
current tick, or in the grain of that boundary: the edge then follows the TICK_BOUNDARY it falls together with, and latches the new tick
with offset 0. At most one edge a microsecond is latched (R747). -/
def execTickIoEdge (grains : Nat) (withBoundary withinUs : Bool) (s : State) : Out :=
  .next (if s.pins.perst || !bit s.pins.tickMode 1 || withinUs then s
    else
      let off := if withBoundary then 0 else 800 * grains
      let p := s.pins
      { s with pins := { p with capTick := s.meridian.tick, capOffset := BitVec.ofNat 32 off, capCount := p.capCount + 1 } })

/-- TDISP_ASSIGN: the VF of an existing partition is assigned, or its assignment ends. -/
def execTdispAssign (k : Pt) (assigned : Bool) (s : State) : Out :=
  .next (if s.parts[k].live then s.modPart k fun p => { p with vfAssigned := assigned } else s)

/-! ## JTAG (R749–R752) -/

/-- The states in which SAMPLE/PRELOAD and EXTEST are permitted. -/
def boundaryAllowed (s : State) : Bool := [0, 1, 2, 3, 4, 6].contains s.sc.lc.toNat

/-- The states in which the Medrielm instructions are permitted. -/
def medrielmAllowed (s : State) : Bool := [0, 2, 6].contains s.sc.lc.toNat

/-- IDCODE (R751): LC, PART, MANUFACTURER, 1. -/
def idcodeWord (s : State) : W32 :=
  let lc := if s.sc.lc = 7 then 15 else s.sc.lc.toNat % 16
  BitVec.ofNat 32 (lc * 2 ^ 28 + 0x5F08 * 2 ^ 12 + Config.jep106.toNat * 2 + 1)

/-- An instruction other than EXTEST becomes current. Leaving EXTEST counts as the release of PERST_N: what R742 and R745
then start comes with PERST_N_RELEASE. -/
def selectIr (s : State) (code : Byte) (dr : W32) : State :=
  { s with pins := { s.pins with jtagIr := code, jtagDr := dr, extest := false } }

/-- The bypass register, which captures 0. -/
def selectBypass (s : State) : State := selectIr s 0xFF 0

def execIdcode (s : State) : Out := .next (selectIr s 0x01 (idcodeWord s))

def execBypass (s : State) : Out := .next (selectBypass s)

/-- SAMPLE/PRELOAD: `shiftIn` is what is shifted into the boundary register. -/
def execSamplePreload (shiftIn : Bytes) (s : State) : Out :=
  .next (if boundaryAllowed s then
      let s := selectIr s 0x02 0
      { s with pins := { s.pins with boundary := shiftIn } }
    else selectBypass s)

/-- EXTEST: the module is held as if PERST_N were asserted. -/
def execExtest (s : State) : Out :=
  .next (if !boundaryAllowed s then selectBypass s
    else
      let s := if s.pins.extest then s else resetUnits s
      { s with pins := { s.pins with jtagIr := 0x03, jtagDr := 0, extest := true } })

/-- A Medrielm instruction, where the life-cycle state permits it; what it then does is Medrielm's (notes/assumptions/55.md). -/
def execMedrielmTest (code : Byte) (s : State) : Out :=
  .next (if decide (0x10 ≤ code.toNat) && decide (code.toNat ≤ 0xFE) && medrielmAllowed s then selectIr s code 0 else selectBypass s)

/-- TEST_LOGIC_RESET selects IDCODE. -/
def execTestLogicReset (s : State) : Out := .next (selectIr s 0x01 (idcodeWord s))

end Sys2Proof.Machine
end

