-- ==== Sys2Proof/Machine/Spdm.lean ====
section
/-! DEFINITION. SPDM as the device supports it, and what the management port and the MCTP endpoint answer
(spec/11_confidential_computing.md R516, R517; spec/13_object_dictionary.md R620, R621). The layout of SPDM messages is not in
the spec: an answer is recorded as its contents (notes/assumptions/68.md). -/

namespace Sys2Proof.Machine

open Sys2Proof

def connOf (s : State) (m : SpdmMsg) : Option SpdmConn := s.spdm.find? fun (c : SpdmConn) => c.conn == m.conn && c.overUdp == m.overUdp

def dropConn (s : State) (m : SpdmMsg) : State :=
  { s with spdm := s.spdm.filter fun (c : SpdmConn) => !(c.conn == m.conn && c.overUdp == m.overUdp) }

def setConn (s : State) (c : SpdmConn) : State :=
  { s with spdm := (s.spdm.filter fun (x : SpdmConn) => !(x.conn == c.conn && x.overUdp == c.overUdp)) ++ [c] }

/-- SPDM is served from stage 4 on (R597), over MCTP once an endpoint ID is assigned (R621). -/
def spdmUp (s : State) (m : SpdmMsg) : Bool := !s.pins.perst && decide (4 ≤ s.sc.stage.toNat) && (m.overUdp || s.dict.eid.isSome)

/-- The ODP sessions that the secure session carries end with it (R627). -/
def endCarried (s : State) (m : SpdmMsg) : State :=
  let src : OdpSrc := if m.overUdp then .mgmtSpdm m.conn else .mctpSpdm m.conn
  { s with dict := { s.dict with sessions := s.dict.sessions.filter fun (x : OdpSession) => x.src != src } }

/-- A message of a connection that has come at least as far as a stage. -/
def atStage (s : State) (m : SpdmMsg) (n : Nat) (go : SpdmConn → State) : State :=
  if !spdmUp s m then s
  else match connOf s m with | some c => if n ≤ c.stage then go c else s | none => s

/-- The confidential partition whose blocks a measurement reads: the requester's, else the lowest (notes/assumptions/68.md). -/
def measuredPart (s : State) (key : Bytes) : Option Pt :=
  let confs := allPts.filter fun k => s.parts[k].conf
  match confs.find? fun k => (partyIndex s.parts[k].session.manifest key).isSome with
  | some k => some k
  | none => confs.head?

/-- The blocks of R517. -/
def measurementBlocks (s : State) (key : Bytes) : List Bytes :=
  let zero := List.replicate 48 (0 : Byte)
  let k := measuredPart s key
  let md := match k with | some k => s.parts[k].session.digest | none => zero
  let pm := match k with | some k => s.parts[k].session.pm | none => zero
  let tk := match k with | some k => s.parts[k].session.pubKey | none => List.replicate 96 0
  [s.sc.romDigest, s.sc.sfwDigest, s.sc.dfwDigest, md, pm, tk]

/-- Is the key a party key of a session manifest on the device (R516)? -/
def isPartyKey (s : State) (key : Bytes) : Bool := allPts.any fun k => s.parts[k].conf && (partyIndex s.parts[k].session.manifest key).isSome

/-- GET_VERSION: the connection starts anew. -/
def execGetVersion (m : SpdmMsg) (s : State) : Out :=
  .next (if spdmUp s m then
      sendOut (setConn (endCarried s m) { conn := m.conn, overUdp := m.overUdp, addr := m.addr, stage := 1, requester := [], secure := false, updates := 0 }) (ascii "SPDM1.2")
    else s)

/-- GET_CAPABILITIES: answered with the options of R516. -/
def execGetCapabilities (m : SpdmMsg) (s : State) : Out :=
  .next (atStage s m 1 fun c => sendOut (setConn s { c with stage := max c.stage 2 }) (ascii "CERTIFICATE, MEASUREMENTS, KEY_EXCHANGE, KEY_UPDATE, HEARTBEAT, mutual authentication"))

/-- NEGOTIATE_ALGORITHMS: the algorithms of R516, where the requester offers them; the device supports no others and refuses the rest. -/
def execNegotiateAlgorithms (m : SpdmMsg) (s : State) : Out :=
  .next (atStage s m 2 fun c =>
    if m.verdict then sendOut (setConn s { c with stage := max c.stage 3 }) (ascii "ECDSA P-384, SHA-384, DHE secp384r1, AES-256-GCM")
    else sendOut s (ascii "ERROR"))

/-- GET_DIGESTS: the digest of slot 0. -/
def execGetDigests (m : SpdmMsg) (s : State) : Out := .next (atStage s m 3 fun _ => sendOut s (sha384 (certChainOf s)))

/-- GET_CERTIFICATE: the chain of slot 0. -/
def execGetCertificate (m : SpdmMsg) (s : State) : Out := .next (atStage s m 3 fun _ => sendOut s (certChainOf s))

/-- GET_MEASUREMENTS: the blocks, signed by the attestation key over the requester's nonce (R517); none without entropy. -/
def execGetMeasurements (m : SpdmMsg) (s : State) : Out :=
  .next (atStage s m 3 fun c =>
    if entropyStopped s then s
    else
      let body := (measurementBlocks s c.requester).flatten
      let (s, k) := s.draw 56
      let (d, _) := keyPair (slot s 5).key
      sendOut s (body ++ ecdsaSign d (sha384 (m.payload ++ body)) (beNat k % (p384n - 1) + 1)))

/-- KEY_EXCHANGE: an ephemeral key is drawn. -/
def execKeyExchange (m : SpdmMsg) (s : State) : Out :=
  .next (atStage s m 3 fun c =>
    if entropyStopped s then s
    else
      let (s, k) := s.draw 56
      sendOut (setConn (endCarried s m) { c with stage := 4, secure := false, requester := [] }) (keyPair k).2)

/-- FINISH: the secure session opens for a party key of a manifest, and for no other. -/
def execSpdmFinish (m : SpdmMsg) (s : State) : Out :=
  .next (atStage s m 4 fun c =>
    if c.stage = 4 ∧ m.verdict ∧ isPartyKey s m.requester then setConn s { c with stage := 5, secure := true, requester := m.requester } else s)

/-- KEY_UPDATE. -/
def execKeyUpdate (m : SpdmMsg) (s : State) : Out :=
  .next (atStage s m 5 fun c => if m.verdict then setConn s { c with updates := c.updates + 1 } else s)

/-- HEARTBEAT: answered, and nothing changes. -/
def execHeartbeat (m : SpdmMsg) (s : State) : Out := .next (atStage s m 5 fun _ => sendOut s [])

/-- END_SESSION. -/
def execEndSession (m : SpdmMsg) (s : State) : Out := .next (atStage s m 5 fun _ => dropConn (endCarried s m) m)

/-- ARP for the port's IPv4 address: answered with its MAC address (R620). -/
def execArp (target : W32) (s : State) : Out :=
  .next (if odpUp s && target == mgmtAddr s then sendOut s (readIdent s 16) else s)

/-- ICMP echo: the same data (R620). -/
def execIcmpEcho (target : W32) (data : Bytes) (s : State) : Out :=
  .next (if odpUp s && target == mgmtAddr s then sendOut s data else s)

/-- MCTP control: the bus owner assigns the endpoint ID (R621). -/
def execMctpControl (setEid : Option Byte) (s : State) : Out :=
  .next (if odpUp s then
      sendOut (match setEid with | some e => { s with dict := { s.dict with eid := some e } } | none => s) []
    else s)

end Sys2Proof.Machine
end

