-- ==== Sys2Proof/Machine/Dispatch.lean ====
section
/-! DEFINITION. The dispatch of a command to its meaning, one arm per row of spec/opcode_table.json. -/

namespace Sys2Proof.Machine

open Sys2Proof

def exec (i : Instr) (s : State) : Host.Outcome State Fault Refusal :=
  match i with
  | .tickBoundary b => Sys2Proof.Machine.execTickBoundary b s
  | .workItemDispatch c t => Sys2Proof.Machine.execWorkItemDispatch c t s
  | .budgetOverrun c eng => Sys2Proof.Machine.execBudgetOverrun c eng s
  | .partCreate e record => Sys2Proof.Machine.execPartCreate e record s
  | .partDestroy e => Sys2Proof.Machine.execPartDestroy e s
  | .partDestroyComplete k rings => Sys2Proof.Machine.execPartDestroyComplete k rings s
  | .create k e object => Sys2Proof.Machine.execCreate k e object s
  | .destroy k e => Sys2Proof.Machine.execDestroy k e s
  | .destroyComplete handle => Sys2Proof.Machine.execDestroyComplete handle s
  | .seqCtxWrite k e ctx => Sys2Proof.Machine.execSeqCtxWrite k e ctx s
  | .memAlloc k e => Sys2Proof.Machine.execMemAlloc k e s
  | .memAllocComplete k tag => Sys2Proof.Machine.execMemAllocComplete k tag s
  | .memSeal k e => Sys2Proof.Machine.execMemSeal k e s
  | .memFree k e => Sys2Proof.Machine.execMemFree k e s
  | .cellarCopy k e => Sys2Proof.Machine.execCellarCopy k e s
  | .cacheFill k e => Sys2Proof.Machine.execCacheFill k e s
  | .cacheDrop k e => Sys2Proof.Machine.execCacheDrop k e s
  | .cachePageRefill k obj r => Sys2Proof.Machine.execCachePageRefill k obj r s
  | .pressLoad k e => Sys2Proof.Machine.execPressLoad k e s
  | .keyNew k e parentDies => Sys2Proof.Machine.execKeyNew k e parentDies s
  | .keyDestroy k e => Sys2Proof.Machine.execKeyDestroy k e s
  | .slotSweep => Sys2Proof.Machine.execSlotSweep s
  | .imp k e => Sys2Proof.Machine.execImp k e s
  | .exp k e => Sys2Proof.Machine.execExp k e s
  | .sessionSeal k e => Sys2Proof.Machine.execSessionSeal k e s
  | .sessionSealComplete k => Sys2Proof.Machine.execSessionSealComplete k s
  | .sessionClose q e => Sys2Proof.Machine.execSessionClose q e s
  | .sqRun k j e items => Sys2Proof.Machine.execSqRun k j e items s
  | .move k j e => Sys2Proof.Machine.execMove k j e s
  | .unitBegin k j e => Sys2Proof.Machine.execUnitBegin k j e s
  | .unitCapture k mark => Sys2Proof.Machine.execUnitCapture k mark s
  | .unitEnd k j e => Sys2Proof.Machine.execUnitEnd k j e s
  | .unitComplete k mark => Sys2Proof.Machine.execUnitComplete k mark s
  | .unitRetire k mark => Sys2Proof.Machine.execUnitRetire k mark s
  | .unitLateRevoke k mark => Sys2Proof.Machine.execUnitLateRevoke k mark s
  | .stepFence k j e => Sys2Proof.Machine.execStepFence k j e s
  | .computePhaseEnd k => Sys2Proof.Machine.execComputePhaseEnd k s
  | .linkGo k j e => Sys2Proof.Machine.execLinkGo k j e s
  | .release k j e => Sys2Proof.Machine.execRelease k j e s
  | .gateRelease k => Sys2Proof.Machine.execGateRelease k s
  | .signal o => Sys2Proof.Machine.execSignal o s
  | .wait o => Sys2Proof.Machine.execWait o s
  | .waitTimeout id sameClock => Sys2Proof.Machine.execWaitTimeout id sameClock s
  | .mma c w t => Sys2Proof.Machine.execMma c w t s
  | .estReset c w t => Sys2Proof.Machine.execEstReset c w t s
  | .drain c => Sys2Proof.Machine.execDrain c s
  | .checkVerdict c mismatch => Sys2Proof.Machine.execCheckVerdict c mismatch s
  | .imageWrite c addr image => Sys2Proof.Machine.execImageWrite c addr image s
  | .imageRead c addr dst => Sys2Proof.Machine.execImageRead c addr dst s
  | .vexec c w t => Sys2Proof.Machine.execVexec c w t s
  | .vnop u f => Sys2Proof.Machine.execVnop u f s
  | .vend u f => Sys2Proof.Machine.execVend u f s
  | .vsetvl u f => Sys2Proof.Machine.execVsetvl u f s
  | .vloop u f => Sys2Proof.Machine.execVloop u f s
  | .vsli u f => Sys2Proof.Machine.execVsli u f s
  | .vsadd u f => Sys2Proof.Machine.execVsadd u f s
  | .vsmul u f => Sys2Proof.Machine.execVsmul u f s
  | .vfrd u f => Sys2Proof.Machine.execVfrd u f s
  | .vfclr u f => Sys2Proof.Machine.execVfclr u f s
  | .vmvs u f => Sys2Proof.Machine.execVmvs u f s
  | .vmvv u f => Sys2Proof.Machine.execVmvv u f s
  | .vadd u f => Sys2Proof.Machine.execVadd u f s
  | .vsub u f => Sys2Proof.Machine.execVsub u f s
  | .vmul u f => Sys2Proof.Machine.execVmul u f s
  | .vfma u f => Sys2Proof.Machine.execVfma u f s
  | .vfnma u f => Sys2Proof.Machine.execVfnma u f s
  | .vmax u f => Sys2Proof.Machine.execVmax u f s
  | .vmin u f => Sys2Proof.Machine.execVmin u f s
  | .vabs u f => Sys2Proof.Machine.execVabs u f s
  | .vneg u f => Sys2Proof.Machine.execVneg u f s
  | .vdiv u f => Sys2Proof.Machine.execVdiv u f s
  | .vsqrt u f => Sys2Proof.Machine.execVsqrt u f s
  | .vexp2 u f => Sys2Proof.Machine.execVexp2 u f s
  | .vlog2 u f => Sys2Proof.Machine.execVlog2 u f s
  | .vadds u f => Sys2Proof.Machine.execVadds u f s
  | .vsel u f => Sys2Proof.Machine.execVsel u f s
  | .vand u f => Sys2Proof.Machine.execVand u f s
  | .vor u f => Sys2Proof.Machine.execVor u f s
  | .vxor u f => Sys2Proof.Machine.execVxor u f s
  | .vshl u f => Sys2Proof.Machine.execVshl u f s
  | .vshr u f => Sys2Proof.Machine.execVshr u f s
  | .vsra u f => Sys2Proof.Machine.execVsra u f s
  | .viota u f => Sys2Proof.Machine.execViota u f s
  | .vcvt u f => Sys2Proof.Machine.execVcvt u f s
  | .vpack u f => Sys2Proof.Machine.execVpack u f s
  | .vunpk u f => Sys2Proof.Machine.execVunpk u f s
  | .vcmpeq u f => Sys2Proof.Machine.execVcmpeq u f s
  | .vcmpne u f => Sys2Proof.Machine.execVcmpne u f s
  | .vcmplt u f => Sys2Proof.Machine.execVcmplt u f s
  | .vcmple u f => Sys2Proof.Machine.execVcmple u f s
  | .vcmpun u f => Sys2Proof.Machine.execVcmpun u f s
  | .vmand u f => Sys2Proof.Machine.execVmand u f s
  | .vmor u f => Sys2Proof.Machine.execVmor u f s
  | .vmxor u f => Sys2Proof.Machine.execVmxor u f s
  | .vmnot u f => Sys2Proof.Machine.execVmnot u f s
  | .vmfirstn u f => Sys2Proof.Machine.execVmfirstn u f s
  | .vcompress u f => Sys2Proof.Machine.execVcompress u f s
  | .vexpand u f => Sys2Proof.Machine.execVexpand u f s
  | .vcidx u f => Sys2Proof.Machine.execVcidx u f s
  | .vperm u f => Sys2Proof.Machine.execVperm u f s
  | .vslideup u f => Sys2Proof.Machine.execVslideup u f s
  | .vslidedn u f => Sys2Proof.Machine.execVslidedn u f s
  | .vbcast u f => Sys2Proof.Machine.execVbcast u f s
  | .vrsum u f => Sys2Proof.Machine.execVrsum u f s
  | .vrprod u f => Sys2Proof.Machine.execVrprod u f s
  | .vrmax u f => Sys2Proof.Machine.execVrmax u f s
  | .vrmin u f => Sys2Proof.Machine.execVrmin u f s
  | .vramax u f => Sys2Proof.Machine.execVramax u f s
  | .vramin u f => Sys2Proof.Machine.execVramin u f s
  | .vrcnt u f => Sys2Proof.Machine.execVrcnt u f s
  | .vrmean u f => Sys2Proof.Machine.execVrmean u f s
  | .vany u f => Sys2Proof.Machine.execVany u f s
  | .vall u f => Sys2Proof.Machine.execVall u f s
  | .vcount u f => Sys2Proof.Machine.execVcount u f s
  | .vfirst u f => Sys2Proof.Machine.execVfirst u f s
  | .vld u f => Sys2Proof.Machine.execVld u f s
  | .vldp u f => Sys2Proof.Machine.execVldp u f s
  | .vldr u f => Sys2Proof.Machine.execVldr u f s
  | .vldx u f => Sys2Proof.Machine.execVldx u f s
  | .vst u f => Sys2Proof.Machine.execVst u f s
  | .vstp u f => Sys2Proof.Machine.execVstp u f s
  | .vstr u f => Sys2Proof.Machine.execVstr u f s
  | .vstx u f => Sys2Proof.Machine.execVstx u f s
  | .vstb u f => Sys2Proof.Machine.execVstb u f s
  | .vstsr u f => Sys2Proof.Machine.execVstsr u f s
  | .pld u f => Sys2Proof.Machine.execPld u f s
  | .pmeta u f => Sys2Proof.Machine.execPmeta u f s
  | .pst u f => Sys2Proof.Machine.execPst u f s
  | .pbody u f => Sys2Proof.Machine.execPbody u f s
  | .vfact u f => Sys2Proof.Machine.execVfact u f s
  | .vsumq x => Sys2Proof.Machine.execVsumq x s
  | .pressPass1Start k => Sys2Proof.Machine.execPressPass1Start k s
  | .pressPass2Start k => Sys2Proof.Machine.execPressPass2Start k s
  | .updatePhaseEnd k => Sys2Proof.Machine.execUpdatePhaseEnd k s
  | .pressFault p => Sys2Proof.Machine.execPressFault p s
  | .takeover p => Sys2Proof.Machine.execTakeover p s
  | .noticeBatchCut inTime => Sys2Proof.Machine.execNoticeBatchCut inTime s
  | .cellarDeadlineExpiry id completesNow => Sys2Proof.Machine.execCellarDeadlineExpiry id completesNow s
  | .cpPortFail p => Sys2Proof.Machine.execCpPortFail p s
  | .scrubRead m line r raced => Sys2Proof.Machine.execScrubRead m line r raced s
  | .scrubLevelUpdate m => Sys2Proof.Machine.execScrubLevelUpdate m s
  | .rekeyEngine m region => Sys2Proof.Machine.execRekeyEngine m region s
  | .rekeyWaitExpiry m region freedNow => Sys2Proof.Machine.execRekeyWaitExpiry m region freedNow s
  | .idleFlit f => Sys2Proof.Machine.execIdleFlit f s
  | .resendLimit p => Sys2Proof.Machine.execResendLimit p s
  | .dataFlit f => Sys2Proof.Machine.execDataFlit f s
  | .timeFlit f x => Sys2Proof.Machine.execTimeFlit f x s
  | .treeUp f => Sys2Proof.Machine.execTreeUp f s
  | .treeDown f => Sys2Proof.Machine.execTreeDown f s
  | .quench o fenceToo => Sys2Proof.Machine.execQuench o fenceToo s
  | .liftQuench o => Sys2Proof.Machine.execLiftQuench o s
  | .fence o => Sys2Proof.Machine.execFence o s
  | .unfence o => Sys2Proof.Machine.execUnfence o s
  | .commitToken p t revokedToo => Sys2Proof.Machine.execCommitToken p t revokedToo s
  | .revokeToken p t => Sys2Proof.Machine.execRevokeToken p t s
  | .heldExpiry p => Sys2Proof.Machine.execHeldExpiry p s
  | .normFlit f => Sys2Proof.Machine.execNormFlit f s
  | .widthFlit f => Sys2Proof.Machine.execWidthFlit f s
  | .signalFlit f obj n => Sys2Proof.Machine.execSignalFlit f obj n s
  | .hello p m => Sys2Proof.Machine.execHello p m s
  | .cert p chain leadsToRoot => Sys2Proof.Machine.execCert p chain leadsToRoot s
  | .evidence p m => Sys2Proof.Machine.execEvidence p m s
  | .finish p hmac named => Sys2Proof.Machine.execFinish p hmac named s
  | .refuse p reason => Sys2Proof.Machine.execRefuse p reason s
  | .messageTimeout p => Sys2Proof.Machine.execMessageTimeout p s
  | .linkRekey p outgoing => Sys2Proof.Machine.execLinkRekey p outgoing s
  | .signalDetect p => Sys2Proof.Machine.execSignalDetect p s
  | .trainingLock x => Sys2Proof.Machine.execTrainingLock x s
  | .trainingTimeout p => Sys2Proof.Machine.execTrainingTimeout p s
  | .handshakeTimeout p => Sys2Proof.Machine.execHandshakeTimeout p s
  | .backoffExpiry p => Sys2Proof.Machine.execBackoffExpiry p s
  | .lossOfSignal p => Sys2Proof.Machine.execLossOfSignal p s
  | .laneFenced p x => Sys2Proof.Machine.execLaneFenced p x s
  | .portThresholdFence p => Sys2Proof.Machine.execPortThresholdFence p s
  | .plugInsert p plug => Sys2Proof.Machine.execPlugInsert p plug s
  | .plugRemove p => Sys2Proof.Machine.execPlugRemove p s
  | .lodestarElected => Sys2Proof.Machine.execLodestarElected s
  | .standbyTakeover => Sys2Proof.Machine.execStandbyTakeover s
  | .timeLossUnlock => Sys2Proof.Machine.execTimeLossUnlock s
  | .selfLodestar => Sys2Proof.Machine.execSelfLodestar s
  | .odpForward p hop flit => Sys2Proof.Machine.execOdpForward p hop flit s
  | .odpOpen o frame => Sys2Proof.Machine.execOdpOpen o frame s
  | .odpClose o frame => Sys2Proof.Machine.execOdpClose o frame s
  | .odpRead o frame => Sys2Proof.Machine.execOdpRead o frame s
  | .odpWrite o frame => Sys2Proof.Machine.execOdpWrite o frame s
  | .readSeg o frame => Sys2Proof.Machine.execReadSeg o frame s
  | .writeSeg o frame => Sys2Proof.Machine.execWriteSeg o frame s
  | .writeEnd o frame => Sys2Proof.Machine.execWriteEnd o frame s
  | .describe o frame => Sys2Proof.Machine.execDescribe o frame s
  | .echo o frame => Sys2Proof.Machine.execEcho o frame s
  | .join m => Sys2Proof.Machine.execJoin m s
  | .joinAnswer m => Sys2Proof.Machine.execJoinAnswer m s
  | .odpSessionTimeout id => Sys2Proof.Machine.execOdpSessionTimeout id s
  | .tickPeriodUs o frame => Sys2Proof.Machine.execTickPeriodUs o frame s
  | .configSaveStore o frame => Sys2Proof.Machine.execConfigSaveStore o frame s
  | .configSaveErase o frame => Sys2Proof.Machine.execConfigSaveErase o frame s
  | .keyDeliver o frame => Sys2Proof.Machine.execKeyDeliver o frame s
  | .changeSet o frame => Sys2Proof.Machine.execChangeSet o frame s
  | .operatorToken o frame => Sys2Proof.Machine.execOperatorToken o frame s
  | .sessionApproval o frame => Sys2Proof.Machine.execSessionApproval o frame s
  | .medrielmToken o frame => Sys2Proof.Machine.execMedrielmToken o frame s
  | .changeAbort o frame => Sys2Proof.Machine.execChangeAbort o frame s
  | .changeExpired tokenNow => Sys2Proof.Machine.execChangeExpired tokenNow s
  | .stepNumber o frame => Sys2Proof.Machine.execStepNumber o frame s
  | .srSeed o frame => Sys2Proof.Machine.execSrSeed o frame s
  | .jobSize o frame standbyAck => Sys2Proof.Machine.execJobSize o frame standbyAck s
  | .poolQuota o frame => Sys2Proof.Machine.execPoolQuota o frame s
  | .recoveryImage o frame img => Sys2Proof.Machine.execRecoveryImage o frame img s
  | .testRequest o frame contentOk => Sys2Proof.Machine.execTestRequest o frame contentOk s
  | .testAbort o frame => Sys2Proof.Machine.execTestAbort o frame s
  | .testDrained => Sys2Proof.Machine.execTestDrained s
  | .drainTimeout => Sys2Proof.Machine.execDrainTimeout s
  | .testComplete tcPass ldPass => Sys2Proof.Machine.execTestComplete tcPass ldPass s
  | .getVersion m => Sys2Proof.Machine.execGetVersion m s
  | .getCapabilities m => Sys2Proof.Machine.execGetCapabilities m s
  | .negotiateAlgorithms m => Sys2Proof.Machine.execNegotiateAlgorithms m s
  | .getDigests m => Sys2Proof.Machine.execGetDigests m s
  | .getCertificate m => Sys2Proof.Machine.execGetCertificate m s
  | .getMeasurements m => Sys2Proof.Machine.execGetMeasurements m s
  | .keyExchange m => Sys2Proof.Machine.execKeyExchange m s
  | .spdmFinish m => Sys2Proof.Machine.execSpdmFinish m s
  | .keyUpdate m => Sys2Proof.Machine.execKeyUpdate m s
  | .heartbeat m => Sys2Proof.Machine.execHeartbeat m s
  | .endSession m => Sys2Proof.Machine.execEndSession m s
  | .arp target => Sys2Proof.Machine.execArp target s
  | .icmpEcho target data => Sys2Proof.Machine.execIcmpEcho target data s
  | .mctpControl setEid => Sys2Proof.Machine.execMctpControl setEid s
  | .lockKey a => Sys2Proof.Machine.execLockKey a s
  | .setAliasWrite a => Sys2Proof.Machine.execSetAliasWrite a s
  | .clearAliasWrite a => Sys2Proof.Machine.execClearAliasWrite a s
  | .toggleAliasWrite a => Sys2Proof.Machine.execToggleAliasWrite a s
  | .glbClkOverride a => Sys2Proof.Machine.execGlbClkOverride a s
  | .scanStart a => Sys2Proof.Machine.execScanStart a s
  | .tcFence a => Sys2Proof.Machine.execTcFence a s
  | .estFreeze a => Sys2Proof.Machine.execEstFreeze a s
  | .lpFence a => Sys2Proof.Machine.execLpFence a s
  | .retrain a => Sys2Proof.Machine.execRetrain a s
  | .laneFence a => Sys2Proof.Machine.execLaneFence a s
  | .lpEqCtrl a => Sys2Proof.Machine.execLpEqCtrl a s
  | .mcScrub a => Sys2Proof.Machine.execMcScrub a s
  | .prsFence a => Sys2Proof.Machine.execPrsFence a s
  | .faultClear a => Sys2Proof.Machine.execFaultClear a s
  | .doorbellTail a => Sys2Proof.Machine.execDoorbellTail a s
  | .resume a => Sys2Proof.Machine.execResume a s
  | .flush a ring => Sys2Proof.Machine.execFlush a ring s
  | .cqHeadDoorbell a => Sys2Proof.Machine.execCqHeadDoorbell a s
  | .qcfg a => Sys2Proof.Machine.execQcfg a s
  | .stepSize a => Sys2Proof.Machine.execStepSize a s
  | .syncWindowSignal a => Sys2Proof.Machine.execSyncWindowSignal a s
  | .mcEccCount a => Sys2Proof.Machine.execMcEccCount a s
  | .lpErrCount a => Sys2Proof.Machine.execLpErrCount a s
  | .registerWrite a => Sys2Proof.Machine.execRegisterWrite a s
  | .inputSample volts amps watts => Sys2Proof.Machine.execInputSample volts amps watts s
  | .droopStretch => Sys2Proof.Machine.execDroopStretch s
  | .droopRestore delivered aboveFor => Sys2Proof.Machine.execDroopRestore delivered aboveFor s
  | .powerFault cause => Sys2Proof.Machine.execPowerFault cause s
  | .thermalTrip => Sys2Proof.Machine.execThermalTrip s
  | .railRestart allBelow90 => Sys2Proof.Machine.execRailRestart allBelow90 s
  | .refclkLost => Sys2Proof.Machine.execRefclkLost s
  | .timerefLost => Sys2Proof.Machine.execTimerefLost s
  | .timerefRestored pps => Sys2Proof.Machine.execTimerefRestored pps s
  | .standbyPowerUp b => Sys2Proof.Machine.execStandbyPowerUp b s
  | .perstNAssert => Sys2Proof.Machine.execPerstNAssert s
  | .perstNRelease b => Sys2Proof.Machine.execPerstNRelease b s
  | .entropyTestFail => Sys2Proof.Machine.execEntropyTestFail s
  | .entropyRestart => Sys2Proof.Machine.execEntropyRestart s
  | .tickIoEdge grains withBoundary withinUs => Sys2Proof.Machine.execTickIoEdge grains withBoundary withinUs s
  | .idcode => Sys2Proof.Machine.execIdcode s
  | .bypass => Sys2Proof.Machine.execBypass s
  | .samplePreload shiftIn => Sys2Proof.Machine.execSamplePreload shiftIn s
  | .extest => Sys2Proof.Machine.execExtest s
  | .medrielmTest code => Sys2Proof.Machine.execMedrielmTest code s
  | .testLogicReset => Sys2Proof.Machine.execTestLogicReset s
  | .flitCrcFail p tag => Sys2Proof.Machine.execFlitCrcFail p tag s
  | .linkSlotStart p slot => Sys2Proof.Machine.execLinkSlotStart p slot s
  | .pressPass1End k => Sys2Proof.Machine.execPressPass1End k s
  | .moveComplete id x => Sys2Proof.Machine.execMoveComplete id x s
  | .cellarCopyComplete k tag => Sys2Proof.Machine.execCellarCopyComplete k tag s
  | .cacheFillComplete k f => Sys2Proof.Machine.execCacheFillComplete k f s
  | .configSaveComplete => Sys2Proof.Machine.execConfigSaveComplete s
  | .standbyPowerLoss => Sys2Proof.Machine.execStandbyPowerLoss s
  | .lrefPresent => Sys2Proof.Machine.execLrefPresent s
  | .tdispAssign k assigned => Sys2Proof.Machine.execTdispAssign k assigned s
  | .preLockTimeSend => Sys2Proof.Machine.execPreLockTimeSend s

end Sys2Proof.Machine
end

