-- ==== Sys2Proof/Safety.lean ====
section
/-! DEFINITION. What a safe run is, and the terms in which the statements of Certificates/ speak: a command that its queue takes, a
vector unit that stands at an instruction, the canonical form of the memories, and the fuses that only gain bits. -/

namespace Sys2Proof.Machine

open Sys2Proof

/-- The command completes in s, with the next state t. -/
def Completes (c : Instr) (s t : State) : Prop := exec c s = .next t

/-- The step from s neither faults nor is refused. -/
def Safe (s : State) : Prop := ∃ t, step s = .next t

/-- The command answers a next state of which P holds. -/
def Leads (c : Instr) (s : State) (P : State → Prop) : Prop := ∃ t, exec c s = .next t ∧ P t

/-! ## Queue commands (R63, R670, R675, R676) -/

/-- Queue q takes entry e as the well-formed command with opcode op. -/
abbrev Takes (s : State) (q : QRef) (e : Entry) (op : Nat) (u : Used) : Prop :=
  canTake s q = true ∧ accepts q op = true ∧ entryOk e op u = true

/-- The state as the command finds it: HEAD has moved on and a completion entry is reserved. -/
abbrev taken (s : State) (q : QRef) : State := { fetchEntry s q with nextId := s.nextId + 1 }

/-- The command as it has been fetched. -/
abbrev fetched (s : State) (q : QRef) (e : Entry) : Pending := { id := s.nextId, q := q, e := e, items := [], wait := .head }

/-- The numbers of the commands that wait in queues, streams and at the sync-object file have been given out. -/
abbrev IdsFresh (s : State) : Prop :=
  (∀ w ∈ s.waiters, w.id < s.nextId) ∧ (∀ r ∈ s.reqs, r.id < s.nextId) ∧ (∀ c : Tc, ∀ b ∈ s.clusters[c].jobs, b.id < s.nextId) ∧
  (∀ k : Pt, ∀ p ∈ s.parts[k].inflight, p.id < s.nextId) ∧ ∀ p ∈ s.host.inflight, p.id < s.nextId

/-! ## Replay units (R310) -/

/-- No replay unit is rolling back. -/
abbrev NoRollBack (s : State) : Prop := ∀ k : Pt, ∀ u ∈ s.parts[k].units, u.rolling = false

/-! ## Scratchpad errors (R156, R717) -/

/-- No read can fence a cluster: no uncorrectable error waits in a scratchpad to be found, or SPAD_UE_FENCE is 0. -/
abbrev NoSpadFence (s : State) : Prop := s.test.spadUe = 0 ∨ ∀ c : Tc, s.clusters[c].ueNew = []

/-! ## Errors of a stack (R420, R717) -/

/-- No read can fence a stack: no uncorrectable error waits in a stack to be found, or STACK_UE_FENCE is 0. -/
abbrev NoStackFence (s : State) : Prop :=
  s.test.stackUe = 0 ∨ ∀ (h : Hb) (l : Nat), (Sparse.get LineMeta.zero s.hbs[h].lines l).ue = false

/-! ## What waits to be tried again (R93, R542, R544) -/

/-- No write waits for a generation slot or for the pointer of a re-key, and a quench or a write holds no command and no data received. -/
abbrev NothingHeld (s : State) : Prop := s.stalled = [] ∧ (∀ k : Pt, heldCommands s k = []) ∧ ∀ p : Lp, s.ports[p].held = []

/-! ## Canonical form -/

/-- What a cluster holds by address or number is in canonical form. -/
abbrev ClusterWf (c : Cluster) : Prop :=
  Memory.wf c.spad = true ∧ Sparse.wf false c.poison = true ∧ Sparse.wf false c.poisonNew = true ∧ Sparse.wf false c.ueNew = true ∧
  Sparse.wf false c.soft = true ∧ Sparse.wf false c.code = true ∧
  Sparse.wf (0 : W32) c.tiles = true ∧ Sparse.wf Estimator.reset c.est = true ∧ Sparse.wf BlockParts.none c.blocks = true ∧
  Sparse.wf (0 : W32) c.ve.regs.v = true

/-- So are the vector registers of a press, and those that a pass keeps from its prologue. -/
abbrev PressWf (p : Press) : Prop :=
  Sparse.wf (0 : W32) p.regs.v = true ∧ (∀ r ∈ p.run.toList, Sparse.wf (0 : W32) r.base.v = true) ∧
  ∀ r ∈ p.suspended, Sparse.wf (0 : W32) r.base.v = true

abbrev TreeWf (t : CtrTree) : Prop := Sparse.wf (0 : W64) t.entries = true ∧ Sparse.wf (0 : W64) t.tags = true

abbrev StackWf (h : Stack) : Prop :=
  Memory.wf h.mem = true ∧ Sparse.wf LineMeta.zero h.lines = true ∧ Sparse.wf (0 : BitVec 24) h.gens = true ∧ TreeWf h.tree

abbrev CellarWf (x : Cellar) : Prop :=
  Memory.wf x.mem = true ∧ Sparse.wf LineMeta.zero x.lines = true ∧ Sparse.wf (0 : BitVec 24) x.gens = true ∧ TreeWf x.tree

/-- Every memory and every sparse register file of the module is in its canonical form: indices rise, and no entry equals what an
unlisted index holds. Equal contents are then equal data. -/
abbrev Canonical (s : State) : Prop :=
  (∀ c : Tc, ClusterWf s.clusters[c]) ∧ (∀ p : Ps, PressWf s.presses[p]) ∧ (∀ h : Hb, StackWf s.hbs[h]) ∧ CellarWf s.cellar ∧
  (∀ k : Pt, Sparse.wf (0 : BitVec 10) s.parts[k].gens = true ∧ Sparse.wf 0 s.parts[k].lastGens = true) ∧ Sparse.wf (0 : W32) s.sync = true ∧ Sparse.wf none s.noc = true ∧
  Sparse.wf KeySlot.empty s.sc.keys.slots = true ∧ Sparse.wf (0 : W32) s.links.jobSize = true ∧
  Sparse.wf MsixVec.reset s.host.msixPf = true ∧ (∀ k : Pt, Sparse.wf MsixVec.reset s.host.msixVf[k] = true) ∧
  Memory.wf s.host.hostMem = true

/-! ## Link flits (R433–R436) -/

/-- A good flit of a type arrives on a port in service of a device with lock (TIME needs none). Its channel has a buffer for it, it asks
for no resend, and no NAK stands against it. -/
abbrev Arrives (s : State) (f : Flit) (typ : Nat) : Prop :=
  lpPresent s f.port.1 = true ∧ s.ports[f.port].isUp = true ∧ flTyp f = typ ∧ flLen f ≤ 224 ∧ (s.links.locked = true ∨ typ = 2) ∧
  bit f.h1 19 = false ∧ behindNak s f = false ∧ noBuffer s f = false

/-! ## Requests of the object dictionary (R616–R636) -/

/-- A frame comes over transport o, in an ODP flit within the eight of its control slot (R434). -/
abbrev Comes (s : State) (o : OdpSrc) : Prop := arrives s o = true ∧ overOdpLimit s o = false

/-- The frame bs brings the first request f of operation op, within session x, over transport o. -/
abbrev Asks (s : State) (o : OdpSrc) (bs : Bytes) (op : Nat) (x : OdpSession) (f : Frame) : Prop :=
  Comes s o ∧ parseFrame bs = some f ∧ f.op = op ∧ sessionOf s o f = some x ∧ x.lastSeq ≠ some f.seq

/-- The response a to request f leaves, and nothing else. -/
abbrev Answers (s t : State) (f : Frame) (a : Answer) : Prop := t.dict.out = s.dict.out ++ [responseBytes f f.session a]

/-- The frame bs writes entry idx.sub as a whole, and passes the checks up to the length. -/
abbrev AsksWrite (s : State) (o : OdpSrc) (bs : Bytes) (idx sub : Nat) (x : OdpSession) (f : Frame) : Prop :=
  Asks s o bs 4 x f ∧ f.index = idx ∧ f.sub = sub ∧ f.data.length ≤ largestOf o ∧
  ∃ a r, entryCheck s x f .write = .ok (a, r) ∧ r.typ.lengthOk f.data.length = true

/-- The write was accepted. -/
abbrev Accepted (s t : State) (f : Frame) : Prop := ∃ typ, Answers s t f { status := 0, typ := typ }

/-! ## Host accesses (R651–R660) -/

/-- An aligned write of 8 bytes, in a clock in which the device sets nothing, goes to a register of a block that is there. -/
abbrev HostWrites (s : State) (a : Mmio) (b : Block) (view : Fin 4) (r : Nat) : Prop :=
  hostUp s = true ∧ a.len = 8 ∧ a.off % 8 = 0 ∧ a.hwSet = 0 ∧ blockThere s b = true ∧ placeOf s a.fn a.bar a.off = .reg b view r ∧ r % 8 = 0

/-- No command runs in a stream, waits at the sync-object file, or waits in a queue of partition k. -/
abbrev Quiet (s : State) (k : Pt) : Prop := s.waiters = [] ∧ (∀ c : Tc, s.clusters[c].jobs = []) ∧ s.parts[k].inflight = []

/-! ## Vector units (R236, R244, R249, R331) -/

/-- The word that a VE fetches at pc is w, and its line comes from the cache or holds no error that its read would find. -/
def fetchGives (c : Cluster) (conf : Bool) (pc : Nat) (w : W64) : Bool :=
  let x := fetchVe c conf pc
  x.fault == 0 && x.word == w && (!x.miss || lineSound c (pc / 128 * 128))

/-- The unit stands at instruction (op, f): a VE that runs a work item, is not fenced, and fetches it; a press whose running
pass 2 has it next, no press fault or fence and no fenced stack in its way. -/
def unitAt (s : State) (u : VUnit) (op : Nat) (f : BitVec 56) : Bool :=
  match u with
  | .ve c =>
    match s.clusters[c].part, s.clusters[c].ve.run with
    | some k, some i => !s.clusters[c].fenced && fetchGives s.clusters[c] s.parts[k].conf i.pc (vWord op f)
    | _, _ => false
  | .ps p =>
    match s.presses[p].run with
    | some r =>
      match runImage s r with
      | some im => !s.presses[p].faulted && !s.presses[p].fenced && decide (2 ≤ r.pass) && im.instrs[r.pc]? == some (vWord op f) &&
          !(s.hbs.toList.any fun h => h.fenced)
      | none => false
    | none => false

/-- The unit stands at a legal instruction. -/
def legalAt (s : State) (u : VUnit) (op : Nat) (f : BitVec 56) : Bool :=
  unitAt s u op f && match u with
    | .ve _ => veLegal op f
    | .ps _ => psLegal (vWord op f)

/-- The registers of a vector unit. -/
def unitRegs (s : State) : VUnit → VecRegs
  | .ve c => s.clusters[c].ve.regs
  | .ps p => s.presses[p].regs

/-- Distance of two instructions of the unit's programs: bytes of a scratchpad, indices of an image. -/
def unitStride : VUnit → Nat
  | .ve _ => 8
  | .ps _ => 1

/-- The partition that the unit works for. -/
def unitPart (s : State) : VUnit → Option Pt
  | .ve c => s.clusters[c].part
  | .ps p => s.presses[p].run.map fun r => r.part

/-- The program of the unit stands at `pc'` and is else the one that ran. -/
def ProgramAt (s t : State) (u : VUnit) (next : Nat → Nat) : Prop :=
  match u with
  | .ve c => t.clusters[c].ve.run = s.clusters[c].ve.run.map fun i => { i with pc := next i.pc }
  | .ps p => t.presses[p].run = s.presses[p].run.map fun r => { r with pc := next r.pc }

/-- The program goes on behind the instruction, through the loops that end there (R246). -/
def WentOn (s t : State) (u : VUnit) : Prop :=
  ProgramAt s t u fun pc => (loopNext (unitStride u) 3 (unitRegs s u).loops (pc + unitStride u)).2

/-- The memories of the module hold what they held. -/
def MemoriesKept (s t : State) : Prop :=
  (∀ c : Tc, t.clusters[c].spad = s.clusters[c].spad) ∧ t.hbs = s.hbs ∧ t.cellar = s.cellar

/-- Every other vector unit keeps its registers. -/
def OtherUnitsKept (s t : State) (u : VUnit) : Prop := ∀ u', u' ≠ u → unitRegs t u' = unitRegs s u'

/-- The lanes of the destination as R252 and R253 write them with the results res: active lanes, masked lanes kept or zeroed, tail
lanes and every other register left. -/
def LanesAre (r r' : VecRegs) (f : BitVec 56) (res : Nat → W32) : Prop :=
  ∀ v l, v < 32 → l < 256 → vGet r' v l =
    if v = vVd f ∧ l < r.vl.toNat then (if laneActive r f l then res l else if vZm f then 0 else vGet r v l) else vGet r v l

/-- One element of an element-wise result: the two or three operands of lane l, half h, through a function on values with the
element's format, or on integers of the element's width (R256, R259). -/
def elemResult (flt : Fmt → Val → Val → Val → Nat) (int : Nat → Int → Int → Int → Int) (r : VecRegs) (f : BitVec 56) (l h : Nat) : Nat :=
  let ty := vTy f
  let w := fun (j : Nat) => srcLane r f l j
  if tyInt ty then ofInt (32 / tyPer ty) (int (32 / tyPer ty) (elemInt ty (w 0) h) (elemInt ty (w 1) h) (elemInt ty (w 2) h))
  else flt (tyFmt ty) (elemVal ty (w 0) h) (elemVal ty (w 1) h) (elemVal ty (w 2) h)

/-- What the element-wise instruction I does, with `srcs` operands (R252, R253, R256, R259, R260): its lanes, INV where an element
became a NaN from operands without one, and nothing else but the program's course. -/
def LaneRule (I : VUnit → BitVec 56 → Instr) (op srcs : Nat) (flt : Fmt → Val → Val → Val → Nat) (int : Nat → Int → Int → Int → Int) : Prop :=
  ∀ s u f, Canonical s → legalAt s u op f = true → Leads (I u f) s fun t =>
    let r := unitRegs s u
    let r' := unitRegs t u
    let inv := tyInt (vTy f) = false ∧ ∃ l h, l < 256 ∧ laneActive r f l = true ∧ h < tyPer (vTy f) ∧
      ((tyFmt (vTy f)).decode (elemResult flt int r f l h)).isNan = true ∧
      ∀ j, j < srcs → (elemVal (vTy f) (srcLane r f l j) h).isNan = false
    LanesAre r r' f (fun l => packLane (vTy f) ((List.range (tyPer (vTy f))).map (elemResult flt int r f l))) ∧
    r'.m = r.m ∧ r'.s = r.s ∧ r'.vl = r.vl ∧
    (inv → r'.flags = setBit r.flags 4 true) ∧ (¬inv → r'.flags = r.flags) ∧
    WentOn s t u ∧ MemoriesKept s t ∧ OtherUnitsKept s t u

/-- What an instruction does that writes lanes and leaves mask, scalar and flag registers. -/
def MoveRule (I : VUnit → BitVec 56 → Instr) (op : Nat) (res : VecRegs → BitVec 56 → Nat → W32) : Prop :=
  ∀ s u f, Canonical s → legalAt s u op f = true → Leads (I u f) s fun t =>
    let r := unitRegs s u
    let r' := unitRegs t u
    LanesAre r r' f (res r f) ∧ r'.m = r.m ∧ r'.s = r.s ∧ r'.vl = r.vl ∧ r'.flags = r.flags ∧
    WentOn s t u ∧ MemoriesKept s t ∧ OtherUnitsKept s t u

/-- What an instruction does that writes mask register MD: bit l is `res`, and the vector, scalar and flag registers stay. -/
def MaskRule (I : VUnit → BitVec 56 → Instr) (op : Nat) (res : VecRegs → BitVec 56 → Nat → Bool) : Prop :=
  ∀ s u f, Canonical s → legalAt s u op f = true → Leads (I u f) s fun t =>
    let r := unitRegs s u
    let r' := unitRegs t u
    (∀ l, l < 256 → bit (mGet r' (vMd f)) l = res r f l) ∧ (∀ m, m < 8 → m ≠ vMd f → mGet r' m = mGet r m) ∧
    r'.v = r.v ∧ r'.s = r.s ∧ r'.vl = r.vl ∧ r'.flags = r.flags ∧
    WentOn s t u ∧ MemoriesKept s t ∧ OtherUnitsKept s t u

/-- What an instruction does that writes scalar register `dst` alone; s0 takes no write (R236). -/
def ScalarRule (I : VUnit → BitVec 56 → Instr) (op : Nat) (dst : BitVec 56 → Nat) (res : VecRegs → BitVec 56 → W64) : Prop :=
  ∀ s u f, Canonical s → legalAt s u op f = true → Leads (I u f) s fun t =>
    let r := unitRegs s u
    let r' := unitRegs t u
    (∀ i, i < 16 → sGet r' i = if i = dst f ∧ i ≠ 0 then res r f else sGet r i) ∧
    r'.v = r.v ∧ r'.m = r.m ∧ r'.vl = r.vl ∧ r'.flags = r.flags ∧
    WentOn s t u ∧ MemoriesKept s t ∧ OtherUnitsKept s t u

/-! ## Fuses (R586) -/

/-- Every bit of a is set in b. -/
abbrev SubBits {n : Nat} (a b : BitVec n) : Prop := a &&& b = a

abbrev SubBytes (a b : Bytes) : Prop := List.zipWith (· &&& ·) a b = a

/-- Every OTP bit that is set in a is set in b; what is fused at manufacture is the same. -/
structure OtpLe (a b : Otp) : Prop where
  mile      : ∀ i : Fin 8, SubBits a.mile[i] b.mile[i]
  ent       : ∀ i : Fin 8, SubBits a.ent[i] b.ent[i]
  testCycle : SubBits a.testCycle b.testCycle
  svnSfw    : SubBits a.svnSfw b.svnSfw
  svnDfw    : SubBits a.svnDfw b.svnDfw
  opDigest  : SubBytes a.opDigest b.opDigest
  opKill    : SubBits a.opKill b.opKill
  uid       : SubBits a.uid b.uid
  uds       : SubBytes a.uds b.uds
  trim      : SubBytes a.trim b.trim

end Sys2Proof.Machine
end

