-- ==== Sys2Proof/Certificates/Slice0/Obligations.lean ====
section
/-! DEFINITION. The statements for the provers. Each docstring names the rules of spec/ that the statement formalises; where a
clause rests on a choice of the model it names the entry of notes/assumptions/. -/

open Sys2Proof Sys2Proof.Machine


/-! ## The machine as a whole -/

/-- A step runs the command at the front of the queue on the state with the rest of the queue. On an empty queue the block idles
(notes/assumptions/1.md, the model's choice). -/
def Obligations.StepRunsFront : Prop :=
  (∀ (c : Instr) (s : State) (rest : List Instr), step { s with pending := c :: rest } = exec c { s with pending := rest }) ∧
  (∀ s : State, s.pending = [] → step s = .next s)

/-- Every command completes in every state: the device answers what it cannot do with a status, a record or a drop. No command touches the
queue of waiting commands, or changes the SKU (R5). Every step keeps the numbers of commands fresh: whatever waits under a number, waits under one that has been given out. -/
def Obligations.CommandsKept : Prop :=
  (∀ (c : Instr) (s : State), ∃ t, exec c s = .next t ∧ t.pending = s.pending ∧ t.full = s.full) ∧
  (∀ s t : State, IdsFresh s → step s = .next t → IdsFresh t)


/-- R586: an OTP bit changes only from 0 to 1, in every step from every state. -/
def Obligations.OtpBitsStay : Prop :=
  ∀ (o : Otp) (s t : State), OtpLe o s.sc.otp → step s = .next t → OtpLe o t.sc.otp

/-- Every step keeps every memory and every sparse register file of the module in its canonical form (scratchpads, stacks, the cellar,
what the module has written to the host, vector registers, key slots, sync objects): equal contents are equal data. -/
def Obligations.StaysCanonical : Prop :=
  ∀ s t : State, Canonical s → step s = .next t → Canonical t


/-- The state after reset is canonical, and a fuse that it shows set is set in it. -/
def Obligations.ResetInvariants : Prop :=
  Canonical State.reset ∧ IdsFresh State.reset ∧ OtpLe State.reset.sc.otp State.reset.sc.otp ∧ State.reset.pending = []

/-- R44, R50, R743, R762: a boundary of a module that runs and has no armed change adds 1 to the tick number once a lodestar epoch has
been accepted (before, the number stays 0: notes/assumptions/6.md), takes the written limits, floors and tier times into force, and fuses
nothing. In reset, or without power-good, there are no ticks. -/
def Obligations.TickAdvances : Prop :=
  (∀ s b, (s.pins.perst = false ∧ s.power.pwrgd = true ∧ s.change.state ≠ 2) → Leads (.tickBoundary b) s fun t =>
    t.meridian.tick = (if s.links.epoch = 0 then s.meridian.tick else s.meridian.tick + 1) ∧
    t.power.limit = s.power.limitW ∧ t.power.tjWarn = s.power.tjWarnW ∧ t.power.floor = s.power.floorW ∧
    t.tiers.baseH = s.tiers.baseHW ∧ t.tiers.up = s.tiers.upW ∧ t.sc.otp = s.sc.otp) ∧
  (∀ s b, (s.pins.perst = true ∨ s.power.pwrgd = false) → exec (.tickBoundary b) s = .next s)

/-- R583, R586, R587, R590, R646, R691, R743, R750: what only some commands change. The fuses change at a boundary and in a start-up; the life-cycle
state in a start-up; the main rails by a boundary (a life-cycle restart), a fault, a trip, and starts and losses of power; a change is applied, and
the tick number moves, by a boundary, by the events that take a lodestar's time, and by resets; the test access port by its own rows. -/
def Obligations.OnlyTheseCommands : Prop :=
  ∀ (c : Instr) (s t : State), exec c s = .next t →
    (match c with
      | .tickBoundary _ | .standbyPowerUp _ | .railRestart _ => True
      | _ => t.sc.otp = s.sc.otp) ∧
    (match c with
      | .standbyPowerUp _ | .railRestart _ => True
      | _ => t.sc.lc = s.sc.lc) ∧
    (match c with
      | .tickBoundary _ | .powerFault _ | .thermalTrip | .railRestart _ | .standbyPowerUp _ | .standbyPowerLoss => True
      | _ => t.power.rails = s.power.rails) ∧
    (match c with
      | .tickBoundary _ | .powerFault _ | .thermalTrip | .standbyPowerUp _ | .standbyPowerLoss | .perstNAssert | .extest => True
      | _ => t.change.commits = s.change.commits) ∧
    (match c with
      | .tickBoundary _ | .powerFault _ | .thermalTrip | .standbyPowerUp _ | .standbyPowerLoss | .perstNAssert | .extest => True
      | .timeFlit .. | .lodestarElected | .standbyTakeover | .selfLodestar => True
      | _ => t.meridian.tick = s.meridian.tick) ∧
    (match c with
      | .tickBoundary _ | .standbyPowerUp _ | .standbyPowerLoss => True
      | .idcode | .bypass | .samplePreload _ | .extest | .medrielmTest _ | .testLogicReset => True
      | _ => t.pins.jtagIr = s.pins.jtagIr ∧ t.pins.extest = s.pins.extest)

/-! ## Partitions and setup objects (spec/02_meridian_and_scheduling.md, spec/14_host_registers.md) -/

/-- R59, R508, R597, R678, R766: PART_CREATE with a well-formed record that finds room makes the partition of the record: its
clusters serve it, its registers are at their reset values, its policy is the default one, or for a confidential partition that of
its manifest, with a session in the state after creation. No other partition changes its clusters or objects. The clocks are locked, the entropy
source runs, two key slots are free, and no change is staged.
The model's choices it rests on: notes/assumptions/32.md, notes/assumptions/50.md. -/
def Obligations.PartCreate : Prop :=
  ∀ s e record, (Takes s .admin e 0x01 { w2 := 2 ^ 64 - 1 } ∧ s.links.locked = true ∧ recordBad s (slice record 0 128) = false ∧
      recordNoSpace s (slice record 0 128) = false ∧ s.sc.esState = 0 ∧ 2 ≤ (freeSlots s).length ∧ s.change.state = 0 ∧
      (recConf (slice record 0 128) = true → s.sc.lc = 5 ∧ manifestBad s (recPt record) (slice record 0 128) = false)) →
    Leads (.partCreate e record) s fun t =>
      let r := slice record 0 128
      let k := recPt record
      let p := t.parts[k]
      p.state = (if recConf r then 2 else 1) ∧ p.clusters = recClusters r ∧ p.hbMask = recStacks r ∧ p.jobId = recJob r ∧
      p.dataQueues.toNat = recQueues r ∧ p.seqContexts = recSeqs r ∧ p.pool.toNat = recPool r ∧
      p.objs = [] ∧ p.mem = [] ∧ p.units = [] ∧ p.step.number = 1 ∧
      p.policy = (if recConf r then manPolicy (manOf s.parts[k].session.held) else Policy.default) ∧
      (recConf r = true → p.session.state = 1 ∧ p.session.manifest = manOf s.parts[k].session.held) ∧
      (∀ c : Tc, t.clusters[c].part = if bit (recClusters r) c.1 then some k else s.clusters[c].part) ∧
      (∀ j, j ≠ k → t.parts[j].objs = s.parts[j].objs ∧ t.parts[j].mem = s.parts[j].mem ∧ t.parts[j].state = s.parts[j].state) ∧
      t.sc.stage = 9 ∧ MemoriesKept s t

/-- R679: PART_DESTROY of a partition that is not confidential, or whose session has closed, is noted with its tick; the destruction
runs once no queue fetches and no update phase runs: the partition is gone with its objects, its clusters return to the free pool, its
sequence contexts read zero, and no slot of it is VALID. The partition is not named by a staged change. -/
def Obligations.PartDestroy : Prop :=
  (∀ s e, let k : Pt := ⟨fld e.w2 1 0 % 4, Nat.mod_lt _ (by decide)⟩
    (Takes s .admin e 0x02 { w2 := 3 } ∧ s.parts[k].live = true ∧ s.parts[k].destroying = none ∧
      (s.parts[k].conf = true → s.parts[k].session.state = 4)) → Leads (.partDestroy e) s fun t =>
      t.parts[k].destroying = some (false, s.meridian.tick) ∧ t.parts[k].objs = s.parts[k].objs ∧ t.parts[k].mem = s.parts[k].mem ∧
      t.parts[k].state = s.parts[k].state ∧ MemoriesKept s t) ∧
  (∀ s k x rings, (Canonical s ∧ s.parts[k].destroying = some (true, x) ∧ inUpdate s.parts[k] = false ∧ s.change.state = 0) →
    Leads (.partDestroyComplete k rings) s fun t =>
      t.parts[k].state = 0 ∧ t.parts[k].objs = [] ∧ t.parts[k].mem = [] ∧
      (∀ c : Tc, t.clusters[c].part = if s.clusters[c].part = some k then none else s.clusters[c].part) ∧
      (∀ i : Fin 64, t.seqs[i] = if bit s.parts[k].seqContexts i.1 then { bytes := List.replicate 32 0, next := none } else s.seqs[i]) ∧
      (∀ i, (slot t i).valid = true → (slot t i).part.toNat ≠ k.1) ∧
      (∀ j, j ≠ k → t.parts[j].objs = s.parts[j].objs ∧ t.parts[j].mem = s.parts[j].mem ∧ t.parts[j].state = s.parts[j].state))

/-- R62–R64: CREATE of a well-formed object takes the lowest free index of its type under that index's generation; the object is
pending until the next boundary. A malformed object is not created (R63, R66). R69, R72: DESTROY ends at once where no data command issued
before refers to the object, and no unit of a mark is open, and else waits; an object that is still pending goes without having been active;
DESTROY_COMPLETE ends it when none refers to it any more. Every other object, and every memory object, stays. R185–R189: SEQ_CTX_WRITE of a context that the partition holds, with fields in range, writes the context for the next boundary, and
no other context; a rejected one writes none. -/
def Obligations.SetupObjects : Prop :=
  ((∀ s k e object n, (Takes s (.ctrl k) e 0x10 { w2 := 0xF * 2 ^ 60, w3 := 2 ^ 64 - 1, w4 := 2 ^ 32 - 1 } ∧
      typeSize (fld e.w2 63 60) object = some n) →
    let typ := fld e.w2 63 60
    let bs := slice object 0 n
    (∀ i, fld e.w4 31 0 = n → createStatus s k typ bs = 0 → freeIndex s.parts[k] typ = some i → Leads (.create k e object) s fun t =>
      t.parts[k].objs = s.parts[k].objs ++ [{ typ := BitVec.ofNat 4 typ, gen := Sparse.get (0 : BitVec 10) s.parts[k].gens (genKey typ i),
                                              idx := BitVec.ofNat 16 i, bytes := bs, st := .pending }] ∧
      t.parts[k].mem = s.parts[k].mem ∧ t.parts[k].gens = s.parts[k].gens ∧ (∀ j, j ≠ k → t.parts[j].objs = s.parts[j].objs) ∧ MemoriesKept s t) ∧
    ((fld e.w4 31 0 ≠ n ∨ createStatus s k typ bs ≠ 0) → Leads (.create k e object) s fun t =>
      (∀ j : Pt, t.parts[j].objs = s.parts[j].objs) ∧ MemoriesKept s t)) ∧
  (∀ s k e object, (Takes s (.ctrl k) e 0x10 { w2 := 0xF * 2 ^ 60, w3 := 2 ^ 64 - 1, w4 := 2 ^ 32 - 1 } ∧ typeSize (fld e.w2 63 60) object = none) →
    Leads (.create k e object) s fun t => (∀ j : Pt, t.parts[j].objs = s.parts[j].objs) ∧ MemoriesKept s t) ∧
  (∀ s k e o, (Takes s (.ctrl k) e 0x11 { w2 := 2 ^ 32 - 1 } ∧ liveObj s k (BitVec.ofNat 32 (fld e.w2 31 0)) = some o) →
    Leads (.destroy k e) s fun t =>
      let used := markOpen s.parts[k] o (BitVec.ofNat 32 (fld e.w2 31 0)) || s.parts[k].inflight.any fun x => issued x && refersTo s k x o
      t.parts[k].objs = s.parts[k].objs.map (fun x =>
        if x.typ = o.typ ∧ x.idx = o.idx then
          { x with st := if o.st = .pending then .withdrawn else if used then .destroying else .destroyed } else x) ∧
      t.parts[k].mem = s.parts[k].mem ∧ (∀ j, j ≠ k → t.parts[j].objs = s.parts[j].objs) ∧ MemoriesKept s t) ∧
  (∀ s h users p o, let k : Pt := ⟨fld h 27 26 % 4, Nat.mod_lt _ (by decide)⟩
    (s.parts[k].inflight.find? (fun q => match q.wait with | .destroy g _ => g == h | _ => false) = some p ∧ p.wait = .destroy h users ∧
      stillUsed s k h users = false ∧ objOf s.parts[k] h = some o) → Leads (.destroyComplete h) s fun t =>
      t.parts[k].objs = s.parts[k].objs.map (fun x => if x.typ = o.typ ∧ x.idx = o.idx then { x with st := .destroyed } else x) ∧
      (∀ j, j ≠ k → t.parts[j].objs = s.parts[j].objs) ∧ MemoriesKept s t)) ∧
  (∀ s k e ctx, Takes s (.ctrl k) e 0x12 { w2 := 0x3F, w3 := 2 ^ 64 - 1 } →
    let i : Fin 64 := ⟨fld e.w2 5 0 % 64, Nat.mod_lt _ (by decide)⟩
    let bs := slice ctx 0 32
    Leads (.seqCtxWrite k e ctx) s fun t =>
      (∀ j : Fin 64, t.seqs[j] = if j = i ∧ bit s.parts[k].seqContexts i.1 = true ∧ seqCtxOk bs = true then { s.seqs[j] with next := some bs } else s.seqs[j]) ∧
      MemoriesKept s t)

/-! ## Memory objects, the cellar and keys (spec/09_memory_tiers.md, spec/11_confidential_computing.md, spec/12_keys_lifecycle_boot.md) -/

/-- R394, R395, R402, R404, R405: MEM_ALLOC with a free OBJ and a place. The object's regions lie in the stack (or in the cellar) and
meet no run of an object that stays; the pool's quota covers it; the objects evicted for it begin to leave. It completes when its
regions read as zero, and the object is then ready for the next boundary. No byte outside its regions changes. R396, R397, R512, R515: MEM_SEAL seals an object that is neither writable nor locked, and marks a key-less object of a confidential
partition as code; MEM_FREE of an unlocked object frees it at the next boundary. Neither changes another object or a byte; a command that names
no object changes none.
The model's choices it rests on: notes/assumptions/115.md, notes/assumptions/116.md. -/
def Obligations.MemoryObjects : Prop :=
  ((∀ s k e obj b c gone, (Takes s (.ctrl k) e 0x18 { w2 := 0x1FF * 2 ^ 55 + 0x7F * 2 ^ 48 + 0x7FFF } ∧ maPlace e = 0 ∧
      1 ≤ maRegions e ∧ maRegions e ≤ 22888 ∧ bit s.parts[k].hbMask (maStack e).1 = true ∧ hbPresent s (maStack e).1 = true ∧
      s.hbs[maStack e].fenced = false ∧ allocKeyOk s k (maKey e) = true ∧ freeObj s.parts[k] = some obj ∧
      (maKey e = 0 ∨ rootsUsed s (maStack e) + (maRegions e + 26) / 27 ≤ 4096) ∧
      placeOn s k (maStack e) (maRegions e) (metaFor (maKey e) (maRegions e)) = .at_ b c gone) →
    b + maRegions e ≤ 22888 ∧ (∀ r ∈ stackHeld s (maStack e) gone, overlaps b (maRegions e) r.1 r.2 = false) ∧
    poolUse s (poolOf s.parts[k]) (maStack e) gone + maRegions e + metaFor (maKey e) (maRegions e) ≤
      (Vector.get s.pools[poolOf s.parts[k]].quota (maStack e)).toNat ∧
    Leads (.memAlloc k e) s fun t =>
      (∃ o, memObj t.parts[k] obj = some o ∧ o.st = .clearing ∧ o.place = 0 ∧ o.stack = maStack e ∧ o.hbmBase = some b ∧ o.celBase = none ∧
        o.regions = maRegions e ∧ o.metaBase = c ∧ o.keyId.toNat = maKey e) ∧
      (∀ x ∈ gone, ∀ o ∈ t.parts[x.1].mem, o.obj = x.2 → o.st = .evicting) ∧ MemoriesKept s t) ∧
  (∀ s k e obj b, (Takes s (.ctrl k) e 0x18 { w2 := 0x1FF * 2 ^ 55 + 0x7F * 2 ^ 48 + 0x7FFF } ∧ maPlace e = 1 ∧ maKey e = 0 ∧
      1 ≤ maRegions e ∧ maRegions e ≤ 22888 ∧ freeObj s.parts[k] = some obj ∧
      cellarUse s.parts[k] + maRegions e ≤ s.parts[k].cellarQuota.toNat ∧
      lowestRun (cellarHeld s) (cellarRegions s) (maRegions e) = some b) →
    Leads (.memAlloc k e) s fun t =>
      (∃ o, memObj t.parts[k] obj = some o ∧ o.st = .clearing ∧ o.hbmBase = none ∧ o.celBase = some b ∧ o.regions = maRegions e) ∧
      MemoriesKept s t) ∧
  (∀ s k tag p obj due o b, (Canonical s ∧ waitingAs s k tag (fun w => match w with | .memAlloc .. => true | _ => false) = some p ∧
      p.wait = .memAlloc obj due ∧ due ≤ s.meridian.tick ∧ memObj s.parts[k] obj = some o ∧ o.hbmBase = some b ∧ o.celBase = none) →
    Leads (.memAllocComplete k tag) s fun t =>
      (∀ x ∈ t.parts[k].mem, x.obj = obj → x.st = .ready) ∧ (∀ x ∈ t.parts[k].inflight, x.id ≠ p.id) ∧
      (∀ a, (t.hbs[o.stack].mem).read a =
        if b * regionBytes ≤ a ∧ a < (b + o.regions) * regionBytes then 0 else (s.hbs[o.stack].mem).read a) ∧
      (∀ h : Hb, h ≠ o.stack → t.hbs[h].mem = s.hbs[h].mem) ∧ t.cellar.mem = s.cellar.mem)) ∧
  ((∀ s k e o, (Takes s (.ctrl k) e 0x19 { w2 := 0xFFFF } ∧ namedObj s k (objField e.w2) = some o ∧ o.place = 0 ∧ o.writable = false ∧
      o.sealed = false ∧ objLocked s k o = false ∧ (s.parts[k].conf = true → o.keyId = 0 → s.parts[k].session.state = 1)) →
    Leads (.memSeal k e) s fun t =>
      t.parts[k].mem = s.parts[k].mem.map (fun x =>
        if x.obj = o.obj then { x with sealed := true, code := s.parts[k].conf && x.keyId == 0 } else x) ∧
      (∀ j, j ≠ k → t.parts[j].mem = s.parts[j].mem) ∧ MemoriesKept s t) ∧
  (∀ s k e o, (Takes s (.ctrl k) e 0x1A { w2 := 0xFFFF } ∧ namedObj s k (objField e.w2) = some o ∧ objLocked s k o = false ∧
      (o.code = true → s.parts[k].session.state = 1)) → Leads (.memFree k e) s fun t =>
      t.parts[k].mem = s.parts[k].mem.map (fun x =>
        if x.obj = o.obj then
          { x with st := if x.leaving then .evictingFreed else if x.st = .ready ∨ x.st = .readyFreed then .readyFreed else .freeing } else x) ∧
      (∀ j, j ≠ k → t.parts[j].mem = s.parts[j].mem) ∧ MemoriesKept s t) ∧
  (∀ s k e, (Takes s (.ctrl k) e 0x19 { w2 := 0xFFFF } ∧ namedObj s k (objField e.w2) = none) → Leads (.memSeal k e) s fun t =>
      (∀ j : Pt, t.parts[j].mem = s.parts[j].mem) ∧ MemoriesKept s t) ∧
  (∀ s k e, (Takes s (.ctrl k) e 0x1A { w2 := 0xFFFF } ∧ namedObj s k (objField e.w2) = none) → Leads (.memFree k e) s fun t =>
      (∀ j : Pt, t.parts[j].mem = s.parts[j].mem) ∧ MemoriesKept s t))


/-- R394, R400, R406, R410: CACHE_FILL of a CACHED object whose copy stands makes every page of the copy invalid; CACHE_DROP of an
unlocked one releases the copy, of which an evicted one keeps its regions until the boundary. A page that has come whole from the cellar in time, and that no notice has named meanwhile, becomes valid; one
that a notice has named, or that came late or in error, does not (R415–R418). CACHE_FILL_COMPLETE ends a CACHE_FILL whose evictions have taken
effect. No quench holds the partition's traffic, and no write to the copy waits for its region.
The model's choices it rests on: notes/assumptions/151.md, notes/assumptions/153.md. -/
def Obligations.CachedCopies : Prop :=
  (∀ s k e o, (Takes s (.ctrl k) e 0x1C { w2 := 2 ^ 63 + 0xFFFF } ∧ bit e.w2 63 = false ∧ namedObj s k (objField e.w2) = some o ∧
      o.place = 2 ∧ o.hbmBase.isSome = true ∧ o.st = .usable) → Leads (.cacheFill k e) s fun t =>
      t.parts[k].mem = s.parts[k].mem.map (fun x => if x.obj = o.obj then
        { x with pages := [], fetching := x.fetching.map (fun f => { f with good := false }), lastUse := s.meridian.tick } else x) ∧ MemoriesKept s t) ∧
  (∀ s k e o, (Takes s (.ctrl k) e 0x1D { w2 := 0xFFFF } ∧ namedObj s k (objField e.w2) = some o ∧ o.place = 2 ∧ objLocked s k o = false) →
    Leads (.cacheDrop k e) s fun t =>
      t.parts[k].mem = s.parts[k].mem.map (fun x => if x.obj = o.obj then
        { x with hbmBase := none, metaBase := none, metaRegs := 0, pages := [], fetching := [],
                 oldRuns := x.oldRuns ++ (if x.leaving then hbmRuns x x.stack else []),
                 st := match x.st with | .evicting => .usable | .evictingFreed => .freeing | y => y } else x) ∧
      (∀ j, j ≠ k → t.parts[j].mem = s.parts[j].mem) ∧ MemoriesKept s t) ∧
  (∀ s k p obj eager due o x, (waitingAs s k x.tag (fun w => match w with | .cacheFill .. => true | _ => false) = some p ∧
      p.wait = .cacheFill obj eager due ∧ due ≤ s.meridian.tick ∧ memObj s.parts[k] obj = some o ∧ s.stalled.contains (.fill k x) = false ∧
      (eager = true → admits s k = true ∧ copyWaits s k obj 0 (o.regions * regionBytes) = false)) →
    Leads (.cacheFillComplete k x) s fun t => (∀ x ∈ t.parts[k].inflight, x.id ≠ p.id) ∧
      (∀ x ∈ t.parts[k].mem, x.obj = obj → x.lastUse = s.meridian.tick)) ∧
  (∀ s k obj page bad o f, (admits s k = true ∧ memObj s.parts[k] (BitVec.ofNat 16 obj) = some o ∧
      (o.fetching.find? fun x => x.page == page) = some f ∧
      (f.good = false ∨ f.due ≤ s.meridian.tick ∨ bad = true ∨ cellarDown s = true)) →
    Leads (.cachePageRefill k obj ⟨page, bad⟩) s fun t =>
      t.parts[k].mem = s.parts[k].mem.map (fun x => if x.obj = BitVec.ofNat 16 obj then
        { x with fetching := x.fetching.filter (fun y => y.page != page) } else x) ∧ MemoriesKept s t) ∧
  (∀ s k obj page o f hb cb, (admits s k = true ∧ memObj s.parts[k] (BitVec.ofNat 16 obj) = some o ∧
      (o.fetching.find? fun x => x.page == page) = some f ∧ f.good = true ∧ s.meridian.tick < f.due ∧ cellarDown s = false ∧
      o.hbmBase = some hb ∧ o.celBase = some cb) →
    let s1 := modObj s k (BitVec.ofNat 16 obj) fun x => { x with fetching := x.fetching.filter fun y => y.page != page }
    let o1 := { o with fetching := o.fetching.filter fun y => y.page != page }
    copyWaits s1 k (BitVec.ofNat 16 obj) (4096 * page) 4096 = false → (fillLines k o1 cb hb page (List.range 64) s1).2 = 0 →
    Leads (.cachePageRefill k obj ⟨page, false⟩) s fun t => ∀ x ∈ t.parts[k].mem, x.obj = BitVec.ofNat 16 obj → page ∈ x.pages)

/-- R394, R399: CELLAR_COPY into an object of the cellar that the cellar press may write, from a readable range of a stack, waits for its
last line. Into an object without a key, with every source line served without an error, it leaves the bytes of the source at the offset, and
no byte elsewhere in the cellar changes. The cellar press serves the partition and has no pass to run, no quench holds the partition's
traffic, no tracked region has a touched bit for the range, and where a line of the destination is written in part, that line is sound and
stands under no key; the source is read under no key, or no counter tree is forged and no line holds an error.
The model's choices it rests on: notes/assumptions/153.md. -/
def Obligations.CellarCopies : Prop :=
  (∀ s k e o, (IdsFresh s ∧ Takes s (.ctrl k) e 0x1B { w2 := 0xFFFF, w3 := 2 ^ 52 - 1, w4 := 2 ^ 64 - 1, w5 := 2 ^ 32 - 1 } ∧
      namedObj s k (objField e.w2) = some o ∧ o.place ≠ 0 ∧ fld e.w5 31 0 % 4096 = 0 ∧
      e.w4.toNat + fld e.w5 31 0 ≤ o.regions * regionBytes ∧ addrLoc (fld e.w3 51 0) < 2 ^ 40 ∧ o.st ≠ .ready ∧ o.st ≠ .readyFreed ∧
      copyBad s k o (fld e.w3 51 0) e.w4.toNat (fld e.w5 31 0) = none) → Leads (.cellarCopy k e) s fun t =>
      (∃ p ∈ t.parts[k].inflight, p.id = s.nextId ∧ p.wait = .cellarCopy o.obj (BitVec.ofNat 52 (fld e.w3 51 0)) e.w4.toNat (fld e.w5 31 0)) ∧
      t.parts[k].mem = s.parts[k].mem ∧ MemoriesKept s t) ∧
  (∀ s k tag p obj src off len o cb, (Canonical s ∧ waitingAs s k tag (fun w => match w with | .cellarCopy .. => true | _ => false) = some p ∧
      p.wait = .cellarCopy obj src off len ∧ memObj s.parts[k] obj = some o ∧ o.celBase = some cb ∧ o.keyId = 0 ∧
      copyBad s k o src.toNat off len = none ∧ cellarServesPart s k = true ∧ cellarFree s = true ∧ admits s k = true ∧
      s.stalled.contains (.copy k tag) = false ∧ addrLoc src.toNat + len ≤ 2 ^ 40 ∧
      wouldStall s (bankLoc cellarBank (cb * regionBytes + off)) len = false) →
    let pieces := linesOf (addrLoc src.toNat) len
    let got := fun (x : Nat × Nat) => readPiece s k (addrKey src.toNat) x.1 x.2
    let at_ := cb * regionBytes + off
    (∀ x ∈ pieces, (got x).1.st = 0) →
    (addrKey src.toNat = 0 ∨ ∀ m, (bank s m).tree.tampered = [] ∧
      ∀ l, (Sparse.get LineMeta.zero (bank s m).lines l).ue = false ∧ (Sparse.get LineMeta.zero (bank s m).lines l).poison = false) → touchedBits s cellarBank at_ len = [] →
    ((off % 64 = 0 ∧ addrLoc src.toNat % 64 = 0 ∧ len % 64 = 0) ∨ ∀ l, at_ < 64 * (l + 1) → 64 * l < at_ + len →
      let m := Sparse.get LineMeta.zero s.cellar.lines l
      m.poison = false ∧ m.ue = false ∧ m.keyId = 0) → Leads (.cellarCopyComplete k tag) s fun t =>
      (∀ x ∈ pieces, ∀ j, j < x.2 → (t.cellar.mem).read (at_ + (x.1 - addrLoc src.toNat) + j) = ((got x).2.getD j (0, false)).1) ∧
      (∀ a, (a < at_ ∨ at_ + len ≤ a) → (t.cellar.mem).read a = (s.cellar.mem).read a) ∧
      (∀ h : Hb, t.hbs[h].mem = s.hbs[h].mem) ∧ (∀ x ∈ t.parts[k].inflight, x.id ≠ p.id))

/-- R568, R577–R580: KEY_NEW in an ordinary partition whose master slot is live fills the lowest free slot with the memory key of the
key ID at its next generation, below the master slot; no other slot changes. KEY_DESTROY takes VALID from a memory slot of the partition. SLOT_SWEEP clears the
destroyed slots with their descendants (nothing waits that the sweep would let go on). -/
def Obligations.KeySlots : Prop :=
  (∀ s k e i j, (Takes s (.ctrl k) e 0x28 { w2 := 0xFF * 2 ^ 56 + 0xFFFF * 2 ^ 28 } ∧ s.parts[k].conf = false ∧ fld e.w2 63 56 ≠ 0 ∧
      s.parts[k].pmkSlot = some i ∧ slotLive s i.1 = true ∧ (slot s i.1).usage = 3 ∧
      BitVec.ofNat 8 (fld e.w2 43 36) &&& ~~~(slot s i.1).masters = 0 ∧ BitVec.ofNat 8 (fld e.w2 35 28) &&& ~~~(slot s i.1).lcMask = 0 ∧
      (freeSlots s).head? = some j) → Leads (.keyNew k e false) s fun t =>
      let x := slot t j
      let gen := if (s.sc.keys.slots.any fun y => y.2.valid && y.2.usage == 0 && y.2.keyId.toNat == fld e.w2 63 56 && y.2.part.toNat == k.1)
        then nextGen s k (fld e.w2 63 56) else 0
      x.valid = true ∧ x.parent.toNat = i.1 ∧ x.usage = 0 ∧ x.part.toNat = k.1 ∧ x.keyId.toNat = fld e.w2 63 56 ∧ x.kgen = BitVec.ofNat 24 gen ∧
      x.masters.toNat = fld e.w2 43 36 ∧ x.key = memKey s k (fld e.w2 63 56) gen ∧ (∀ n, n ≠ j → slot t n = slot s n) ∧ MemoriesKept s t) ∧
  (∀ s k e, (Canonical s ∧ Takes s (.ctrl k) e 0x29 { w2 := 0x3FF } ∧ s.parts[k].conf = false ∧ (slot s (fld e.w2 9 0)).valid = true ∧
      (slot s (fld e.w2 9 0)).part.toNat = k.1 ∧ (slot s (fld e.w2 9 0)).usage = 0 ∧ (slot s (fld e.w2 9 0)).keyId ≠ 0) →
    Leads (.keyDestroy k e) s fun t =>
      (slot t (fld e.w2 9 0)).valid = false ∧ (∀ n, n ≠ fld e.w2 9 0 → slot t n = slot s n) ∧
      (∃ d ∈ t.sc.keys.dying, d.1 = fld e.w2 9 0) ∧ MemoriesKept s t) ∧
  (∀ s, (Canonical s ∧ s.sc.keys.dying ≠ [] ∧ NothingHeld s) → Leads .slotSweep s fun t =>
      t.sc.keys.dying = [] ∧ t.sc.keys.sweeps = satAdd s.sc.keys.sweeps 1 ∧ (∀ h : Hb, t.hbs[h].mem = s.hbs[h].mem) ∧ t.cellar.mem = s.cellar.mem ∧
      ((∀ m, ∀ e ∈ (bank s m).rekeys, e.waiting = false) → ∀ d ∈ s.sc.keys.dying, slot t d.1 = KeySlot.empty))

/-- R334–R337, R515: PRESS_LOAD of a readable and valid image makes it the pending image of the partition on the units named, and of no
other; the active images stay until a boundary. R93: while a quench holds the traffic of the partition the load waits.
The model's choices it rests on: notes/assumptions/19.md. -/
def Obligations.PressImages : Prop :=
  (∀ s k x, let e := x.e
    Takes s (.ctrl k) e 0x20 { w2 := 0x1FF, w3 := 2 ^ 52 - 1 } →
    let u := taken s (.ctrl k)
    let units := allPss.filter fun p => bit e.w2 p.1
    let addr := fld e.w3 51 0
    let cls := if s.parts[k].conf then 2 else 1
    let h := imageRead u k cls x addr 64
    let n := numAt (h.bs.map (·.1)) 0 4
    let r := imageRead h.s k cls x addr n
    ∀ im, ((s.parts[k].conf = true → s.parts[k].session.state = 1) ∧ units.all (pressPresent s) = true ∧
      admits s k = true ∧ h.st = 0 ∧ n ≤ 98432 ∧ r.st = 0 ∧ imageOf (r.bs.map (·.1)) = some im ∧
      units.all (imageOkOn r.s k im) = true) → Leads (.pressLoad k x) s fun t =>
      (∀ p : Ps, t.presses[p].slots[k].active = s.presses[p].slots[k].active ∧
        t.presses[p].slots[k].pending = if bit e.w2 p.1 then some im else s.presses[p].slots[k].pending) ∧
      (∀ p : Ps, ∀ j, j ≠ k → t.presses[p].slots[j] = s.presses[p].slots[j]) ∧ (∀ h : Hb, t.hbs[h].mem = s.hbs[h].mem)) ∧
  (∀ s k x, (IdsFresh s ∧ Takes s (.ctrl k) x.e 0x20 { w2 := 0x1FF, w3 := 2 ^ 52 - 1 } ∧ admits s k = false ∧
      (s.parts[k].conf = true → s.parts[k].session.state = 1) ∧
      (allPss.filter fun p => bit x.e.w2 p.1).all (pressPresent s) = true) → Leads (.pressLoad k x) s fun t =>
      (∃ p ∈ t.parts[k].inflight, p.id = s.nextId ∧ p.wait = .blocked) ∧ (∀ p : Ps, t.presses[p].slots = s.presses[p].slots) ∧ MemoriesKept s t)


/-! ## Confidential sessions (spec/11_confidential_computing.md) -/

/-- R509, R514, R515, R519, R523: SESSION_SEAL in PROVISIONING holds its queue until no press image waits; then PM is fixed, the budgets
open and the session is SEALED, and the anchor draws the rounding seed; it is RUNNING where it has joined and holds every key. SESSION_CLOSE of an open session closes it at the next boundary:
its scratchpads are zero and no slot of the partition is VALID. The anchor answers a join whose signature and measurement agree, and a
joining device takes the seed of the answer; a device that is no anchor sends its join when it seals, and the anchor its answer.
The model's choices it rests on: notes/assumptions/35.md, notes/assumptions/119.md, notes/assumptions/127.md. -/
def Obligations.Sessions : Prop :=
  (∀ s k e, (IdsFresh s ∧ Takes s (.ctrl k) e 0x38 {} ∧ s.parts[k].conf = true ∧ s.parts[k].session.state = 1) →
    Leads (.sessionSeal k e) s fun t => (∃ p ∈ t.parts[k].inflight, p.id = s.nextId ∧ p.wait = .sessionSeal false) ∧
      t.parts[k].session = s.parts[k].session ∧ MemoriesKept s t) ∧
  (∀ s k p, ((s.parts[k].inflight.find? fun x => match x.wait with | .sessionSeal due => due | _ => false) = some p ∧
      (isAnchor s k = true → roundStopped s = false)) → Leads (.sessionSealComplete k) s fun t =>
      let x := s.parts[k].session
      let y := t.parts[k].session
      let whole := ∀ i, i < manParties x.manifest → manRole x.manifest i = 3 ∨ bit x.delivered i = true
      (y.joined = true → whole → y.state = 3) ∧ (¬(y.joined = true ∧ whole) → y.state = 2) ∧ y.pm = (programMeasurement s k).2 ∧ y.stepLeft = BitVec.ofNat 32 (polStep x.policy) ∧
      y.totalLeft = BitVec.ofNat 64 (polSession x.policy) ∧ y.manifest = x.manifest ∧
      (isAnchor s k = true → y.joined = true ∧ y.pubKey = (transcriptKey s k).2 ∧ t.parts[k].step.seed = (s.draw 32).2) ∧
      (isAnchor s k = false → s.sc.esState = 0 →
        let a := s.draw 56
        let b := a.1.draw 56
        let pub := (keyPair a.2).2
        t.dict.joinOut = s.dict.joinOut ++ [.join (sessionId x) y.pm pub
          (ecdsaSign (keyPair (slot s 5).key).1 (sha384 (sessionId x ++ y.pm ++ pub)) (beNat b.2))]) ∧
      (∀ c : Tc, t.clusters[c].spad = s.clusters[c].spad) ∧ (∀ h : Hb, t.hbs[h].mem = s.hbs[h].mem) ∧ t.cellar.mem = s.cellar.mem) ∧
  (∀ s e, let k : Pt := ⟨fld e.w2 1 0 % 4, Nat.mod_lt _ (by decide)⟩
    (Takes s .admin e 0x39 { w2 := 3 } ∧ sessionOpen s k = true) → Leads (.sessionClose .admin e) s fun t =>
      t.parts[k].session = { s.parts[k].session with closing := true } ∧ MemoriesKept s t) ∧
  (∀ s k e, (Takes s (.ctrl k) e 0x39 {} ∧ sessionOpen s k = true) → Leads (.sessionClose (.ctrl k) e) s fun t =>
      t.parts[k].session = { s.parts[k].session with closing := true } ∧ MemoriesKept s t) ∧
  (∀ s k, (Canonical s ∧ s.parts[k].session.closing = true ∧ sessionOpen s k = true) →
      (closeSession s k).parts[k].session.state = 4 ∧ (∀ c : Tc, s.clusters[c].part = some k → (closeSession s k).clusters[c].spad = []) ∧
      (∀ i, (slot (closeSession s k) i).valid = true → (slot (closeSession s k) i).part.toNat ≠ k.1)) ∧
  (∀ s k m, (partOfSession s m.sessionId = some k ∧ isAnchor s k = true ∧ (s.parts[k].session.state = 2 ∨ s.parts[k].session.state = 3) ∧
      m.sigOk = true ∧ m.pm = s.parts[k].session.pm ∧ s.sc.esState = 0) →
    Leads (.join m) s fun t =>
      let x := s.parts[k].session
      let a := s.draw 56
      let iv := (a.1.draw 12).2
      let key := kdf (ecdhZ (keyPair a.2).1 m.pubKey) "MDR-JOIN" (sessionId x) 32
      let ct := gcmCrypt key iv (answerPlain s k)
      t.parts[k].session = { x with
        peers := if x.peers.contains m.src then x.peers else x.peers ++ [m.src],
        peerKeys := (x.peerKeys.filter fun y => y.1 != m.src) ++ [(m.src, m.pubKey)] } ∧
      t.dict.joinOut = s.dict.joinOut ++ [.answer m.src (sessionId x) (keyPair a.2).2 (iv ++ ct ++ gcmTag key iv [] ct)] ∧ MemoriesKept s t) ∧
  (∀ s k m seed keys, (partOfSession s m.sessionId = some k ∧ m.plain = some (seed, keys) ∧ isAnchor s k = false ∧
      (s.parts[k].session.state = 2 ∨ s.parts[k].session.state = 3) ∧ s.parts[k].session.joined = false) →
    Leads (.joinAnswer m) s fun t => t.parts[k].session.joined = true ∧ t.parts[k].step.seed = seed ∧ MemoriesKept s t)

/-- R520–R522: IMPORT writes what its records hold: each record that is well-formed and whose tag verifies under the party's key is decrypted
to its offset in the destination, or waits where that write waits; EXPORT writes the records of a checkpoint object. The bytes that change are those of the records'
writes alone. R41, R552, R554–R557, R668: RELEASE on the anchor under a REL_ID of the policy queues the release with its step. The first release whose
step has ended applied is judged: refused, it charges nothing, counts in RELEASES_REFUSED and has a transcript entry with its status; granted, it is
charged to both budgets, its record goes to the ring and it has an entry with status 0; held, it waits for the next boundary; with a full
transcript it is refused without an entry.
The model's choices it rests on: notes/assumptions/36.md, notes/assumptions/37.md, notes/assumptions/38.md, notes/assumptions/39.md, notes/assumptions/124.md, notes/assumptions/125.md. -/
def Obligations.ImportExportRelease : Prop :=
  ((∀ k party key src dst a b i, i.st = none → 64 ≤ objBytes src - i.off →
    let r := readRange i.s k (a + i.off) 64
    let h := r.bs.map (·.1)
    let len := numAt h 16 4
    let x := readRange r.s k (a + i.off + 64) (len + 16)
    let bs := x.bs.map (·.1)
    (r.st = 0 ∧ numAt h 0 4 ≠ 0 ∧ recordOk h party (objBytes dst) i.last = true ∧ i.off + 80 + len ≤ objBytes src ∧ x.st = 0 ∧
      gcmTag key (slice h 32 12) h (bs.take len) = bs.drop len) →
    let w := writeRange x.s k (b + numAt h 24 8) (clean (gcmCrypt key (slice h 32 12) (bs.take len))) false
    (w.2 ≠ stStalled → importOne k party key src dst a b i =
      { s := logTransfer w.1 k w.2 (b + numAt h 24 8), off := i.off + 80 + len, last := some (numAt h 8 8), st := if w.2 = 0 then none else some w.2 }) ∧
    (w.2 = stStalled → importOne k party key src dst a b i = { i with s := w.1, st := some stStalled })) ∧
  (∀ s k e src dst i a b, Takes s (.ctrl k) e 0x30 { w2 := 0xFF, w3 := 0xFFFF, w4 := 0xFFFF } →
    let party := fld e.w2 7 0
    let u := taken s (.ctrl k)
    (namedObj s k (objField e.w3) = some src ∧ namedObj s k (objField e.w4) = some dst ∧ sessionOpen s k = true ∧
      party < manParties s.parts[k].session.manifest ∧ wrapSlot s k party = some i ∧ objBase src = some a ∧ objBase dst = some b ∧
      admits s k = true ∧ slotUsable s i 2 2 = true ∧ src.keyId = 0 ∧ importInto u k party dst = true ∧
      checkRange u k 2 a (objBytes src) false = 0 ∧ checkRange u k 2 b (objBytes dst) true = 0) →
    let r := importLoop k party (slot s i).key src dst a b (objBytes src / 80 + 1) { s := u, off := 0, last := none, st := none }
    Leads (.imp k e) s fun t => t.hbs = r.s.hbs ∧ t.cellar = r.s.cellar ∧ (∀ c : Tc, t.clusters[c].spad = r.s.clusters[c].spad)) ∧
  (∀ s k e p src dst i a b, Takes s (.ctrl k) e 0x31 { w2 := 0xFFFF, w3 := 0xFFFF } →
    let u := taken s (.ctrl k)
    let n := (objBytes src + 2 ^ 20 - 1) / 2 ^ 20
    (sessionOpen s k = true ∧ custodian s.parts[k].session.manifest = some p ∧ namedObj s k (objField e.w2) = some src ∧
      namedObj s k (objField e.w3) = some dst ∧ wrapSlot s k p = some i ∧ objBase src = some a ∧ objBase dst = some b ∧
      slotUsable s i 2 2 = true ∧ dst.keyId = 0 ∧ src.obj ≠ 0 ∧ s.parts[k].ckptObj.contains src.obj = true ∧ objBytes src + 80 * n ≤ objBytes dst ∧
      s.sc.esState = 0 ∧ admits s k = true ∧ checkRange u k 2 a (objBytes src) false = 0 ∧ checkRange u k 2 b (objBytes dst) true = 0) →
    let r := (List.range n).foldl (fun x _ => exportOne k p (slot s i).key src a b x) { s := u, off := 0, seq := 1, st := none }
    Leads (.exp k e) s fun t => t.hbs = r.s.hbs ∧ t.cellar = r.s.cellar ∧ (∀ c : Tc, t.clusters[c].spad = r.s.clusters[c].spad))) ∧
  ((∀ s k j e, (Takes s (.data k j) e 0x51 { w2 := 0xF, w3 := 2 ^ 52 - 1 } ∧ isAnchor s k = true ∧
      (polEntry s.parts[k].session.policy (fld e.w2 3 0)).isSome = true) → Leads (.release k j e) s fun t =>
      t.parts[k].session.releases = s.parts[k].session.releases ++
        [{ relId := BitVec.ofNat 4 (fld e.w2 3 0), src := BitVec.ofNat 52 (fld e.w3 51 0), step := s.parts[k].step.number, due := false, held := false, owners := 0 }] ∧
      t.parts[k].session.stepLeft = s.parts[k].session.stepLeft ∧ MemoriesKept s t) ∧
  (∀ s k r rest e, (s.parts[k].session.releases = r :: rest ∧ r.due = true ∧ r.held = false ∧ polEntry s.parts[k].session.policy r.relId.toNat = some e ∧
      isAnchor s k = true) →
    let x := s.parts[k].session
    (gateVerdict s k r e = .hold → Leads (.gateRelease k) s fun t => t.parts[k].session = { x with releases := { r with held := true } :: rest } ∧
      t.parts[k].relTail = s.parts[k].relTail ∧ MemoriesKept s t) ∧
    (gateVerdict s k r e = .full → Leads (.gateRelease k) s fun t =>
      t.parts[k].session = { x with releases := rest, refused := satAdd x.refused 1 }) ∧
    (∀ st, gateVerdict s k r e = .refuse st → Leads (.gateRelease k) s fun t =>
      let y := t.parts[k].session
      y.releases = rest ∧ y.refused = satAdd x.refused 1 ∧ y.stepLeft = x.stepLeft ∧ y.totalLeft = x.totalLeft ∧
      (∃ n, y.transcript = x.transcript ++ [n] ∧ n.status = BitVec.ofNat 8 st ∧ n.step = r.step ∧ n.bytes = 0) ∧
      t.parts[k].relTail = s.parts[k].relTail ∧ (st ≠ 2 → t.hbs = s.hbs ∧ t.cellar = s.cellar)) ∧
    (gateVerdict s k r e = .go → Leads (.gateRelease k) s fun t =>
      let y := t.parts[k].session
      y.releases = rest ∧ y.refused = x.refused ∧ y.stepLeft.toNat + relBytes e = x.stepLeft.toNat ∧
      y.totalLeft.toNat + relBytes e = x.totalLeft.toNat ∧
      (∃ n, y.transcript = x.transcript ++ [n] ∧ n.status = 0 ∧ n.step = r.step ∧ n.bytes = BitVec.ofNat 64 (relBytes e)) ∧
      t.parts[k].relTail.toNat = (s.parts[k].relTail.toNat % 2 ^ s.parts[k].relLog2.toNat + relBytes e) % 2 ^ s.parts[k].relLog2.toNat)))

/-! ## Streams, replay units and sync objects (spec/02_meridian_and_scheduling.md, spec/07_replay_and_escalation.md) -/

/-- R763, R676, R307, R320, R415: a data command that names clusters enters their streams. SQ_RUN stands in the stream of each cluster whose
program has commands to issue; MOVE in that of its cluster; UNIT_END in those of its unit; UNIT_BEGIN opens the unit of its mark with its
share of the hold, or on a further queue joins the open unit of the mark (R297, R302); a STEP_FENCE at the front of a stream is passed at once. No memory changes. R416, R425: MOVE_COMPLETE of a MOVE that its mover carries, in time, between two ranges that it may read and write, where no merge
window and no quench is in the way: the bytes read are written, and the command completes. No replay unit is rolling back, no read can fence
a cluster, and no press runs over a fenced stack.
The model's choices it rests on: notes/assumptions/7.md, notes/assumptions/82.md, notes/assumptions/145.md. -/
def Obligations.StreamCommands : Prop :=
  ((∀ s k j e items, (IdsFresh s ∧ Takes s (.data k j) e 0x40 { w2 := 0xFFFF, w3 := 2 ^ 25 - 1, w4 := 2 ^ 25 - 1 } ∧
      clustersStatus s k (BitVec.ofNat 16 (fld e.w2 15 0)) = 0 ∧
      (s.parts[k].conf = true → ∀ c ∈ tcsOf (BitVec.ofNat 16 (fld e.w2 15 0)), Sparse.get false s.clusters[c].code (fld e.w3 24 0 / 128) = true)) →
    Leads (.sqRun k j e items) s fun t =>
      (∀ c : Tc, bit (BitVec.ofNat 16 (fld e.w2 15 0)) c.1 = true → items.getD c.1 0 ≠ 0 →
        ∃ b ∈ t.clusters[c].jobs, b.id = s.nextId ∧ b.kind = .run ∧ b.part = k ∧ b.e = e ∧ b.total = items.getD c.1 0) ∧ MemoriesKept s t) ∧
  (∀ s k j e, (IdsFresh s ∧ Takes s (.data k j) e 0x41 { w2 := 2 ^ 52 - 1, w3 := 2 ^ 52 - 1, w4 := 2 ^ 32 - 1, w5 := 0xF0F } ∧
      s.clusters[mvCluster e].part = some k ∧ s.clusters[mvCluster e].fenced = false) → Leads (.move k j e) s fun t =>
      (mvLen e ≠ 0 → ∃ b ∈ t.clusters[mvCluster e].jobs, b.id = s.nextId ∧ b.kind = .move ∧ b.part = k ∧ b.e = e) ∧
      (mvLen e = 0 → ∀ r ∈ t.reqs, r.id ≠ s.nextId) ∧ MemoriesKept s t) ∧
  (∀ s k j e bs, let h := BitVec.ofNat 32 (fld e.w2 31 0)
    let m := markClusters { typ := 6, gen := 0, idx := 0, bytes := bs, st := .active }
    (Takes s (.data k j) e 0x48 { w2 := 2 ^ 32 - 1 } ∧ findObj s k 6 h = .ok bs ∧ (∀ c ∈ tcsOf m, s.clusters[c].fenced = false) ∧
      markCmds { typ := 6, gen := 0, idx := 0, bytes := bs, st := .active } ≤ s.parts[k].data[j].size ∧ s.parts[k].units.length < 8 ∧
      unitOf s.parts[k] h = none ∧ (holdPlan s.parts[k] bs m).2 ≤ freeSpill s.parts[k]) → Leads (.unitBegin k j e) s fun t =>
      (∃ u, unitOf t.parts[k] h = some u ∧ u.qs = [j] ∧ u.captured = none ∧ u.hold = (holdPlan s.parts[k] bs m).1 ∧
        u.spillBytes = (holdPlan s.parts[k] bs m).2 ∧ u.threshold = s.parts[k].policy.flush) ∧
      t.parts[k].units.map (fun u => u.mark) = s.parts[k].units.map (fun u => u.mark) ++ [h] ∧ MemoriesKept s t) ∧
  (∀ s k j e bs u, let h := BitVec.ofNat 32 (fld e.w2 31 0)
    (Takes s (.data k j) e 0x48 { w2 := 2 ^ 32 - 1 } ∧ findObj s k 6 h = .ok bs ∧
      (∀ c ∈ tcsOf (markClusters { typ := 6, gen := 0, idx := 0, bytes := bs, st := .active }), s.clusters[c].fenced = false) ∧
      markCmds { typ := 6, gen := 0, idx := 0, bytes := bs, st := .active } ≤ s.parts[k].data[j].size ∧ unitOf s.parts[k] h = some u ∧
      u.qs.contains j = false ∧ u.completed = false ∧ u.rolling = false) → Leads (.unitBegin k j e) s fun t =>
      (∃ u', unitOf t.parts[k] h = some u' ∧ u'.qs = u.qs ++ [j] ∧ u'.captured = u.captured) ∧ MemoriesKept s t) ∧
  (∀ s k j e bs, let h := BitVec.ofNat 32 (fld e.w2 31 0)
    (Takes s (.data k j) e 0x49 { w2 := 2 ^ 32 - 1 } ∧ findObj s k 6 h = .ok bs ∧ openUnitOfQueue s k j = some h) →
    Leads (.unitEnd k j e) s fun t =>
      (∀ c ∈ tcsOf (markClusters { typ := 6, gen := 0, idx := 0, bytes := bs, st := .active }),
        ∃ b ∈ t.clusters[c].jobs, b.id = s.nextId ∧ b.kind = .unitEnd ∧ b.unit = some h) ∧ MemoriesKept s t) ∧
  (∀ s k j e, (Takes s (.data k j) e 0x4A { w2 := 0xFFFF } ∧ clustersStatus s k (BitVec.ofNat 16 (fld e.w2 15 0)) = 0 ∧
      s.parts[k].step.phase = .compute) → Leads (.stepFence k j e) s fun t =>
      (∀ c : Tc, bit (BitVec.ofNat 16 (fld e.w2 15 0)) c.1 = true → s.clusters[c].jobs = [] → bit t.parts[k].step.fences c.1 = true) ∧
      t.parts[k].step.phase = .compute ∧ MemoriesKept s t)) ∧
  (∀ s id r, (s.reqs.find? (fun x => x.id == id) = some r ∧ moveRuns s r = true ∧
      (fromCellar s r = false ∨ (s.meridian.tick < r.deadline ∧ cellarDown s = false ∧ ∀ x ∈ r.pieces, x.2 ≠ none)) ∧
      moveBad s r.part r = none ∧ NoSpadFence s ∧ admits s r.part = true ∧
      mergeAt s r.part r.src = none ∧ mergeAt s r.part r.dst = none ∧ NoRollBack s) →
    let x := readRange s r.part r.src r.len
    let u := stampFetches s.parts[r.part] x.s r.part r.deadline
    let w := writeRange u r.part r.dst x.bs (allCode u r.part r.src r.len)
    (x.st = 0 ∧ w.2 = 0) → Leads (.moveComplete id ⟨false, false⟩) s fun t =>
      (∀ c : Tc, t.clusters[c].spad = w.1.clusters[c].spad) ∧ (∀ h : Hb, t.hbs[h].mem = w.1.hbs[h].mem) ∧ t.cellar.mem = w.1.cellar.mem ∧
      (∀ p ∈ t.parts[r.part].inflight, p.id ≠ r.id))


/-- R140, R305–R320: the life of a replay unit. It is captured once every cluster has reached its UNIT_BEGIN: the hold region of each cluster,
and the spill region for the excess, keep every page of its KIND 0 ranges that holds no poison, and nothing else is written. It completes once all has passed and ended; where too much was flushed, it escalates: its level rises by one and
it stands as it stood captured, or at the top level the result stands and counts as a ceiling. It retires in order, without a cause. A send that came too late is revoked, and
the unit replays. The compute phase ends once every unfenced cluster has passed its fence and no unit is open.
The model's choices it rests on: notes/assumptions/48.md, notes/assumptions/74.md, notes/assumptions/80.md, notes/assumptions/86.md. -/
def Obligations.ReplayUnits : Prop :=
  (∀ s k mark u o, (Canonical s ∧ NoSpadFence s ∧ unitOf s.parts[k] mark = some u ∧ objOf s.parts[k] mark = some o ∧ u.captured = none ∧
      u.reached &&& markClusters o = markClusters o) →
    let lo := s.parts[k].holdBase.toNat
    let hi := lo + s.parts[k].holdSize.toNat
    (lo % 8 = 0 ∧ (∀ x ∈ u.hold, x.2.Nodup ∧ ∀ q ∈ x.2, lo + 4096 * (q + 1) ≤ hi) ∧ ∀ a ∈ markPages o.bytes, a + 4096 ≤ lo ∨ hi ≤ a) →
    Leads (.unitCapture k mark) s fun t =>
      ∃ u' caps, unitOf t.parts[k] mark = some u' ∧ u'.captured = some caps ∧
        (∀ c ∈ tcsOf (markClusters o), ∀ a ∈ markPages o.bytes, (∀ x ∈ spadPeek s.clusters[c] a 4096, x.2 = false) →
          ∃ y ∈ caps, y.cluster = c ∧ y.addr = a ∧ capturedBytes t k y = spadPeek s.clusters[c] a 4096) ∧
        (∀ c : Tc, ∀ a, (a < lo ∨ hi ≤ a) → (t.clusters[c].spad).read a = (s.clusters[c].spad).read a) ∧ t.hbs = s.hbs ∧ t.cellar = s.cellar) ∧
  (∀ s k mark u o, (unitOf s.parts[k] mark = some u ∧ objOf s.parts[k] mark = some o ∧ u.captured.isSome = true ∧ u.completed = false ∧
      u.rolling = false ∧ u.rerunWait = false ∧ unitEnded u &&& markClusters o = markClusters o ∧ unitBusy s k mark = false) →
    (flushFails u = false → Leads (.unitComplete k mark) s fun t =>
      (∃ u', unitOf t.parts[k] mark = some u' ∧ u'.completed = true ∧ u'.causes = u.causes) ∧ MemoriesKept s t) ∧
    (flushFails u = true → u.ceilings = [] → (markMax o ≤ (levelFor s.parts[k] (some mark) o.idx).toNat ∨ u.wideOnly = true) →
      Leads (.unitComplete k mark) s fun t =>
        (∃ u', unitOf t.parts[k] mark = some u' ∧ u'.completed = true ∧ u'.causes = u.causes) ∧
        t.parts[k].counters.ceilings = satAdd s.parts[k].counters.ceilings 1 ∧ MemoriesKept s t) ∧
    (flushFails u = true → (levelFor s.parts[k] (some mark) o.idx).toNat < markMax o → u.wideOnly = false → s.parts[k].units = [u] → u.routes = [] →
      (markState s.parts[k] o.idx).replays.toNat < s.parts[k].policy.replayLimit.toNat → Leads (.unitComplete k mark) s fun t =>
        (∃ u', unitOf t.parts[k] mark = some u' ∧ u'.completed = false ∧ u'.causes = 0 ∧ u'.captured = u.captured) ∧
        (markState t.parts[k] o.idx).level = levelFor s.parts[k] (some mark) o.idx + 1 ∧
        t.parts[k].counters.escalations = satAdd s.parts[k].counters.escalations 1)) ∧
  (∀ s k mark u rest, (s.parts[k].units = u :: rest ∧ u.mark = mark ∧ u.completed = true ∧ u.causes = 0 ∧ u.rolling = false ∧
      (∀ p ∈ s.parts[k].inflight, p.wait ≠ .head)) → Leads (.unitRetire k mark) s fun t =>
      t.parts[k].units.map (fun x => x.mark) = rest.map (fun x => x.mark) ∧ MemoriesKept s t) ∧
  (∀ s k mark u o, (s.parts[k].units = [u] ∧ u.mark = mark ∧ objOf s.parts[k] mark = some o ∧ u.rolling = false ∧ u.causes = 0 ∧
      lateSends s k mark ≠ [] ∧ unitRunning s k mark = false ∧
      (markState s.parts[k] o.idx).replays.toNat < s.parts[k].policy.replayLimit.toNat) → Leads (.unitLateRevoke k mark) s fun t =>
      lateSends t k mark = [] ∧ t.parts[k].counters.replays = satAdd s.parts[k].counters.replays 1 ∧
      (markState t.parts[k] o.idx).level = (markState s.parts[k] o.idx).level) ∧
  (∀ s k, (s.parts[k].live = true ∧ s.parts[k].step.phase = .compute ∧
      (s.parts[k].step.fences ||| fencedOf s k) &&& s.parts[k].clusters = s.parts[k].clusters ∧ s.parts[k].units = [] ∧
      (s.parts[k].conf = true → s.parts[k].session.state = 3)) → Leads (.computePhaseEnd k) s fun t =>
      t.parts[k].step = { s.parts[k].step with phase := .decide, endTick := s.meridian.tick } ∧ MemoriesKept s t)

/-- R71–R80: SIGNAL adds to an object of the partition's range, saturating with the flags of its groups, and is dropped and counted
outside it. WAIT takes from an object that holds enough, waits where it does not, and with timeout 0 ends; a WAIT that times out leaves the
file, and one that a SIGNAL of the same clock satisfies is served and counted. While its clock goes on, nothing is served (R79). No memory changes. Where the value is stated exactly, nothing
else runs that could signal.
The model's choices it rests on: notes/assumptions/112.md. -/
def Obligations.SyncObjects : Prop :=
  let quiet := fun (s : State) => s.waiters = [] ∧ ∀ c : Tc, s.clusters[c].jobs = []
  (∀ s k j e, (quiet s ∧ Takes s (.data k j) e 0x58 { w2 := 0xFFFF3FFF } ∧ fld e.w2 31 16 ≠ 0 ∧ fld e.w0 40 25 = 0) →
    let o := fld e.w2 13 0
    let sum := (syncGet s o).toNat + fld e.w2 31 16
    (syncReach s.parts[k] o = true → Leads (.signal (.queue k j e)) s fun t =>
      (syncGet t o).toNat = min sum (2 ^ 32 - 1) ∧ (∀ x, x ≠ o → syncGet t x = syncGet s x) ∧
      t.parts[k].syncOvf = (if 2 ^ 32 ≤ sum then s.parts[k].syncOvf ||| ovfFlags s.parts[k] o else s.parts[k].syncOvf) ∧ MemoriesKept s t) ∧
    (syncReach s.parts[k] o = false → Leads (.signal (.queue k j e)) s fun t =>
      t.sync = s.sync ∧ t.parts[k].counters.rangeDrops = satAdd s.parts[k].counters.rangeDrops 1 ∧ MemoriesKept s t)) ∧
  (∀ s c k id pc obj n, (s.waiters = [] ∧ sqRunning s c = some (k, id) ∧ sqFetchBad s k c pc = false ∧ n ≠ 0 ∧ syncReach s.parts[k] (BitVec.toNat obj) = true) →
    Leads (.signal (.sq c pc obj n)) s fun t =>
      min ((syncGet s obj.toNat).toNat + BitVec.toNat n) (2 ^ 32 - 1) ≤ (syncGet t obj.toNat).toNat ∧ MemoriesKept s t) ∧
  (∀ s k j e, (Canonical s ∧ IdsFresh s ∧ quiet s ∧ Takes s (.data k j) e 0x59 { w2 := 2 ^ 63 + 0xFFFFFF * 2 ^ 32 + 0xFFFF3FFF } ∧ fld e.w0 40 25 = 0 ∧
      waitBad (fld e.w2 31 16) (bit e.w2 63) (fld e.w2 55 32) = false ∧ syncReach s.parts[k] (fld e.w2 13 0) = true) →
    let o := fld e.w2 13 0
    let n := fld e.w2 31 16
    (n ≤ (syncGet s o).toNat → Leads (.wait ⟨.queue k j e, false⟩) s fun t =>
      (syncGet t o).toNat + n = (syncGet s o).toNat ∧ t.waiters = [] ∧ (∀ x, x ≠ o → syncGet t x = syncGet s x) ∧ MemoriesKept s t) ∧
    ((syncGet s o).toNat < n → fld e.w2 55 32 = 0 → Leads (.wait ⟨.queue k j e, false⟩) s fun t => t.waiters = [] ∧ t.sync = s.sync) ∧
    ((syncGet s o).toNat < n → fld e.w2 55 32 ≠ 0 → Leads (.wait ⟨.queue k j e, false⟩) s fun t => t.sync = s.sync ∧
      ∃ w, t.waiters = [w] ∧ w.id = s.nextId ∧ w.obj.toNat = o ∧ w.n.toNat = n ∧ w.left = fld e.w2 55 32 ∧ w.src = none) ∧
    (Leads (.wait ⟨.queue k j e, true⟩) s fun t => t.sync = s.sync ∧ (∃ w, t.waiters = [w] ∧ w.id = s.nextId ∧ w.arrived = true) ∧ MemoriesKept s t)) ∧
  (∀ s c k id b pc obj n timeout tick more, (sqFetchBad s k c pc = false ∧ s.waiters = [] ∧ s.clusters[c].jobs = [b] ∧ (∀ c', c' ≠ c → s.clusters[c'].jobs = []) ∧ sqRunning s c = some (k, id) ∧ waitBad (BitVec.toNat n) tick (BitVec.toNat timeout) = false ∧
      syncReach s.parts[k] (BitVec.toNat obj) = true ∧ (syncGet s obj.toNat).toNat < n.toNat ∧ timeout ≠ 0) →
    Leads (.wait ⟨.sq c pc obj n timeout tick, more⟩) s fun t => (∃ w ∈ t.waiters, w.id = s.nextId ∧ w.src = some c ∧ w.obj = obj ∧ w.n = n) ∧ MemoriesKept s t) ∧
  (∀ s w, (s.waiters = [w] ∧ (w.ticks = true → w.left = 0)) →
    ((syncGet s w.obj.toNat).toNat < w.n.toNat → Leads (.waitTimeout w.id ⟨[], false⟩) s fun t => t.waiters = [] ∧ MemoriesKept s t) ∧
    (∀ k x, x.part = some k → syncReach s.parts[k] x.obj.toNat = true → x.obj = w.obj →
      w.n.toNat ≤ (syncGet s w.obj.toNat).toNat + x.n.toNat → (syncGet s w.obj.toNat).toNat + x.n.toNat < 2 ^ 32 →
      Leads (.waitTimeout w.id ⟨[x], false⟩) s fun t => t.waiters = [] ∧
        t.parts[w.part].counters.coincident = satAdd s.parts[w.part].counters.coincident 1 ∧ MemoriesKept s t))

/-- R77: "A WAIT that times out completes with the timeout status and leaves the value of the object unchanged." A WAIT of a data queue completes
with the status on its queue, and one of an SQ has it as its result. No command's completion signals an object. -/
def Obligations.WaitTimesOut : Prop :=
  ∀ s w, (s.waiters = [w] ∧ (w.ticks = true → w.left = 0) ∧ (syncGet s w.obj.toNat).toNat < w.n.toNat ∧
      ∀ k : Pt, ∀ p ∈ s.parts[k].inflight, fld p.e.w0 40 25 = 0) →
    (∀ p, w.src = none → findPending s w.part w.id = some p → qPart p.q = some w.part → s.parts[w.part].conf = false →
      (∀ c : Tc, s.clusters[c].jobs = []) → Leads (.waitTimeout w.id ⟨[], false⟩) s fun t =>
        t.sync = s.sync ∧ t.waiters = [] ∧ (t.queue p.q).lastSt = 0x0E ∧ findPending t w.part w.id = none) ∧
    (∀ c, w.src = some c → Leads (.waitTimeout w.id ⟨[], false⟩) s fun t => t.sync = s.sync ∧ t.waiters = [] ∧ t.clusters[c].waitOut = 0x0E)
/-! ## Work items and the matrix engine (spec/02_meridian_and_scheduling.md, spec/04_tensor_cluster.md, spec/05_accumulation_and_reduction.md) -/

/-- R54, R55, R697: a work item whose budget the clocks left do not cover is held in the SQ, and nothing else changes; the next
dispatch tries the first held one, which still waits while the clocks do not cover it. -/
def Obligations.DispatchHeld : Prop :=
  (∀ s c w t k b, (sqReady s c = some (k, b) ∧ sqFetchBad s k c t.pc = false ∧ s.clusters[c].heldWork = [] ∧ badBudget s w.budget = false ∧
      fitsClocks s w.budget t.clocksLeft = false) →
    (s.clusters[c].meQueue.length < 16 → w.opcode ≠ 0x18 → Leads (.mma c w t) s fun s' =>
      s'.clusters[c].heldWork = [{ isVe := false, w := w, budget := BitVec.ofNat 20 w.budget, job := b.id }] ∧ MemoriesKept s s' ∧
      s'.clusters[c].meQueue = s.clusters[c].meQueue) ∧
    (s.clusters[c].meQueue.length < 16 → w.opcode = 0x18 → Leads (.estReset c w t) s fun s' =>
      s'.clusters[c].heldWork = [{ isVe := false, w := w, budget := BitVec.ofNat 20 w.budget, job := b.id }] ∧ MemoriesKept s s' ∧
      s'.clusters[c].meQueue = s.clusters[c].meQueue) ∧
    (s.clusters[c].ve.queue.length < 16 → Leads (.vexec c w t) s fun s' =>
      s'.clusters[c].heldWork = [{ isVe := true, w := w, budget := BitVec.ofNat 20 w.budget, job := b.id }] ∧ MemoriesKept s s' ∧
      s'.clusters[c].ve = s.clusters[c].ve)) ∧
  (∀ s c x k b h rest, (sqReady s c = some (k, b) ∧ s.clusters[c].heldWork = h :: rest ∧
      (s.clusters[c].jobs.any fun x => x.id == h.job && x.kind == .run) = true ∧ fitsClocks s h.budget.toNat x.clocksLeft = false) →
    exec (.workItemDispatch c x) s = .next s)

/-- R240, R242, R292: a VEXEC that the clocks cover enters an idle VE, which starts it: its PC, its VL, flags 0, no open loop, s1 to s15
from the argument block, its number. R54: so does a held one at its dispatch. No read of the argument block can fence a cluster.
The model's choices it rests on: notes/assumptions/18.md. -/
def Obligations.VectorItemStarts : Prop :=
  let starts := fun (s t : State) (c : Tc) (w : MatWords) =>
    (∃ i, t.clusters[c].ve.run = some i ∧ i.pc = fld w.w1 24 0 ∧ i.number = s.clusters[c].ve.items) ∧
    t.clusters[c].ve.regs.vl = BitVec.ofNat 9 (fld w.w0 35 27) ∧ t.clusters[c].ve.regs.flags = 0 ∧ t.clusters[c].ve.regs.loops = [] ∧
    (∀ j, j < 16 → sGet t.clusters[c].ve.regs j =
      if j = 0 then 0 else BitVec.ofNat 64 (spadNum s.clusters[c] s.fresh (fld w.w3 24 0 + 8 * j) 8)) ∧
    t.clusters[c].ve.regs.v = s.clusters[c].ve.regs.v ∧ t.clusters[c].ve.regs.m = s.clusters[c].ve.regs.m ∧
    t.clusters[c].ve.items = s.clusters[c].ve.items + 1 ∧ MemoriesKept s t
  (∀ s c w t k b, (NoSpadFence s ∧ sqReady s c = some (k, b) ∧ sqFetchBad s k c t.pc = false ∧ s.clusters[c].heldWork = [] ∧ s.clusters[c].ve.run = none ∧ s.clusters[c].ve.queue = [] ∧
      badBudget s w.budget = false ∧ fitsClocks s w.budget t.clocksLeft = true ∧ vexecBad w = false) →
    Leads (.vexec c w t) s fun s' => starts s s' c w) ∧
  (∀ s c x k b h rest, (NoSpadFence s ∧ sqReady s c = some (k, b) ∧ s.clusters[c].heldWork = h :: rest ∧ h.isVe = true ∧ s.clusters[c].ve.run = none ∧
      s.clusters[c].ve.queue = [] ∧ (s.clusters[c].jobs.any fun x => x.id == h.job && x.kind == .run) = true ∧
      fitsClocks s h.budget.toNat x.clocksLeft = true ∧ vexecBad h.w = false) →
    Leads (.workItemDispatch c x) s fun s' => s'.clusters[c].heldWork = rest ∧ starts s s' c h.w)

/-- R147, R165–R168, R182, R202, R206, R214–R223: an accepted MMA on an idle ME is taken by the array at once. Its sums, of the k-steps that its
fields name, over the tiles that its handles give, wait in a latch; the memories are not written. BANK_STALLS and DRAIN_STALLS rise by the
clocks that the command names (R191, R234). No operand read can fence a cluster.
The model's choices it rests on: notes/assumptions/14.md, notes/assumptions/57.md. -/
def Obligations.MatrixPass : Prop :=
  ∀ s c w t k b ba bb bc da db, (NoSpadFence s ∧ sqReady s c = some (k, b) ∧ sqFetchBad s k c t.pc = false ∧ s.clusters[c].heldWork = [] ∧ s.clusters[c].meQueue = [] ∧
      s.clusters[c].latches = [] ∧ badBudget s w.budget = false ∧ fitsClocks s w.budget t.clocksLeft = true ∧
      w.opcode = 0x10 ∧ w.reservedOk = true ∧ w.mask = false ∧ (w.first = true ∨ followOk s.clusters[c] w = true) ∧
      findObj s k 1 (tileHandle s k b.unit w.aHandle) = .ok ba ∧ findObj s k 1 (tileHandle s k b.unit w.bHandle) = .ok bb ∧
      TileDesc.ofBytes ba = some da ∧ TileDesc.ofBytes bb = some db ∧
      ((w.last = false ∧ w.cHandle = 0 ∧ badMma s.parts[k] w da db none = false) ∨
        (w.last = true ∧ w.cHandle ≠ 0 ∧ findObj s k 1 (tileHandle s k b.unit w.cHandle) = .ok bc ∧
          ∃ dc, TileDesc.ofBytes bc = some dc ∧ badMma s.parts[k] w da db (some dc) = false))) →
    Leads (.mma c w t) s fun s' => ∃ l : Latch, s'.clusters[c].latches = [l] ∧ l.item.w = w ∧ l.item.tile = w.accTile ∧ l.skip = false ∧
      l.sums = (passSums da.fmt db.fmt w.long (wexpInt l.item.wexp)
        ((List.range w.ksteps).map fun j => da.tile s.clusters[c] s.fresh w.rowTile (w.kTile + j))
        ((List.range w.ksteps).map fun j => db.tile s.clusters[c] s.fresh w.colTile (w.kTile + j))).map (fun x => x.1) ∧
      s'.clusters[c].meQueue = [] ∧ MemoriesKept s s' ∧
      s'.parts[k].counters.bankStalls = satAdd s.parts[k].counters.bankStalls t.bankStalls ∧
      s'.parts[k].counters.drainStalls = satAdd s.parts[k].counters.drainStalls t.drainStalls

/-- R174, R177: EST_RESET on an idle ME sets the estimator of the descriptor to its initial value, and no other estimator; a frozen cluster's
estimators keep their state.
The model's choices it rests on: notes/assumptions/56.md. -/
def Obligations.EstimatorReset : Prop :=
  ∀ s c w t k b bc dc, (Canonical s ∧ sqReady s c = some (k, b) ∧ sqFetchBad s k c t.pc = false ∧
      (w.mask = true → bit s.parts[k].seqContexts w.seqCtx = true) ∧ s.clusters[c].heldWork = [] ∧ s.clusters[c].meQueue = [] ∧
      s.clusters[c].latches = [] ∧ badBudget s w.budget = false ∧ fitsClocks s w.budget t.clocksLeft = true ∧ NoRollBack s ∧
      w.opcode = 0x18 ∧ w.reservedOk = true ∧ findObj s k 1 (tileHandle s k b.unit w.cHandle) = .ok bc ∧ TileDesc.ofBytes bc = some dc) →
    Leads (.estReset c w t) s fun s' =>
      estGet s'.clusters[c] dc.estId = (if s.clusters[c].frozen then estGet s.clusters[c] dc.estId else { w := [dc.estInit], cur := 0, c := 0 }) ∧
      (∀ n, n ≠ dc.estId → estGet s'.clusters[c] n = estGet s.clusters[c] n) ∧ MemoriesKept s s'

/-- R208, R209, R213, R216, R221, R222, R228: DRAIN of the only pass, which is not LAST, adds its sums to its tile, or with FIRST puts them there; every other byte of
the scratchpad stays. No word of the tile is poisoned, no transfer of the merge window waits, no replay unit is rolling back, and no read can
fence a cluster. With LAST and
no replay unit, the scratchpad is then what the write-out of the tile leaves. -/
def Obligations.Drains : Prop :=
  ∀ s c k l, (Canonical s ∧ s.clusters[c].part = some k ∧ s.clusters[c].latches = [l] ∧ s.clusters[c].meQueue = [] ∧ l.skip = false ∧
      s.clusters[c].window = [] ∧ NoRollBack s ∧ NoSpadFence s) →
    let p := s.parts[k]
    let x := s.clusters[c]
    let es := (drainSums x s.fresh p l).1
    let bs := tileBytes l.item.long es
    let a0 := accAddr p (headOf l.item.long l.item.tile)
    (l.item.last = false → (∀ i, i < bs.length → Sparse.get false x.poison ((a0 + i) / 8) = false) → Leads (.drain c) s fun t =>
      t.clusters[c].latches = [] ∧ t.clusters[c].drains = x.drains + 1 ∧
      (∀ i, i < bs.length → (t.clusters[c].spad).read (a0 + i) = bs.getD i 0) ∧
      (∀ a, (a < a0 ∨ a0 + bs.length ≤ a) → (t.clusters[c].spad).read a = x.spad.read a) ∧
      (∀ c', c' ≠ c → t.clusters[c'].spad = s.clusters[c'].spad) ∧ t.hbs = s.hbs ∧ t.cellar = s.cellar) ∧
    (∀ d, l.item.last = true → l.item.unit = none → TileDesc.ofBytes l.item.c = some d → Leads (.drain c) s fun t =>
      let u := if l.item.first then s else spadTouched s c (oldRanges x p l.item.long l.item.tile)
      t.clusters[c].latches = [] ∧
      t.clusters[c].spad = (writeOut (drainTile u.clusters[c] p l.item.long l.item.tile es) u.fresh d l.item
        (tileF32 l.item.long (wexpInt l.item.wexp) es)).c.spad ∧
      (∀ c', c' ≠ c → t.clusters[c'].spad = s.clusters[c'].spad) ∧ t.hbs = s.hbs ∧ t.cellar = s.cellar)

/-- R181, R191, R714–R716: a verdict counts in CHECK_RUNS, a mismatch also in CHECK_MISMATCH and in the cluster's window; a verdict without a
mismatch writes no scratchpad. The columns of the mismatch are those that sound arithmetic gives, turned over where the hardware's comparison
came out otherwise. R178, R179: over an exact k-step O_j and P_j of sound arithmetic are equal in every column.
The model's choices it rests on: notes/assumptions/131.md, notes/assumptions/149.md. -/
def Obligations.CheckVerdicts : Prop :=
  (∀ x fresh (a b : TileDesc) ro kt co j, let y := exactColumn (a.tile x fresh ro kt) (b.tile x fresh co kt) j
    y.1 = y.2) ∧
  ∀ s c k v rest h, (s.clusters[c].part = some k ∧ s.clusters[c].verdicts = v :: rest) → Leads (.checkVerdict c h) s fun t =>
    let m := v.mask ^^^ h
    t.clusters[c].verdicts = rest ∧ t.parts[k].counters.checkRuns = satAdd s.parts[k].counters.checkRuns 1 ∧
    t.parts[k].counters.checkMismatch = satAdd s.parts[k].counters.checkMismatch (if m = 0 then 0 else 1) ∧
    t.clusters[c].mismatch = (if m = 0 then s.clusters[c].mismatch else recentTicks s.meridian.tick s.clusters[c].mismatch ++ [s.meridian.tick]) ∧
    (m = 0 → NoRollBack s → MemoriesKept s t)

/-- R230–R233: an image whose last line arrives at the merge address of a closed tile, no pass on the tile being in a latch, is loaded:
the tile's bytes are the image's, the tile is open in the image's mode, and every other byte stays. At an open tile of the same mode
it is merged: MERGES rises. A merge of another mode is refused: MERGE_REFUSED rises, and nothing is written. An image that the
mover reads to an address that the partition may not write is logged and not written. IMAGE_WRITE and IMAGE_READ complete in every state; no
read can fence a cluster, and no quench holds the partition's traffic; while one does, nothing arrives and nothing is read (R93).
The model's choices it rests on: notes/assumptions/16.md, notes/assumptions/58.md. -/
def Obligations.MergeWindow : Prop :=
  (∀ s c k addr t image, (Canonical s ∧ s.clusters[c].part = some k ∧ mergeIndex addr.toNat = some t ∧ s.clusters[c].fenced = false ∧ admits s k = true ∧
      image.length = imageBytes (imageLong image) ∧ headOf (imageLong image) (tileOf (imageLong image) t) = t ∧
      tileOf (imageLong image) t < accTiles s.parts[k] (imageLong image) ∧
      lastOnTile s.clusters[c] (imageLong image) (tileOf (imageLong image) t) = none) →
    let long := imageLong image
    let a0 := accAddr s.parts[k] t
    let n := if long then 20480 else 4096
    let e := tileEntry s.clusters[c] t
    (bit e 31 = false → (∀ i, i < n → Sparse.get false s.clusters[c].poison ((a0 + i) / 8) = false) → Leads (.imageWrite c addr image) s fun s' =>
      (∀ i, i < n → (s'.clusters[c].spad).read (a0 + i) = byteAt image (128 + i)) ∧
      (∀ a, (a < a0 ∨ a0 + n ≤ a) → (s'.clusters[c].spad).read a = (s.clusters[c].spad).read a) ∧
      bit (tileEntry s'.clusters[c] t) 31 = true ∧ bit (tileEntry s'.clusters[c] t) 30 = long) ∧
    (bit e 31 = true → bit e 30 = long → fld e 10 0 = t → (long = true → fld e 25 16 = fld (imageState image) 25 16) →
      Leads (.imageWrite c addr image) s fun s' => s'.parts[k].counters.merges = satAdd s.parts[k].counters.merges 1) ∧
    (bit e 31 = true → (bit e 30 ≠ long ∨ fld e 10 0 ≠ t ∨ (long = true ∧ fld e 25 16 ≠ fld (imageState image) 25 16)) → Leads (.imageWrite c addr image) s fun s' =>
      s'.parts[k].counters.mergeRefused = satAdd s.parts[k].counters.mergeRefused 1 ∧ MemoriesKept s s')) ∧
  (∀ s c k addr t dst, (NoSpadFence s ∧ admits s k = true ∧ s.clusters[c].part = some k ∧ mergeIndex addr.toNat = some t ∧ s.clusters[c].fenced = false) →
    let long := bit (tileEntry s.clusters[c] t) 30
    lastOnTile s.clusters[c] long (tileOf long t) = none → ∀ s1 image, getImage s k c t = some (s1, image) →
    (image.length = imageBytes long ∧ slice image 128 (if long then 20480 else 4096) =
      tileBytes long (readTile s.clusters[c] s.fresh s.parts[k] long (tileOf long t))) ∧
    (firstBad s1 k 4 dst.toNat image.length true = none → Leads (.imageRead c addr dst) s fun s' =>
      let w := (writeRange s1 k dst.toNat (clean image) false).1
      (∀ c' : Tc, s'.clusters[c'].spad = w.clusters[c'].spad) ∧ s'.hbs = w.hbs ∧ s'.cellar = w.cellar) ∧
    (∀ st loc, firstBad s1 k 4 dst.toNat image.length true = some (st, loc) → Leads (.imageRead c addr dst) s fun s' => MemoriesKept s s')) ∧
  (∀ s c addr image, ∃ s', exec (.imageWrite c addr image) s = .next s') ∧ (∀ s c addr dst, ∃ s', exec (.imageRead c addr dst) s = .next s') ∧
  (∀ s c k addr, s.clusters[c].part = some k → admits s k = false →
    (∀ image, exec (.imageWrite c addr image) s = .next s) ∧ ∀ dst, exec (.imageRead c addr dst) s = .next s)

/-- R57: a work item of an ordinary partition that overruns its budget runs on: the overrun is counted, and a BUDGET_OVERRUN record with
its budget is appended to the partition's log. In a confidential partition the overrun is a partition fault: a record of cause 1, FAULT of
PART_EVENT, and its data queues halt at the next boundary. BUDGET_OVERRUN completes in every state, and where no work item runs, or its cluster is
fenced, it changes nothing. -/
def Obligations.BudgetOverruns : Prop :=
  (∀ s c eng k job budget, (s.clusters[c].part = some k ∧ runningItem s.clusters[c] eng = some (job, budget) ∧ s.clusters[c].fenced = false ∧
      s.parts[k].conf = false) → Leads (.budgetOverrun c eng) s fun t =>
    t.parts[k].counters.budgetOverruns = satAdd s.parts[k].counters.budgetOverruns 1 ∧
    (t.parts[k].log.recs.getLast? = some (partRec s k 0x30 c.1 0xFFFF budget)) ∧ t.clusters = s.clusters ∧ MemoriesKept s t) ∧
  (∀ s c eng k job budget, (s.clusters[c].part = some k ∧ runningItem s.clusters[c] eng = some (job, budget) ∧ s.clusters[c].fenced = false ∧
      s.parts[k].conf = true) → Leads (.budgetOverrun c eng) s fun t =>
    t.parts[k].halting = true ∧ bit t.parts[k].event 2 = true ∧ t.parts[k].counters.budgetOverruns = s.parts[k].counters.budgetOverruns) ∧
  (∀ s c eng, ∃ t, exec (.budgetOverrun c eng) s = .next t ∧
    ((s.clusters[c].fenced = true ∨ s.clusters[c].part = none ∨ runningItem s.clusters[c] eng = none) → t = s))

/-! ## The vector instruction set (spec/06_vector_engine.md, spec/08_press.md R331) -/

/-- R252, R253, R256–R260: element-wise arithmetic on a vector engine or a press. Each element is the exact result of its operands
rounded to the element's format (an integer: modulo its width, VADDS at the ends of the range); INV is set by a NaN from operands
without one; masked and tail lanes, every other register, and the memories stay. R252, R253, R259: bitwise logic and shifts of INT32 and INT16 elements; a shift amount counts modulo the element width. -/
def Obligations.LaneInstructions : Prop :=
  (LaneRule .vadd 0x10 2 (fun g a b _ => roundTo g (a.add b)) (fun _ a b _ => a + b) ∧
  LaneRule .vsub 0x11 2 (fun g a b _ => roundTo g (a.add b.neg)) (fun _ a b _ => a - b) ∧
  LaneRule .vmul 0x12 2 (fun g a b _ => roundTo g (a.mul b)) (fun _ a b _ => a * b) ∧
  LaneRule .vfma 0x13 3 (fun g a b c => roundTo g ((a.mul b).add c)) (fun _ a b c => a * b + c) ∧
  LaneRule .vfnma 0x14 3 (fun g a b c => roundTo g ((a.mul b).neg.add c)) (fun _ a b c => c - a * b) ∧
  LaneRule .vmax 0x15 2 (fun g a b _ => roundTo g (a.max b)) (fun _ a b _ => max a b) ∧
  LaneRule .vmin 0x16 2 (fun g a b _ => roundTo g (a.min b)) (fun _ a b _ => min a b) ∧
  LaneRule .vabs 0x17 1 (fun g a _ _ => roundTo g a.abs) (fun _ a _ _ => |a|) ∧
  LaneRule .vneg 0x18 1 (fun g a _ _ => roundTo g a.neg) (fun _ a _ _ => -a) ∧
  LaneRule .vdiv 0x19 2 (fun g a b _ => roundTo g (a.div b)) (fun _ _ _ _ => 0) ∧
  LaneRule .vsqrt 0x1A 1 (fun g a _ _ => roundTo g a.sqrt) (fun _ _ _ _ => 0) ∧
  LaneRule .vexp2 0x1B 1 (fun _ a _ _ => (fexp2 (toF32 a)).toNat) (fun _ _ _ _ => 0) ∧
  LaneRule .vlog2 0x1C 1 (fun _ a _ _ => (flog2 (toF32 a)).toNat) (fun _ _ _ _ => 0) ∧
  LaneRule .vadds 0x1D 2 (fun _ _ _ _ => 0) (fun w a b _ => max (-(2 ^ (w - 1) : Int)) (min (a + b) (2 ^ (w - 1) - 1)))) ∧
  (LaneRule .vand 0x20 2 (fun _ _ _ _ => 0) (fun w a b _ => ((ofInt w a &&& ofInt w b : Nat) : Int)) ∧
  LaneRule .vor 0x21 2 (fun _ _ _ _ => 0) (fun w a b _ => ((ofInt w a ||| ofInt w b : Nat) : Int)) ∧
  LaneRule .vxor 0x22 2 (fun _ _ _ _ => 0) (fun w a b _ => ((ofInt w a ^^^ ofInt w b : Nat) : Int)) ∧
  LaneRule .vshl 0x23 2 (fun _ _ _ _ => 0) (fun w a b _ => ((ofInt w a * 2 ^ (ofInt w b % w) : Nat) : Int)) ∧
  LaneRule .vshr 0x24 2 (fun _ _ _ _ => 0) (fun w a b _ => ((ofInt w a / 2 ^ (ofInt w b % w) : Nat) : Int)) ∧
  LaneRule .vsra 0x25 2 (fun _ _ _ _ => 0) (fun w a b _ => a / (2 ^ (ofInt w b % w) : Nat)))


/-- R253, R255, R262, R277, R279, R280: instructions that move lanes without a flag. VUNPK takes the half that SUB names; VEXPAND
gives selected lane l the lane of VA whose number is the count of selected lanes below l; slides take 0 from beyond the ends. -/
def Obligations.LaneMoves : Prop :=
  MoveRule .vmvv 0x0A (fun r f _ => (sGet r (vSx f)).setWidth 32) ∧
  MoveRule .viota 0x26 (fun _ _ l => BitVec.ofNat 32 l) ∧
  MoveRule .vunpk 0x32 (fun r f l => if vTy f = 0xB then BitVec.ofInt 32 (elemInt (vTy f) (vGet r (vVa f) l) (vSub f))
    else toF32 (elemVal (vTy f) (vGet r (vVa f) l) (vSub f))) ∧
  MoveRule .vexpand 0x51 (fun r f l => vGet r (vVa f) ((List.range l).filter (laneActive r f)).length) ∧
  MoveRule .vslideup 0x54 (fun r f l => if (sGet r (vSx f)).toNat ≤ l then vGet r (vVa f) (l - (sGet r (vSx f)).toNat) else 0) ∧
  MoveRule .vslidedn 0x55 (fun r f l => if l + (sGet r (vSx f)).toNat < r.vl.toNat then vGet r (vVa f) (l + (sGet r (vSx f)).toNat) else 0)

/-- R254, R101: compares write every bit of MD, 0 in masked and tail lanes; a NaN makes VCMPEQ, VCMPLT and VCMPLE false, VCMPNE and
VCMPUN true. R254: mask logic works on the bits below VL and writes 0 beyond; VMFIRSTN sets the first s[SX] of them. -/
def Obligations.MaskInstructions : Prop :=
  (let cmp := fun (flt : Val → Val → Bool) (int : Int → Int → Bool) (r : VecRegs) (f : BitVec 56) (l : Nat) =>
    laneActive r f l && if tyInt (vTy f) then int (vGet r (vVa f) l).toInt (vbLane r f l).toInt
      else flt (f32 (vGet r (vVa f) l)) (f32 (vbLane r f l))
  MaskRule .vcmpeq 0x40 (cmp (fun a b => a.eqv b) (fun a b => decide (a = b))) ∧
  MaskRule .vcmpne 0x41 (cmp (fun a b => !a.eqv b) (fun a b => decide (a ≠ b))) ∧
  MaskRule .vcmplt 0x42 (cmp (fun a b => a.lt b) (fun a b => decide (a < b))) ∧
  MaskRule .vcmple 0x43 (cmp (fun a b => a.lt b || a.eqv b) (fun a b => decide (a ≤ b))) ∧
  MaskRule .vcmpun 0x44 (cmp (fun a b => a.isNan || b.isNan) (fun _ _ => false))) ∧
  (let below := fun (g : VecRegs → BitVec 56 → Nat → Bool) (r : VecRegs) (f : BitVec 56) (l : Nat) => decide (l < r.vl.toNat) && g r f l
  let a := fun (r : VecRegs) (f : BitVec 56) (l : Nat) => bit (mGet r (vVa f)) l
  let b := fun (r : VecRegs) (f : BitVec 56) (l : Nat) => bit (mGet r (vVb f)) l
  MaskRule .vmand 0x45 (below fun r f l => a r f l && b r f l) ∧
  MaskRule .vmor 0x46 (below fun r f l => a r f l || b r f l) ∧
  MaskRule .vmxor 0x47 (below fun r f l => Bool.xor (a r f l) (b r f l)) ∧
  MaskRule .vmnot 0x48 (below fun r f l => !a r f l) ∧
  MaskRule .vmfirstn 0x49 (below fun r f l => decide (l < (sGet r (vSx f)).toNat)))


/-- R236, R250, R291: the scalar instructions and VMVS. Register s0 takes no write. R236, R243, R246, R250, R291, R331: VNOP leaves every register; VFCLR clears the flags that its immediate names, but for those that the unit sets in its clock (R17); VSETVL sets VL
and s[SD] to the smaller of s[SA] and the unit's lanes; VLOOP with a count opens a loop behind itself, and with count 0 goes on
behind the body. -/
def Obligations.ScalarInstructions : Prop :=
  (ScalarRule .vsli 0x04 sSd (fun _ f => BitVec.ofInt 64 (sImm f)) ∧
  ScalarRule .vsadd 0x05 sSd (fun r f => sGet r (sSa f) + sGet r (sSb f) + BitVec.ofInt 64 (sImm f)) ∧
  ScalarRule .vsmul 0x06 sSd (fun r f => sGet r (sSa f) * sGet r (sSb f)) ∧
  ScalarRule .vfrd 0x07 sSd (fun r _ => r.flags.setWidth 64) ∧
  ScalarRule .vmvs 0x09 vSx (fun r f => (vGet r (vVa f) 0).signExtend 64)) ∧
  ((∀ s u f, Canonical s → legalAt s u 0x00 f = true → Leads (.vnop u f) s fun t =>
    { unitRegs t u with loops := [] } = { unitRegs s u with loops := [] } ∧ WentOn s t u ∧ MemoriesKept s t ∧ OtherUnitsKept s t u) ∧
  (∀ s u f hw, Canonical s → legalAt s u 0x08 f = true → Leads (.vfclr u ⟨f, hw⟩) s fun t =>
    (∀ b, b < 8 → bit (unitRegs t u).flags b =
      ((bit (unitRegs s u).flags b && !bit (BitVec.ofInt 8 (sImm f)) b) || (decide (b < 6) && bit hw b))) ∧
    (unitRegs t u).v = (unitRegs s u).v ∧ (unitRegs t u).s = (unitRegs s u).s ∧ (unitRegs t u).m = (unitRegs s u).m ∧
    (unitRegs t u).vl = (unitRegs s u).vl ∧ WentOn s t u ∧ MemoriesKept s t ∧ OtherUnitsKept s t u) ∧
  (∀ s u f, Canonical s → legalAt s u 0x02 f = true → Leads (.vsetvl u f) s fun t =>
    let n := min (sGet (unitRegs s u) (sSa f)).toNat (match u with | .ve _ => 256 | .ps _ => 64)
    (unitRegs t u).vl.toNat = n ∧
    (∀ i, i < 16 → sGet (unitRegs t u) i = if i = sSd f ∧ i ≠ 0 then BitVec.ofNat 64 n else sGet (unitRegs s u) i) ∧
    (unitRegs t u).v = (unitRegs s u).v ∧ (unitRegs t u).m = (unitRegs s u).m ∧ (unitRegs t u).flags = (unitRegs s u).flags ∧
    WentOn s t u ∧ MemoriesKept s t ∧ OtherUnitsKept s t u) ∧
  (∀ s u f, Canonical s → legalAt s u 0x03 f = true → (unitRegs s u).loops.length < 2 → Leads (.vloop u f) s fun t =>
    let n := sGet (unitRegs s u) (sSa f)
    let w := unitStride u
    { unitRegs t u with loops := [] } = { unitRegs s u with loops := [] } ∧ MemoriesKept s t ∧ OtherUnitsKept s t u ∧
    (n = 0 → ProgramAt s t u fun pc => (loopNext w 3 (unitRegs s u).loops (pc + w * (1 + sN f))).2) ∧
    (n ≠ 0 → ProgramAt s t u (fun pc => pc + w) ∧
      ∃ l : Loop, (unitRegs t u).loops = l :: (unitRegs s u).loops ∧ l.left = n ∧ l.last = l.start + w * sN f - w)))


/-- R255, R276, R278, R279: VSEL writes every lane below VL; VCOMPRESS and VCIDX pack the selected lanes and their numbers, write 0 up
to VL and set s[SX] to their count; VPERM and VBCAST read 0 from an index at or beyond VL and set LANE_RANGE, and do nothing in a
masked lane. R261, R262, R253: VCVT and VPACK convert the active lanes; a saturation sets SAT. -/
def Obligations.PermutationsAndConversions : Prop :=
  (let kept := fun (s t : State) (u : VUnit) => (unitRegs t u).m = (unitRegs s u).m ∧ (unitRegs t u).vl = (unitRegs s u).vl ∧
    WentOn s t u ∧ MemoriesKept s t ∧ OtherUnitsKept s t u
  let lanesBelow := fun (r r' : VecRegs) (f : BitVec 56) (res : Nat → W32) => ∀ v l, v < 32 → l < 256 →
    vGet r' v l = if v = vVd f ∧ l < r.vl.toNat then res l else vGet r v l
  let sel := fun (r : VecRegs) (f : BitVec 56) => (List.range (min r.vl.toNat 256)).filter (laneActive r f)
  let packs := fun (I : VUnit → BitVec 56 → Instr) (op : Nat) (val : VecRegs → BitVec 56 → Nat → W32) =>
    ∀ s u f, Canonical s → legalAt s u op f = true → Leads (I u f) s fun t =>
      let r := unitRegs s u
      lanesBelow r (unitRegs t u) f (fun l => match (sel r f)[l]? with | some j => val r f j | none => 0) ∧
      (∀ i, i < 16 → sGet (unitRegs t u) i = if i = vSx f ∧ i ≠ 0 then BitVec.ofNat 64 (sel r f).length else sGet r i) ∧
      (unitRegs t u).flags = r.flags ∧ kept s t u
  let permutes := fun (I : VUnit → BitVec 56 → Instr) (op : Nat) (idx : VecRegs → BitVec 56 → Nat → Nat) =>
    ∀ s u f, Canonical s → legalAt s u op f = true → Leads (I u f) s fun t =>
      let r := unitRegs s u
      (∀ v l, v < 32 → l < 256 → vGet (unitRegs t u) v l =
        if v = vVd f ∧ laneActive r f l = true then (if idx r f l < r.vl.toNat then vGet r (vVa f) (idx r f l) else 0) else vGet r v l) ∧
      (unitRegs t u).flags = (if (sel r f).any fun i => decide (r.vl.toNat ≤ idx r f i) then setBit r.flags 0 true else r.flags) ∧
      (unitRegs t u).s = r.s ∧ kept s t u
  (∀ s u f, Canonical s → legalAt s u 0x1E f = true → Leads (.vsel u f) s fun t =>
    lanesBelow (unitRegs s u) (unitRegs t u) f (fun l => if bit (mGet (unitRegs s u) (vMsel f)) l then vGet (unitRegs s u) (vVa f) l
      else vbLane (unitRegs s u) f l) ∧
    (unitRegs t u).s = (unitRegs s u).s ∧ (unitRegs t u).flags = (unitRegs s u).flags ∧ kept s t u) ∧
  packs .vcompress 0x50 (fun r f j => vGet r (vVa f) j) ∧ packs .vcidx 0x52 (fun _ _ j => BitVec.ofNat 32 j) ∧
  permutes .vperm 0x53 (fun r f l => (vbLane r f l).toNat) ∧ permutes .vbcast 0x56 (fun r f _ => (sGet r (vSx f)).toNat)) ∧
  (let converts := fun (I : VUnit → BitVec 56 → Instr) (op : Nat) (conv : VecRegs → BitVec 56 → Nat → List Conv) (pack : List Nat → W32) =>
    ∀ s u f, Canonical s → legalAt s u op f = true → Leads (I u f) s fun t =>
      let r := unitRegs s u
      let sat := ∃ l, l < 256 ∧ laneActive r f l = true ∧ ∃ c ∈ conv r f l, c.sat = true
      LanesAre r (unitRegs t u) f (fun l => pack ((conv r f l).map fun c => c.code)) ∧
      (sat → (unitRegs t u).flags = setBit r.flags 3 true) ∧ (¬sat → (unitRegs t u).flags = r.flags) ∧
      (unitRegs t u).m = r.m ∧ (unitRegs t u).s = r.s ∧ (unitRegs t u).vl = r.vl ∧ WentOn s t u ∧ MemoriesKept s t ∧ OtherUnitsKept s t u
  converts .vcvt 0x30 (fun r f l => [if vSub f = 0 then encode .int32 (vIeee f) (f32 (vGet r (vVa f) l))
    else encode .fp32 (vIeee f) (Val.ofRat false ((vGet r (vVa f) l).toInt : Rat))]) (fun cs => BitVec.ofNat 32 (cs.headD 0)) ∧
  converts .vpack 0x31 (fun r f l =>
    let src := fun (x : W32) => if vTy f = 0xA then Val.ofRat false (x.toInt : Rat) else f32 x
    let g : Fmt := if vSub f = 0 then .bf16 else if vSub f = 1 then .fp16 else .int16
    [encode g (vIeee f) (src (vGet r (vVa f) l)), encode g (vIeee f) (src (vbLane r f l))])
    (fun cs => BitVec.ofNat 32 (cs.headD 0 % 2 ^ 16 + cs.getD 1 0 % 2 ^ 16 * 2 ^ 16)))


/-- R281–R284: the reductions of the active elements of VA. An integer VRSUM is the exact sum, in lane 0 held within INT32; VRMAX and
VRMIN of integers are the greatest and the least; VRCNT counts the elements that are no zero; without an active element the results
are those of R284, and EMPTY is set. R281–R284: the reductions on values, in the fixed pairwise tree over element positions. Lane 0 of VD and s[SX] take the root, and
the positions of VRAMAX and VRAMIN; INV is set where a node turns numbers into a NaN; every other flag stays. Each completes at every legal
instruction.
The model's choices it rests on: notes/assumptions/75.md, notes/assumptions/76.md. -/
def Obligations.Reductions : Prop :=
  (let ints := fun (r : VecRegs) (f : BitVec 56) => (redInts r f).filterMap id
  let reduces := fun (I : VUnit → BitVec 56 → Instr) (op : Nat) (low : Int → Int) (val : List Int → BitVec 56 → Int) =>
    ∀ s u f, Canonical s → legalAt s u op f = true → tyInt (vTy f) = true → Leads (I u f) s fun t =>
      let r := unitRegs s u
      let x := val (ints r f) f
      (∀ v l, v < 32 → l < 256 → vGet (unitRegs t u) v l = if v = vVd f ∧ l = 0 then BitVec.ofInt 32 (low x) else vGet r v l) ∧
      (∀ i, i < 16 → sGet (unitRegs t u) i = if i = vSx f ∧ i ≠ 0 then BitVec.ofInt 64 x else sGet r i) ∧
      (unitRegs t u).flags = (if ints r f = [] then setBit r.flags 1 true else r.flags) ∧
      (unitRegs t u).m = r.m ∧ (unitRegs t u).vl = r.vl ∧ WentOn s t u ∧ MemoriesKept s t ∧ OtherUnitsKept s t u
  let top := fun (f : BitVec 56) => (2 : Int) ^ (32 / tyPer (vTy f) - 1)
  reduces .vrsum 0x60 (fun x => max (-(2 ^ 31 : Int)) (min x (2 ^ 31 - 1))) (fun xs _ => xs.sum) ∧
  reduces .vrmax 0x62 id (fun xs f => xs.foldl max (-(top f))) ∧
  reduces .vrmin 0x63 id (fun xs f => xs.foldl min (top f - 1)) ∧
  reduces .vrcnt 0x66 id (fun xs _ => ((xs.filter fun i => i != 0).length : Nat))) ∧
  (let after := fun (I : VUnit → BitVec 56 → Instr) (op : Nat) (ok : BitVec 56 → Bool) (lane : VecRegs → BitVec 56 → W32)
      (scal : VecRegs → BitVec 56 → W64) (inv : VecRegs → BitVec 56 → Bool) =>
    ∀ s u f, Canonical s → legalAt s u op f = true → ok f = true → Leads (I u f) s fun t =>
      let r := unitRegs s u
      let empty := ∀ l, l < 256 → laneActive r f l = false
      (∀ v l, v < 32 → l < 256 → vGet (unitRegs t u) v l = if v = vVd f ∧ l = 0 then lane r f else vGet r v l) ∧
      (∀ i, i < 16 → sGet (unitRegs t u) i = if i = vSx f ∧ i ≠ 0 then scal r f else sGet r i) ∧
      (empty → bit (unitRegs t u).flags 1 = true) ∧ (¬empty → bit (unitRegs t u).flags 1 = bit r.flags 1) ∧
      bit (unitRegs t u).flags 4 = (bit r.flags 4 || inv r f) ∧ (∀ b, b ∈ [0, 2, 3, 5, 6, 7] → bit (unitRegs t u).flags b = bit r.flags b) ∧
      (unitRegs t u).m = r.m ∧ (unitRegs t u).vl = r.vl ∧ WentOn s t u ∧ MemoriesKept s t ∧ OtherUnitsKept s t u
  let root := fun (node : Val → Val → Val) (none' : Val) (fin : Val → Nat → Val) (r : VecRegs) (f : BitVec 56) =>
    match treeRoot (fltNode node) ((redVals r f).map fun o => o.map fun v => (v, false)) with
    | some v => toF32 (fin v.1 ((redVals r f).filter Option.isSome).length)
    | none => toF32 none'
  let invOf := fun (node : Val → Val → Val) (fin : Val → Nat → Val) (r : VecRegs) (f : BitVec 56) =>
    match treeRoot (fltNode node) ((redVals r f).map fun o => o.map fun v => (v, false)) with
    | some v => v.2 || ((fin v.1 ((redVals r f).filter Option.isSome).length).isNan && !v.1.isNan)
    | none => false
  let flt := fun (f : BitVec 56) => !tyInt (vTy f)
  let tree := fun (I : VUnit → BitVec 56 → Instr) (op : Nat) (node : Val → Val → Val) (none' : Val) (fin : Val → Nat → Val) =>
    after I op flt (root node none' fin) (fun r f => (root node none' fin r f).setWidth 64) (invOf node fin)
  let pos := fun (big : Bool) (r : VecRegs) (f : BitVec 56) =>
    if tyInt (vTy f) then (treeRoot (betterInt big) (withPos (redInts r f))).map fun x => x.2
    else (treeRoot (betterVal big) (withPos (redVals r f))).map fun x => x.2
  let posInt := fun (big : Bool) (r : VecRegs) (f : BitVec 56) => match pos big r f with | some p => ((p : Nat) : Int) | none => -1
  tree .vrsum 0x60 Val.add (.fin false 0) (fun v _ => v) ∧
  tree .vrprod 0x61 Val.mul (.fin false 1) (fun v _ => v) ∧
  tree .vrmax 0x62 Val.max (.inf true) (fun v _ => v) ∧
  tree .vrmin 0x63 Val.min (.inf false) (fun v _ => v) ∧
  tree .vrmean 0x67 Val.add .nan (fun v n => f32 (toF32 (v.div (.fin false (n : Rat))))) ∧
  after .vramax 0x64 (fun _ => true) (fun r f => BitVec.ofInt 32 (posInt true r f)) (fun r f => BitVec.ofInt 64 (posInt true r f)) (fun _ _ => false) ∧
  after .vramin 0x65 (fun _ => true) (fun r f => BitVec.ofInt 32 (posInt false r f)) (fun r f => BitVec.ofInt 64 (posInt false r f)) (fun _ _ => false) ∧
  after .vrcnt 0x66 flt (fun r f => BitVec.ofNat 32 ((redVals r f).filter fun o => match o with | some v => !v.isZero | none => false).length)
    (fun r f => BitVec.ofNat 64 ((redVals r f).filter fun o => match o with | some v => !v.isZero | none => false).length) (fun _ _ => false))


/-- R287–R289: a summary of mask bits below VL goes to s[SX], and with SUB[16] into the summary queue, while the queue has room;
without an active lane VALL gives 1, VFIRST −1, the others 0, and EMPTY is set. On a full queue the VE stalls. R243, R290, R292: VEND ends the work item, which leaves its flags to be read; VSUMQ takes the oldest summary, and of an idle VE
without a summary returns VALID 0.
The model's choices it rests on: notes/assumptions/60.md. -/
def Obligations.SummariesAndEnds : Prop :=
  (let bits := fun (r : VecRegs) (f : BitVec 56) => (List.range (min r.vl.toNat 256)).map fun l =>
    bit (mGet r (vVa f)) l && (!vMen f || bit (mGet r (vMsel f)) l)
  let some' := fun (r : VecRegs) (f : BitVec 56) => (List.range (min r.vl.toNat 256)).any (laneActive r f)
  let summary := fun (I : VUnit → BitVec 56 → Instr) (op kind : Nat) (g : List Bool → Int) (none' : Int) =>
    ∀ s c f i, Canonical s → legalAt s (.ve c) op f = true → s.clusters[c].ve.run = some i →
      let r := s.clusters[c].ve.regs
      let x := if some' r f then g (bits r f) else none'
      let e : W64 := BitVec.ofNat 64 (2 ^ 63 + kind * 2 ^ 60 + i.number.toNat * 2 ^ 32 + ofInt 32 x)
      (bit f 16 = false ∨ s.clusters[c].ve.summary.length < 16 → Leads (I (.ve c) f) s fun t =>
        let r' := t.clusters[c].ve.regs
        (∀ j, j < 16 → sGet r' j = if j = vSx f ∧ j ≠ 0 then BitVec.ofInt 64 x else sGet r j) ∧
        r'.flags = (if some' r f then r.flags else setBit r.flags 1 true) ∧ r'.v = r.v ∧ r'.m = r.m ∧ r'.vl = r.vl ∧
        t.clusters[c].ve.summary = (if bit f 16 then s.clusters[c].ve.summary ++ [e] else s.clusters[c].ve.summary) ∧
        WentOn s t (.ve c) ∧ MemoriesKept s t ∧ OtherUnitsKept s t (.ve c)) ∧
      (bit f 16 = true → 16 ≤ s.clusters[c].ve.summary.length → Leads (I (.ve c) f) s fun t =>
        t.clusters[c].ve.regs = r ∧ t.clusters[c].ve.run = some i ∧ t.clusters[c].ve.summary = s.clusters[c].ve.summary)
  summary .vany 0x70 0 (fun bs => if bs.any id then 1 else 0) 0 ∧ summary .vall 0x71 1 (fun bs => if bs.all id then 1 else 0) 1 ∧
  summary .vcount 0x72 2 (fun bs => ((bs.filter id).length : Nat)) 0 ∧
  summary .vfirst 0x73 3 (fun bs => match bs.findIdx? id with | some n => ((n : Nat) : Int) | none => -1) (-1)) ∧
  ((∀ s c f, Canonical s → legalAt s (.ve c) 0x01 f = true → s.clusters[c].ve.queue = [] → Leads (.vend (.ve c) f) s fun t =>
    t.clusters[c].ve.run = none ∧ t.clusters[c].ve.flagsLast = s.clusters[c].ve.regs.flags ∧ t.clusters[c].ve.regs = s.clusters[c].ve.regs) ∧
  (∀ s c pc k b e rest, sqReady s c = some (k, b) → sqFetchBad s k c pc = false → s.clusters[c].ve.summary = e :: rest → Leads (.vsumq ⟨c, pc⟩) s fun t =>
    t.clusters[c].ve.sumOut = e ∧ t.clusters[c].ve.summary = rest ∧ MemoriesKept s t) ∧
  (∀ s c pc k b, sqReady s c = some (k, b) → sqFetchBad s k c pc = false → s.clusters[c].ve.summary = [] → s.clusters[c].ve.run = none → s.clusters[c].ve.queue = [] →
    Leads (.vsumq ⟨c, pc⟩) s fun t => t.clusters[c].ve.sumOut = 0 ∧ t.clusters[c].ve.summary = [] ∧ MemoriesKept s t))


/-- R253, R263–R266, R269, R271: a load none of whose active lanes faults, once no accumulator pass that it must wait for is
outstanding, and no read can fence a cluster. Active lanes take the loaded element; with MCODE mask register MSEL tells the lanes whose code is not the mask code;
a saturating conversion sets SAT; the memories stay.
The model's choices it rests on: notes/assumptions/58.md. -/
def Obligations.VectorLoads : Prop :=
  let loads := fun (I : VUnit → BitVec 56 → Instr) (op : Nat) =>
    ∀ s c k f, Canonical s → NoSpadFence s → legalAt s (.ve c) op f = true → s.clusters[c].part = some k →
      let x := s.clusters[c]
      let r := x.ve.regs
      let sat := ∃ l, l < 256 ∧ laneActive r f l = true ∧ (loadLane op x r f l).2 = true
      memFaults op x r f = [] → x.ve.loadWait = none → drainsFor s.parts[k] x (laneRanges op r f) = none →
      Leads (I (.ve c) f) s fun t =>
        let r' := t.clusters[c].ve.regs
        LanesAre r r' f (fun l => (loadLane op x r f l).1) ∧
        (∀ m l, m < 8 → l < 256 → bit (mGet r' m) l =
          if mMcode f = true ∧ m = vMsel f then decide (l < r.vl.toNat) && notMaskCode op x r f l else bit (mGet r m) l) ∧
        (sat → r'.flags = setBit r.flags 3 true) ∧ (¬sat → r'.flags = r.flags) ∧ r'.s = r.s ∧ r'.vl = r.vl ∧
        WentOn s t (.ve c) ∧ MemoriesKept s t ∧ OtherUnitsKept s t (.ve c)
  loads .vld 0x80 ∧ loads .vldp 0x81 ∧ loads .vldr 0x82 ∧ loads .vldx 0x83

/-- R263–R270: a store none of whose active lanes faults, and that raises no OVERFLOW in a replay unit, where none waits (R312), into words that are not poisoned. Every byte of the cluster's
scratchpad outside the bytes stored reads as before, and a stored byte reads as stored; BLOCK_MASK tells a block left out, NF a
non-finite source; the registers stay.
The model's choices it rests on: notes/assumptions/77.md, notes/assumptions/78.md, notes/assumptions/79.md. -/
def Obligations.VectorStores : Prop :=
  let stores := fun (I : VUnit → BitVec 56 → Instr) (op : Nat) =>
    ∀ s c f i, Canonical s → legalAt s (.ve c) op f = true → s.clusters[c].ve.run = some i →
      let x := s.clusters[c]
      let r := x.ve.regs
      let o := if blockScaled op f then storeBlocks op x r f else storeLanes op x r f
      memFaults op x r f = [] →
      (i.unit = none ∨ (o.tally.overflow = false ∧ ∀ k : Pt, ∀ y ∈ s.parts[k].units, y.ceilings = [])) →
      (∀ a, (Sparse.get none o.bytes a).isSome = true → Sparse.get false x.poison (a / 8) = false) →
      Leads (I (.ve c) f) s fun t =>
        let r' := t.clusters[c].ve.regs
        (∀ a, (t.clusters[c].spad).read a = match Sparse.get none o.bytes a with | some b => b | none => x.spad.read a) ∧
        (∀ c', c' ≠ c → t.clusters[c'].spad = s.clusters[c'].spad) ∧ t.hbs = s.hbs ∧ t.cellar = s.cellar ∧
        r'.v = r.v ∧ r'.m = r.m ∧ r'.s = r.s ∧ r'.vl = r.vl ∧
        bit r'.flags 2 = (bit r.flags 2 || o.skipped != 0) ∧ bit r'.flags 5 = (bit r.flags 5 || o.tally.nonfin != 0) ∧
        bit r'.flags 3 = (bit r.flags 3 || o.tally.sat != 0) ∧ (∀ b, b ∈ [0, 1, 4, 6, 7] → bit r'.flags b = bit r.flags b) ∧
        WentOn s t (.ve c) ∧ OtherUnitsKept s t (.ve c)
  stores .vst 0x88 ∧ stores .vstp 0x89 ∧ stores .vstr 0x8A ∧ stores .vstx 0x8B ∧ stores .vstb 0x8C

/-- R249, R272, R274: a memory instruction with a faulting lane, an illegal instruction, and a press instruction on a vector engine
have no effect on registers and scratchpads; the work item leaves the VE with the kind and the PC of the fault and its lowest lane,
and VE_FAULTS rises. The cluster has no further work item queued here, no replay unit is rolling back, and no read can fence a cluster. R331: on a press, no image holds a summary or a scratchpad access, so such a command finds no press standing at it and changes
no unit's registers and no memory.
The model's choices it rests on: notes/assumptions/81.md. -/
def Obligations.VectorFaults : Prop :=
  (let faults := fun (s : State) (c : Tc) (k : Pt) (i : VeItem) (I : Instr) (kind lane : Nat) =>
    s.clusters[c].ve.queue = [] → NoRollBack s → NoSpadFence s → Leads I s fun t =>
      t.clusters[c].ve.run = none ∧ t.clusters[c].ve.faultKind.toNat = kind ∧ t.clusters[c].ve.faultPc = BitVec.ofNat 32 i.pc ∧
      t.clusters[c].ve.faultLane = BitVec.ofNat 9 lane ∧ t.clusters[c].ve.regs = s.clusters[c].ve.regs ∧
      t.parts[k].counters.veFaults = satAdd s.parts[k].counters.veFaults 1 ∧ MemoriesKept s t
  (∀ s c k f i lane kind a n rest, (legalAt s (.ve c) 0x80 f = true ∧ s.clusters[c].part = some k ∧ s.clusters[c].ve.run = some i ∧
      memFaults 0x80 s.clusters[c] s.clusters[c].ve.regs f = (lane, kind, a, n) :: rest) → faults s c k i (.vld (.ve c) f) kind lane) ∧
  (∀ s c k f i lane kind a n rest, (legalAt s (.ve c) 0x88 f = true ∧ s.clusters[c].part = some k ∧ s.clusters[c].ve.run = some i ∧
      memFaults 0x88 s.clusters[c] s.clusters[c].ve.regs f = (lane, kind, a, n) :: rest) → faults s c k i (.vst (.ve c) f) kind lane) ∧
  (∀ s c k f i, (unitAt s (.ve c) 0x10 f = true ∧ veLegal 0x10 f = false ∧ s.clusters[c].part = some k ∧ s.clusters[c].ve.run = some i) →
      faults s c k i (.vadd (.ve c) f) 4 0) ∧
  (∀ s c k f i, (unitAt s (.ve c) 0x90 f = true ∧ s.clusters[c].part = some k ∧ s.clusters[c].ve.run = some i) →
      faults s c k i (.pld (.ve c) f) 4 0)) ∧
  (∀ I ∈ ([.vany, .vall, .vcount, .vfirst, .vld, .vldp, .vldr, .vldx, .vst, .vstp, .vstr, .vstx, .vstb] : List (VUnit → BitVec 56 → Instr)),
    ∀ s p f, Leads (I (.ps p) f) s fun t => (∀ u, unitRegs t u = unitRegs s u) ∧ t.presses = s.presses ∧ MemoriesKept s t)
/-! ## Press instructions (spec/08_press.md R331, R343, R346, R366, R369) -/


/-- R331, R346, R362: PST and VSTSR keep the lanes below VL of VA for the end of the grain; no memory changes, and the registers
stay. On a stream that is no matrix they belong to the group of the grain that runs. R331, R366, R332: PLD and PMETA, where no read can fence a
stack. PLD fills the lanes below VL of VD with the elements of its
stream; PMETA fills the active lanes with the steps since the row's last update, held within INT32, the row's count with this update,
or the row number. What the stacks hold stays.
The model's choices it rests on: notes/assumptions/20.md, notes/assumptions/40.md. -/
def Obligations.PressStreams : Prop :=
  (let stores := fun (I : VUnit → BitVec 56 → Instr) (op : Nat) (stoch : Bool) =>
    ∀ s p r f, Canonical s → legalAt s (.ps p) op f = true → s.presses[p].run = some r → Leads (I (.ps p) f) s fun t =>
      let g := s.presses[p].regs
      ∃ r' w, t.presses[p].run = some r' ∧ r'.writes = r.writes ++ [w] ∧ w.stream = pStr f ∧ w.stoch = stoch ∧
        w.lanes = (List.range (min g.vl.toNat 256)).map (fun l => vGet g (vVa f) l) ∧
        (regKind (runRegion s r) ≠ 2 → w.group = r.group) ∧
        r'.pc = (loopNext 1 3 g.loops (r.pc + 1)).2 ∧ r'.grain = r.grain ∧ r'.group = r.group ∧
        { t.presses[p].regs with loops := [] } = { g with loops := [] } ∧ MemoriesKept s t ∧ OtherUnitsKept s t (.ps p)
  stores .pst 0x98 false ∧ stores .vstsr 0x8D true) ∧
  ((∀ s p r f, Canonical s → legalAt s (.ps p) 0x90 f = true → s.presses[p].run = some r →
    let d := runRegion s r
    let e := pldLanes s d r (pStr f)
    NoStackFence s → Leads (.pld (.ps p) f) s fun t =>
      let g := s.presses[p].regs
      (∀ v l, v < 32 → l < 256 → vGet t.presses[p].regs v l =
        if v = vVd f ∧ l < g.vl.toNat then (e.2.1.getD l (0, false)).1 else vGet g v l) ∧
      t.presses[p].regs.m = g.m ∧ t.presses[p].regs.s = g.s ∧ t.presses[p].regs.vl = g.vl ∧
      (∀ h : Hb, t.hbs[h].mem = s.hbs[h].mem) ∧ t.cellar.mem = s.cellar.mem) ∧
  (∀ s p r f, Canonical s → legalAt s (.ps p) 0x91 f = true → s.presses[p].run = some r →
    let m := readMeta s (runRegion s r) r
    NoStackFence s → Leads (.pmeta (.ps p) f) s fun t =>
      let v : Int := match pSub f with
        | 0 => max (-2 ^ 31) (min ((s.parts[r.part].step.number.toNat : Int) - rowLast m.bs) (2 ^ 31 - 1))
        | 1 => min (rowCount m.bs + 1) (2 ^ 31 - 1)
        | _ => (r.grain % 2 ^ 32 : Nat)
      LanesAre s.presses[p].regs t.presses[p].regs f (fun _ => BitVec.ofInt 32 v) ∧
      (∀ h : Hb, t.hbs[h].mem = s.hbs[h].mem) ∧ t.cellar.mem = s.cellar.mem))


/-- R343: PBODY ends the prologue of a region: the first grain from the region's place on that the pass updates begins, with the
registers of the prologue, and its body starts behind PBODY. R343, R341: VEND of a grain with a further group starts the body
again for that group. The press is asked for no fence, and as the cellar press has no unit to take over; no read of a touched bit can fence a
stack, and no write of the grain waits. A grain whose touched bit cannot be read is marked, as poison marks one.
The model's choices it rests on: notes/assumptions/168.md. -/
def Obligations.PressGrains : Prop :=
  (∀ s p r f g lost pro i body j, Canonical s → NoStackFence s → legalAt s (.ps p) 0x9C f = true → s.presses[p].run = some r → r.body = false →
    (p.1 < 8 ∨ ∀ y ∈ s.presses[p].ready, y.2.2 = p) →
    s.presses[p].fenceReq = false → (nextGrain r.part (runRegion s r) (decide (r.pass = 3)) (regGrains (runRegion s r) + 1) r.grain s).2 = some (g, lost) →
    (∃ im, runImage s r = some im ∧ regProgram im.instrs (runRegion s r) = some (pro, i, body, j)) →
    Leads (.pbody (.ps p) f) s fun t => ∃ r', t.presses[p].run = some r' ∧
      r'.grain = g ∧ r'.group = 0 ∧ r'.pc = i + 1 ∧ r'.body = true ∧ r'.base = s.presses[p].regs ∧ r'.writes = [] ∧ r'.bad = (if lost then 0x40 else 0) ∧
      t.presses[p].regs = s.presses[p].regs ∧ t.presses[p].progValid = true ∧
      t.presses[p].progGrain = BitVec.ofNat 40 g ∧ (∀ h : Hb, t.hbs[h].mem = s.hbs[h].mem) ∧ t.cellar.mem = s.cellar.mem) ∧
  (∀ s p r f pro i body j, Canonical s → legalAt s (.ps p) 0x01 f = true → s.presses[p].run = some r → r.body = true →
    r.group + 1 < grainGroups (runRegion s r) → s.stalled.contains (.grain p) = false →
    (∃ im, runImage s r = some im ∧ regProgram im.instrs (runRegion s r) = some (pro, i, body, j)) →
    Leads (.vend (.ps p) f) s fun t =>
      t.presses[p].run = some { r with group := r.group + 1, pc := i + 1 } ∧ t.presses[p].regs = r.base ∧ MemoriesKept s t)

/-- R369, R370: VFACT of a matrix of at most 64 rows, where no read can fence a stack. Where an attempt succeeds, bit l of MD is 1 for the
rows l of the matrix and 0 beyond, every lane below VL of VD holds the damping used, and the rows of the factor, or of the inverse, wait for
the end of the grain; without success MD and the lanes are 0, nothing waits, and VFACT_SINGULAR rises. VFACT_RETRIES rises by the attempts
after the first; a read that is not clean marks the grain; what the memories hold stays.
The model's choices it rests on: notes/assumptions/41.md. -/
def Obligations.Factorisation : Prop :=
  ∀ s p r f, Canonical s → NoStackFence s → legalAt s (.ps p) 0x9E f = true → s.presses[p].run = some r → regShape (runRegion s r) ≤ 64 →
    Leads (.vfact (.ps p) f) s fun t =>
      let n := regShape (runRegion s r)
      let g := s.presses[p].regs
      let g' := t.presses[p].regs
      let m := factRead f s r
      let x := factOutcome f g n m.2.1
      let c := s.parts[r.part].counters
      let c' := t.parts[r.part].counters
      (∃ r', t.presses[p].run = some r' ∧ r'.grain = r.grain ∧ r'.pc = (loopNext 1 3 g.loops (r.pc + 1)).2 ∧
        r'.bad = (if m.2.2 then r.bad else r.bad ||| 0x40) ∧
        r'.writes = match x.1 with | some l => r.writes ++ factRows f n l | none => r.writes) ∧
      (∀ l, l < 256 → bit (mGet g' (pMd f)) l = (x.1.isSome && decide (l < n))) ∧ (∀ i, i < 8 → i ≠ pMd f → mGet g' i = mGet g i) ∧
      (∀ v l, v < 32 → l < 256 → vGet g' v l =
        if v = vVd f ∧ l < g.vl.toNat then (if x.1.isSome then x.2.1 else 0) else vGet g v l) ∧
      c'.vfactSingular = (if x.1.isSome then c.vfactSingular else satAdd c.vfactSingular 1) ∧
      c'.vfactRetries = satAdd c.vfactRetries (x.2.2 - 1) ∧
      (∀ c : Tc, t.clusters[c].spad = s.clusters[c].spad) ∧ (∀ h : Hb, t.hbs[h].mem = s.hbs[h].mem) ∧ t.cellar.mem = s.cellar.mem


/-! ## Constellation links (spec/10_constellation_links.md) -/

/-- R65, R453, R455, R318: LINK_GO of an active SEND or NORM route activates it where its peer has joined, no activation of it runs and no
revoked send of it is to go out again: a SEND is tentative where its UNIT names an open unit. Else the command waits for its turn, and no
route changes. No norm exchange and no received flit waits to go on in the state. R442, R445, R458, R548: as slot 0 of a tick opens, each port
in service of a locked device sends a TIME flit where its peer has a buffer for it; in an L2 slot of a confidential partition, every flit that
a port sends is of that partition; a slot that is quenched, or whose codes differ at the two ends, sends no data. Fence and quench flits that
wait for a slot go in any of them (R84, R86), and an IDLE flit tells the peer what no other flit has (R433).
The model's choices it rests on: notes/assumptions/26.md, notes/assumptions/85.md, notes/assumptions/180.md. -/
def Obligations.LinkSends : Prop :=
  (∀ s k j e bs o, let h := BitVec.ofNat 32 (fld e.w2 31 0)
    let idx := BitVec.ofNat 16 h.toNat
    (Takes s (.data k j) e 0x50 { w2 := 2 ^ 32 - 1 } ∧ findObj s k 2 h = .ok bs ∧ rtObj s k idx.toNat = some o ∧ o.bytes = bs ∧
      (rtOp bs = 1 ∨ rtOp bs = 5) ∧ rtPort bs < 18 ∧ s.links.norms = [] ∧ nextReady s = none) →
    ((peerJoined s k (rtPeer bs) = true ∧ resendDue s k idx = false ∧ (∀ r ∈ s.links.routes, ¬(r.part = k ∧ r.idx = idx))) →
      Leads (.linkGo k j e) s fun t => ∃ r ∈ t.links.routes, r.part = k ∧ r.idx = idx ∧ r.port.1 = rtPort bs ∧ r.bytes = 0 ∧ r.sentAll = false ∧
        r.unit = (if rtOp bs = 1 ∧ rtUnit bs ≠ 0 ∧ (unitOf s.parts[k] (rtUnit bs)).any (·.captured.isSome) = true then some (rtUnit bs) else none)) ∧
    ((IdsFresh s ∧ (peerJoined s k (rtPeer bs) = false ∨ resendDue s k idx = true ∨ ∃ r ∈ s.links.routes, r.part = k ∧ r.idx = idx)) →
      Leads (.linkGo k j e) s fun t => t.links.routes = s.links.routes ∧ ∃ p ∈ t.parts[k].inflight, p.id = s.nextId ∧ p.wait = .routeNext idx)) ∧
  (∀ s b, (s.pins.perst = false ∧ s.power.pwrgd = true) → Leads (.tickBoundary b) s fun t => ∀ p : Lp,
    (t.pins.perst = false ∧ lpPresent t p.1 = true ∧ t.ports[p].isUp = true ∧ t.links.locked = true) →
      hasCredit t p 0 = false ∨ ∃ x ∈ t.links.sent, x.port = p ∧ x.slot = 0 ∧ x.typ = 2 ∧ x.payload = timePayload t p (leBytes 4 0)) ∧
  (∀ s p slot (k : Pt), (lpPresent s p.1 = true ∧ s.ports[p].isUp = true ∧ slot ≠ 0 ∧ slotCode s.ports[p].slotMap slot.1 = k.1 ∧ s.parts[k].conf = true) →
    Leads (.linkSlotStart p slot) s fun t => ∃ new, t.links.sent = s.links.sent ++ new ∧ ∀ x ∈ new, x.typ ≠ 5 → x.typ ≠ 0 → x.part.toNat = k.1) ∧
  (∀ s p slot, (slot ≠ 0 ∧ (s.ports[p].quenched = true ∨ s.links.quenchAll = true ∨ bit s.ports[p].mismatch slot.1 = true ∨ s.links.slotsOff = true)) →
    Leads (.linkSlotStart p slot) s fun t => (∃ new, t.links.sent = s.links.sent ++ new ∧ ∀ x ∈ new, x.typ = 5 ∨ x.typ = 0) ∧ MemoriesKept s t)

/-- R81, R433–R440, R446, R454, R472, R474, R476, R487: a good flit counts, returns credits, and takes what it acknowledges out of the replay
buffer; then each kind does its own: IDLE frees its own buffer; DATA that is tentative is held; TREE_UP makes its port a child and replaces the
reports of its subtree for the jobs and rounds that it names; TREE_DOWN brings decisions, which a waiting partition of the round and step
accepts; NORM from a child is added up, and from the parent it brings the combined norm; WIDTH brings the peer's mask of lanes; SIGNAL adds to
an object, not below what it held. A flit that the peer had no credit for, and one that comes before the port is UP, is a protocol strike;
one behind a NAK that is not sent again does nothing. A wrong CRC asks for a resend, and the failure of the 8th takes the port down; on a
cellar port it is counted.
The model's choices it rests on: notes/assumptions/102.md, notes/assumptions/103.md, notes/assumptions/158.md, notes/assumptions/179.md. -/
def Obligations.FlitsReceived : Prop :=
  (∀ s f, Arrives s f 0 → Leads (.idleFlit f) s fun t =>
    let x := s.ports[f.port]
    let y := t.ports[f.port]
    y.rxNum = x.rxNum + 1 ∧ y.resends = 0 ∧ y.nak = false ∧ y.state = x.state ∧ y.held = x.held ∧ y.free = x.free ∧
    (∀ v : Fin 4, y.credits[v] = x.credits[v] + if v.1 = fld f.h0 21 20 % 4 then fld f.h0 19 8 else 0) ∧
    (∀ v : Fin 4, y.freed[v] = x.freed[v] + if v.1 = flVc f % 4 then 1 else 0) ∧
    y.replay = match ackedNum x.txNum (fld f.h1 18 0) with | some a => x.replay.filter (fun z => decide (a < z.num)) | none => x.replay) ∧
  (∀ s f o, (Arrives s f 1 ∧ (flVc f = 2 ∨ flVc f = 3) ∧ f.slot ≠ 0 ∧ flTent f = true ∧ (0 < flLen f ∨ s.parts[flPart f].conf = false) ∧
      rtObj s (flPart f) (flStream f) = some o ∧ isRecv o = true ∧ rtPort o.bytes = f.port.1 ∧ rtPeer o.bytes = s.ports[f.port].peerId.toNat ∧
      peerJoined s (flPart f) s.ports[f.port].peerId.toNat = true ∧ slotTakes s f (flVc f == 2) = true) →
    Leads (.dataFlit f) s fun t => ∃ h ∈ t.ports[f.port].held, h.part = flPart f ∧ h.stream.toNat = flStream f ∧ h.seq = f.seq ∧ h.tent = true ∧
      h.data = flData f ∧ h.tick = s.meridian.tick) ∧
  (∀ s f deep, (Arrives s f 3 ∧ flVc f = 0 ∧ f.slot = 0 ∧ s.ports[f.port].state = .up) → Leads (.treeUp ⟨f, deep⟩) s fun t =>
    let rs := (List.range (((flData f).length - 4) / 4)).map fun i =>
      let w := BitVec.ofNat 32 (numAt (flData f) (4 + 4 * i) 4)
      ({ port := some f.port, job := BitVec.ofNat 8 (fld w 31 24), round := BitVec.ofNat 4 (fld w 23 20), nf := bit w 19, nrep := fld w 16 0 } : Report)
    t.ports[f.port].treeChild = true ∧ t.ports[f.port].upDeep = deep ∧
    t.links.reports =
      (s.links.reports.filter fun r => !(r.port == some f.port && rs.any fun x => x.job == r.job && x.round == r.round)) ++ rs.filter fun r => r.job != 0) ∧
  (∀ s f (k : Pt), (Arrives s f 4 ∧ flVc f = 0 ∧ f.slot = 0 ∧ s.ports[f.port].state = .up ∧ s.ports[f.port].treeParent = true ∧ flLen f = 12) →
    let w := BitVec.ofNat 32 (numAt (flData f) 0 4)
    (s.parts[k].live = true ∧ s.parts[k].jobId ≠ 0 ∧ s.parts[k].jobId.toNat = fld w 31 24 ∧ s.parts[k].step.phase = .decide ∧
      s.parts[k].step.round.toNat = fld w 23 20 ∧ s.parts[k].step.number.toNat % 65536 = fld w 15 0) → Leads (.treeDown f) s fun t =>
    t.parts[k].step.phase = (if fld w 19 18 = 1 then .armed else .skipped) ∧ t.parts[k].step.round = s.parts[k].step.round + 1 ∧
    t.links.jobSizeNew = s.links.jobSizeNew ++ [(byteAt (flData f) 4, BitVec.ofNat 32 (numAt (flData f) 8 4))]) ∧
  (∀ s f o, (Arrives s f 9 ∧ flVc f = 2 ∧ f.slot ≠ 0 ∧ normRoute s (flPart f) = some o ∧ o.idx.toNat = flStream f ∧
      byteAt f.payload 0 = s.parts[flPart f].jobId ∧ numAt f.payload 2 2 = s.parts[flPart f].step.number.toNat % 65536 ∧
      slotTakes s f true = true ∧ 32 ≤ f.payload.length) →
    let is := fun (v : NormPartial) => v.value.toNat = numAt f.payload 4 20 ∧ v.low = bit (byteAt f.payload 24) 0 ∧
      v.range = bit (byteAt f.payload 24) 1 ∧ v.nf = bit (byteAt f.payload 24) 2 ∧ v.owners.toNat = numAt f.payload 28 4
    (rtParent o.bytes = f.port.1 → (normRun (header s f) (flPart f)).isSome = true → Leads (.normFlit f) s fun t =>
      ∃ v, t.parts[flPart f].step.combined = some v ∧ is v) ∧
    (rtParent o.bytes ≠ f.port.1 → rtChildren o.bytes / 2 ^ f.port.1 % 2 = 1 → (∀ n ∈ s.links.norms, n.part ≠ flPart f) → Leads (.normFlit f) s fun t =>
      ∃ n ∈ t.links.norms, n.part = flPart f ∧ n.own = false ∧ bit n.heard f.port.1 = true ∧ ∃ v, n.sum = NormPartial.zero.add v ∧ is v)) ∧
  (∀ s f, (Arrives s f 0xA ∧ flVc f = 0 ∧ f.slot = 0) → Leads (.widthFlit f) s fun t =>
    t.ports[f.port].peerLanes = byteAt f.payload 0 ∧ t.ports[f.port].widthSent = true) ∧
  (∀ s f obj n, (Arrives s f 0xB ∧ flVc f = 1 ∧ f.slot ≠ 0 ∧ slotSignals s f = true ∧ s.waiters = [] ∧ syncReach s.parts[flPart f] (BitVec.toNat obj) = true ∧ n ≠ 0) →
    Leads (.signalFlit f obj n) s fun t => min ((syncGet s obj.toNat).toNat + BitVec.toNat n) (2 ^ 32 - 1) ≤ (syncGet t obj.toNat).toNat) ∧
  (∀ s p, (lpPresent s p.1 = true ∧ s.ports[p].isUp = true) →
    (s.ports[p].resends < 8 → Leads (.flitCrcFail (.link p) false) s fun t => t.ports[p].nak = true ∧ t.ports[p].resends = s.ports[p].resends + 1) ∧
    (8 ≤ s.ports[p].resends → Leads (.flitCrcFail (.link p) false) s fun t => t.ports[p].state = .down ∧ t.ports[p].held = []) ∧
    Leads (.resendLimit p) s fun t => t.ports[p].state = .down ∧ t.ports[p].held = []) ∧
  (∀ s f, (lpPresent s f.port.1 = true ∧ flTyp f = 1 ∧ flLen f ≤ 224 ∧ bit f.h1 19 = false) →
    (behindNak s f = false → (s.ports[f.port].state = .handshake ∨ s.ports[f.port].isUp = true ∧ noBuffer s f = true) →
      Leads (.dataFlit f) s fun t => t.ports[f.port].protoTotal = satAdd s.ports[f.port].protoTotal 1 ∧ t.ports[f.port].held = s.ports[f.port].held) ∧
    (behindNak s f = true → Leads (.dataFlit f) s fun t => t.ports = s.ports ∧ t.links = s.links)) ∧
  (∀ s p tag, cpCarries s p = true → Leads (.flitCrcFail (.cellar p false) tag) s fun t =>
    t.cellar = { s.cellar with resends := satAdd s.cellar.resends 1, tries := vmod s.cellar.tries p fun _ => 1 })


/-- R93–R97, R461: a command of the lodestar for this device. QUENCH stops the partition or port that it names, LIFT_QUENCH is noted for the
next boundary, FENCE fences a port at once and UNFENCE lets it train again, but for a port fenced on a threshold (R484). R464–R466: a commit token that the port holds releases the flits it covers, and a revoke token discards and counts them; a token
for flits that are not all held is a strike, and flits that a slot both commits and revokes are discarded with one; where a fence reaches the port in the same
clock, a token does nothing. Tentative flits of an activation whose last flit outlives its tick are lost. No flit that a token covers stays
tentative.
The model's choices it rests on: notes/assumptions/28.md, notes/assumptions/95.md, notes/assumptions/96.md. -/
def Obligations.TokensAndQuench : Prop :=
  (let here := fun (s : State) (o : QfFrom) (kind : Nat) => Arrives s o.flit 5 ∧ flVc o.flit = 0 ∧ qfKind o.flit = kind ∧
    BitVec.ofNat 16 (numAt o.flit.payload 5 2) = s.links.lodestar ∧ BitVec.ofNat 16 (numAt o.flit.payload 3 2) = s.links.deviceId ∧
    (o.flit.slot.1 = 0 ∨ s.ports[o.flit.port].qfSlot ≠ o.flit.slot.1 ∨ s.ports[o.flit.port].qfCount < 4)
  (∀ s o k, (here s o 1 ∧ qfScope o.flit = 1 ∧ qfTarget o.flit = (k : Pt).1) → Leads (.quench o false) s fun t =>
    t.parts[k].quenched = true ∧ (∀ j, j ≠ k → t.parts[j].quenched = s.parts[j].quenched)) ∧
  (∀ s o p, (here s o 1 ∧ qfScope o.flit = 0 ∧ qfTarget o.flit = (p : Lp).1) → Leads (.quench o false) s fun t => t.ports[p].quenched = true) ∧
  (∀ s o k, (here s o 2 ∧ qfScope o.flit = 1 ∧ qfTarget o.flit = (k : Pt).1) → Leads (.liftQuench o) s fun t =>
    t.parts[k].unquench = true ∧ t.parts[k].quenched = s.parts[k].quenched) ∧
  (∀ s o p, (here s o 3 ∧ qfScope o.flit = 0 ∧ qfTarget o.flit = (p : Lp).1 ∧ lpPresent s p.1 = true ∧ s.ports[p].state ≠ .fenced) →
    Leads (.fence o) s fun t => t.ports[p].state = .fenced ∧ t.ports[p].fence = true ∧ t.ports[p].fenceCause = 1 ∧ t.ports[p].held = []) ∧
  (∀ s o p, (here s o 4 ∧ qfScope o.flit = 0 ∧ qfTarget o.flit = (p : Lp).1 ∧ s.ports[p].state = .fenced) →
    Leads (.unfence o) s fun t =>
      if s.ports[p].fenceCause = 1 then t.ports[p].state = .down ∧ t.ports[p].fence = false ∧ t.ports[p].fenceCause = 0
      else t.ports[p] = s.ports[p])) ∧
  ((∀ s p tk, (s.ports[p].isUp = true ∧ s.links.locked = true ∧ holdsAll s.ports[p] tk = true) →
    Leads (.commitToken p ⟨tk, false⟩ false) s (fun t => (∀ h ∈ t.ports[p].held, covers tk h = false) ∧ t.ports[p].discards = s.ports[p].discards) ∧
    Leads (.commitToken p ⟨tk, false⟩ true) s (fun t => (∀ h ∈ t.ports[p].held, covers tk h = false) ∧
      t.ports[p].discards = satAdd s.ports[p].discards (s.ports[p].held.filter (covers tk)).length ∧
      t.ports[p].protoTotal = satAdd s.ports[p].protoTotal 1) ∧
    Leads (.revokeToken p ⟨tk, false⟩) s (fun t => (∀ h ∈ t.ports[p].held, covers tk h = false) ∧
      t.ports[p].discards = satAdd s.ports[p].discards (s.ports[p].held.filter (covers tk)).length)) ∧
  (∀ s p tk r, Leads (.commitToken p ⟨tk, true⟩ r) s (fun t => t.ports = s.ports) ∧ Leads (.revokeToken p ⟨tk, true⟩) s fun t => t.ports = s.ports) ∧
  (∀ s p tk, (s.ports[p].isUp = true ∧ s.links.locked = true ∧ holdsAll s.ports[p] tk = false) →
    Leads (.revokeToken p ⟨tk, false⟩) s fun t => t.ports[p].held = s.ports[p].held ∧ t.ports[p].protoTotal = satAdd s.ports[p].protoTotal 1) ∧
  (∀ s p, let late := fun (h : HeldFlit) => h.tent && s.ports[p].held.any fun l =>
      l.tent && l.last && decide (l.tick.toNat + 3 ≤ s.meridian.tick.toNat) && l.part == h.part && l.stream == h.stream && decide (h.seq ≤ l.seq)
    Leads (.heldExpiry p) s fun t => (∀ h ∈ t.ports[p].held, late h = false) ∧
      t.ports[p].lost = satAdd s.ports[p].lost (s.ports[p].held.filter late).length))


/-- R480–R483, R568: the handshake. Each message that is awaited and passes its checks advances it, FINISH takes the port UP on eight lanes
under the keys of epoch 1; a message that fails a check, a REFUSE and a timeout take the port to REFUSED with the reason of R481. A re-key of a
direction begins with EVIDENCE of this side; a FINISH that verifies names the boundary of the new epoch, one that does not leaves the old key.
Any other handshake message in service is a protocol strike.
The model's choices it rests on: notes/assumptions/34.md, notes/assumptions/182.md, notes/assumptions/183.md. -/
def Obligations.Handshakes : Prop :=
  let gets := fun (s : State) (p : Lp) (k : Nat) (c : Instr) => Leads c s fun t =>
    t.ports[p].shake.got = k ∧ t.ports[p].state = .handshake ∧ (∀ q, q ≠ p → t.ports[q] = s.ports[q])
  let refuses := fun (s : State) (p : Lp) (reason : Byte) (c : Instr) => Leads c s fun t =>
    t.ports[p].state = .refused ∧ t.ports[p].shake.refuse = reason ∧ (∀ q, q ≠ p → t.ports[q] = s.ports[q])
  (∀ s p m, awaits s p 1 = true →
    (m.version = Config.linkVersion ∧ m.constId = s.ports[p].constId ∧ m.deviceId ≠ s.ports[p].devId ∧ (m.lcState = 4 ∨ m.lcState = 5) →
      gets s p 1 (.hello p m) ∧ Leads (.hello p m) s fun t => t.ports[p].peerId = m.deviceId ∧
        t.ports[p].mismatch = mapMismatch s.ports[p].slotMap m.slotMap) ∧
    (m.version ≠ Config.linkVersion → refuses s p 1 (.hello p m)) ∧
    (m.version = Config.linkVersion → m.constId ≠ s.ports[p].constId → refuses s p 2 (.hello p m)) ∧
    (m.version = Config.linkVersion → m.constId = s.ports[p].constId → m.deviceId = s.ports[p].devId → refuses s p 3 (.hello p m)) ∧
    (m.version = Config.linkVersion → m.constId = s.ports[p].constId → m.deviceId ≠ s.ports[p].devId → m.lcState ≠ 4 → m.lcState ≠ 5 →
      refuses s p 8 (.hello p m))) ∧
  (∀ s p chain, awaits s p 2 = true → (s.sc.esState = 0 → chain.length ≤ 8192 → gets s p 2 (.cert p chain true)) ∧ refuses s p 4 (.cert p chain false)) ∧
  (∀ s p m, awaits s p 3 = true →
    (fwAccepted s m.dfwDigest = true → m.sigOk = true → gets s p 3 (.evidence p m)) ∧
    (fwAccepted s m.dfwDigest = false → refuses s p 5 (.evidence p m)) ∧
    (fwAccepted s m.dfwDigest = true → m.sigOk = false → refuses s p 6 (.evidence p m))) ∧
  (∀ s p hmac named, awaits s p 4 = true → let h := s.ports[p].shake
    (hmac = finishMac s p h → Leads (.finish p hmac named) s fun t => t.ports[p].state = .up ∧ t.ports[p].width = 8 ∧ t.ports[p].epochIn = 1 ∧
      t.ports[p].epochOut = 1 ∧ t.ports[p].backoff = 1 ∧ (Canonical s → 3 ≤ h.peers.length → ∀ out, (slot t (linkSlot p.1 out 1)).key = directionKey s p h out 1)) ∧
    (hmac ≠ finishMac s p h → refuses s p 7 (.finish p hmac named))) ∧
  (∀ s p reason, (lpPresent s p.1 = true ∧ s.ports[p].state = .handshake) → refuses s p reason (.refuse p reason) ∧ refuses s p 9 (.messageTimeout p)) ∧
  (∀ s p out, (s.ports[p].isUp = true ∧ s.ports[p].rekey = none ∧ s.sc.esState = 0) → Leads (.linkRekey p out) s fun t =>
    (∃ r, t.ports[p].rekey = some r ∧ r.out = out ∧ r.shake.sent = 3 ∧ r.shake.got = 2 ∧
      (t.ports[p].shakeOut.drop s.ports[p].shakeOut.length).flatten = r.shake.own.getLast?.getD []) ∧
    t.ports[p].state = s.ports[p].state ∧ t.ports[p].rekeyDue = s.ports[p].rekeyDue ∧ (∀ q, q ≠ p → t.ports[q] = s.ports[q])) ∧
  (∀ s p r hmac named, (s.ports[p].isUp = true ∧ s.ports[p].rekey = some r ∧ r.shake.got = 3 ∧ r.shake.sent = 4) →
    Leads (.finish p hmac named) s fun t => t.ports[p].rekey = none ∧ t.ports[p].state = s.ports[p].state ∧
      t.ports[p].epochIn = s.ports[p].epochIn ∧ t.ports[p].epochOut = s.ports[p].epochOut ∧
      t.ports[p].rekeyDue = s.ports[p].rekeyDue ++ if hmac = finishMac s p r.shake then
        [(r.out, if r.at_ < named then named else r.at_,
          directionKey s p r.shake r.out ((if r.out then s.ports[p].epochOut else s.ports[p].epochIn).toNat + 1))] else []) ∧
  (∀ s p m chain ok reason, s.ports[p].isUp = true →
    let stray := fun (c : Instr) => Leads c s fun t => t.ports[p].protoTotal = satAdd s.ports[p].protoTotal 1 ∧ t.ports[p].state = s.ports[p].state
    stray (.hello p m) ∧ stray (.cert p chain ok) ∧ stray (.refuse p reason))

/-- R440, R478, R479, R484, R485, R487, R501, R758, R759: the states of a port. A port with an accepted plug trains when it detects a signal, under the
identity last written; it locks into the handshake with a fresh nonce and full credits, of which its HELLO takes one, or goes back to DOWN; from
REFUSED it trains again with twice the wait. In service it leaves by loss of signal, by its plug, or by the fence of a threshold, and of its
routes only those that have just been activated stay active. A lane is fenced on its error statistics alone.
The model's choices it rests on: notes/assumptions/29.md, notes/assumptions/34.md, notes/assumptions/182.md, notes/assumptions/184.md. -/
def Obligations.PortStates : Prop :=
  (∀ s p, (lpPresent s p.1 = true ∧ s.ports[p].state = .down ∧ s.ports[p].plug = 1 ∧ mayTrain s p = true) → Leads (.signalDetect p) s fun t =>
    t.ports[p].state = .training ∧ t.ports[p].devId = s.links.deviceIdW ∧ t.ports[p].constId = s.links.constIdW ∧
    t.links.deviceId = s.links.deviceIdW ∧ t.links.constId = s.links.constIdW) ∧
  (∀ s p, s.ports[p].plug ≠ 1 → exec (.signalDetect p) s = .next s) ∧
  (∀ s x, let p := x.port
    s.ports[p].state = .training →
    (s.sc.esState = 0 → s.ports[p].slotMap.length = 32 → Leads (.trainingLock x) s fun t =>
      let l2 := min x.peerL2 15808
      let kib := s.ports[p].l2BufW.toNat
      t.ports[p].state = .handshake ∧ t.ports[p].shake.sent = 1 ∧ t.ports[p].shake.got = 0 ∧ t.ports[p].rxNum = 0 ∧ t.ports[p].txNum = 1 ∧
      t.ports[p].credits = #v[127, 128, 4 * l2, 4 * (15808 - l2)] ∧ t.ports[p].free = #v[128, 128, 4 * kib, 4 * (15808 - kib)] ∧
      ∃ f, t.links.sent = s.links.sent ++ [f] ∧ f.port = p ∧ f.typ = 8 ∧ f.vc = 0 ∧ f.num = 0 ∧ f.payload = t.ports[p].shake.own.flatten) ∧
    (s.sc.esState ≠ 0 → Leads (.trainingLock x) s fun t => t.ports[p].state = .refused)) ∧
  (∀ s p, s.ports[p].state = .training → Leads (.trainingTimeout p) s fun t => t.ports[p] = { s.ports[p] with state := .down }) ∧
  (∀ s p, s.ports[p].state = .handshake → Leads (.handshakeTimeout p) s fun t => t.ports[p] = { s.ports[p] with state := .refused }) ∧
  (∀ s p, s.ports[p].state = .refused → Leads (.backoffExpiry p) s fun t =>
    t.ports[p] = { s.ports[p] with state := .training, lanesFenced := 0, devId := s.links.deviceIdW, constId := s.links.constIdW,
                                   backoff := min 64 (2 * s.ports[p].backoff) }) ∧
  (∀ s p, s.ports[p].isUp = true → Leads (.lossOfSignal p) s fun t => t.ports[p].state = .down ∧ t.ports[p].held = [] ∧
    ∀ r ∈ t.links.routes, routeOn s p r = true → r.bytes = 0 ∧ r.sentAll = false) ∧
  (∀ s p x, (s.ports[p].isUp = true ∧ bit s.ports[p].lanesFenced x.lane.1 = false) → Leads (.laneFenced p x) s fun t =>
    t.ports[p] = if 8 ≤ x.badTicks ∨ 8 * x.codewords < x.corrected then
      { s.ports[p] with lanesFenced := setBit s.ports[p].lanesFenced x.lane.1 true, widthDue := true } else s.ports[p]) ∧
  (∀ s p, (lpPresent s p.1 = true ∧ s.ports[p].state ≠ .fenced ∧ fenceDue s p ≠ 0) → Leads (.portThresholdFence p) s fun t =>
    t.ports[p].state = .fenced ∧ t.ports[p].fence = true ∧ t.ports[p].fenceCause = fenceDue s p) ∧
  (∀ s p cm, lpPresent s p.1 = true →
    Leads (.plugInsert p (.passiveCopper cm)) s (fun t => t.ports[p] = { s.ports[p] with plug := 1, cableCm := cm }) ∧
    Leads (.plugInsert p (.otherMedium cm)) s (fun t => t.ports[p] = { s.ports[p] with plug := 2, cableCm := cm }) ∧
    Leads (.plugInsert p .noAnswer) s (fun t => t.ports[p] = { s.ports[p] with plug := 3, cableCm := 0 })) ∧
  (∀ s p, s.ports[p].state ≠ .fenced → Leads (.plugRemove p) s fun t => t.ports[p].state = .down ∧ t.ports[p].plug = 0 ∧ t.ports[p].cableCm = 0)

/-- R44, R460, R468, R469, R491–R494, R600: the device becomes lodestar by the election, as standby, or alone at start-up: a new epoch, depth 0, no
parent, locked; after 16 ticks without a TIME flit it unlocks. A device without lock locks to a TIME flit of a locked sender, at one more
than its depth, where no change of the period is pending; one with lock follows the tick number that the flit brings (R43), and a lodestar that
sees a better one becomes an ordinary device under it. D and the loss of the lodestar go by the flits of the parent.
The model's choices it rests on: notes/assumptions/30.md, notes/assumptions/98.md, notes/assumptions/100.md. -/
def Obligations.Lodestar : Prop :=
  let leads := fun (s t : State) (epoch : W32) => t.links.lodestar = s.links.deviceId ∧ t.links.epoch = epoch ∧ t.links.locked = true ∧
    t.links.depth = 0 ∧ t.links.parentPort = 0xFF ∧ t.meridian.tick = (if s.links.epoch = 0 then 0 else s.meridian.tick) ∧
    ∀ p : Lp, t.ports[p].treeParent = false
  (∀ s, (s.links.locked = false ∧ s.links.candPref ≠ 0 ∧ s.links.candId = s.links.deviceId ∧ 64 ≤ s.links.selfCount) →
    Leads .lodestarElected s fun t => leads s t (s.links.epoch + 1)) ∧
  (∀ s, (s.links.locked = true ∧ s.links.standby = s.links.deviceId ∧ s.links.lodestar ≠ s.links.deviceId ∧ 2 ≤ s.links.noTime) →
    Leads .standbyTakeover s fun t => leads s t (s.links.epoch + 1)) ∧
  (∀ s, (6 ≤ s.sc.stage.toNat ∧ s.pins.perst = false ∧ s.links.locked = false ∧ s.links.pref ≠ 0 ∧ (∀ p : Lp, s.ports[p].isUp = false)) →
    Leads .selfLodestar s fun t => leads s t 1) ∧
  (∀ s, (s.links.locked = true ∧ s.links.lodestar ≠ s.links.deviceId ∧ 16 ≤ s.links.noTime) → Leads .timeLossUnlock s fun t =>
    t.links.locked = false ∧ t.links.slotsOff = true ∧ t.links.depth = 0xFF ∧ t.links.parentPort = 0xFF ∧
    ∀ p : Lp, t.ports[p] = { s.ports[p] with treeParent := false }) ∧
  (∀ s, (s.links.locked = false ∧ s.pins.perst = false) → Leads .preLockTimeSend s fun t =>
    t.links.sent.length = s.links.sent.length + (allLps.filter fun p => s.ports[p].isUp && hasCredit s p 0).length ∧ t.links.locked = false) ∧
  (∀ s f x, let m := timeMsg f.payload
    (Arrives s f 2 ∧ flVc f = 0 ∧ s.links.locked = false ∧ m.depth ≠ 0xFF) →
    ((s.ports[f.port].width = 8 ∧ m.eff = 0 ∧ m.depth.toNat + 1 ≤ depthLimitAt m.period.toNat) → Leads (.timeFlit f x) s fun t =>
      t.links.locked = true ∧ t.links.depth = m.depth + 1 ∧ t.links.lodestar = m.lode ∧ t.links.epoch = m.epoch ∧ t.meridian.periodUs = m.period ∧
      t.meridian.tick = m.tick ∧ t.links.parentPort.toNat = f.port.1 ∧ ∀ p : Lp, t.ports[p].treeParent = true ↔ p = f.port) ∧
    ((s.ports[f.port].width ≠ 8 ∨ m.eff ≠ 0 ∨ depthLimitAt m.period.toNat < m.depth.toNat + 1) → Leads (.timeFlit f x) s fun t =>
      t.links.locked = false ∧ t.meridian = s.meridian)) ∧
  (∀ s f x, let m := timeMsg f.payload
    (Arrives s f 2 ∧ flVc f = 0 ∧ s.links.locked = true ∧ f.slot.1 = 0 ∧ f.first = true ∧ m.depth ≠ 0xFF) →
    (outdated s.links m x.pref = true → Leads (.timeFlit f x) s fun t =>
      t.meridian = s.meridian ∧ t.links.lodestar = s.links.lodestar ∧ t.links.epoch = s.links.epoch ∧ t.links.noTime = s.links.noTime) ∧
    (outdated s.links m x.pref = false → s.links.lodestar ≠ s.links.deviceId ∨ m.lode ≠ s.links.deviceId → Leads (.timeFlit f x) s fun t =>
      t.meridian.tick = m.tick ∧ t.links.lodestar = m.lode ∧ t.links.epoch = m.epoch ∧
      (s.links.lodestar ≠ s.links.deviceId → s.links.parentPort.toNat = f.port.1 → t.links.noTime = 0 ∧ t.links.depthMax = m.dmax) ∧
      (s.links.lodestar = s.links.deviceId → s.ports[f.port].width = 8 →
        m.depth.toNat + 1 ≤ depthLimitAt (periodOf s m).periodUs.toNat → t.links.depth = m.depth + 1 ∧ t.links.parentPort.toNat = f.port.1)))

/-! ## The passes of a step, the cellar and the scrubbers (spec/08_press.md, spec/09_memory_tiers.md, spec/11_confidential_computing.md) -/

/-- R38–R40, R349–R360, R372–R378: a step of the presses. Pass 1 (in SPARSE service the only pass) starts once the step is armed and no gradient
transfer is open; η is latched, and each unit with an image runs its pass, has it waiting, or is done at once. When every open unit's pass 1 is
complete, the device partial is the sum of its units' regions and enters the norm exchange. Passes that become ready in one clock start when all of them are
there. Pass 2 starts behind the boundary at which the
combined norm was there; the update phase ends when every unit is done and no write to the cellar awaits its batch. A press fault stops the
press; where the cellar press can serve, it takes the passes of a stopped press over, and else the update is torn.
The model's choices it rests on: notes/assumptions/31.md, notes/assumptions/47.md, notes/assumptions/105.md. -/
def Obligations.PressPasses : Prop :=
  let busy := fun (s : State) (k : Pt) (u : Ps) => s.presses[u].slots[k].active.isSome = true
  let ready := fun (s : State) (k : Pt) =>
    (∀ u, busy s k u → u.1 < 8 ∧ s.presses[u].faulted = false ∧ s.presses[u].fenced = false) ∧
    ∀ p : Ps, ∀ y ∈ s.presses[p].ready, y.2.2 = p
  let handed := fun (t : State) (k : Pt) (pass : Nat) (p u : Ps) => (k, pass, u) ∈ t.presses[p].ready ∨
    (∃ r, t.presses[p].run = some r ∧ r.part = k ∧ r.pass = pass ∧ r.slotOf = u) ∨ bit t.parts[k].step.unitsDone u.1 = true
  let noFence := fun (s : State) => ∀ h : Hb, s.hbs[h].fenced = false
  (∀ s k, (s.parts[k].step.phase = .armed ∧ transferOpen s k = false ∧ ready s k ∧ noFence s) → ∀ more, Leads (.pressPass1Start ⟨k, more⟩) s fun t =>
    let sparse := s.parts[k].step.service = 1
    t.parts[k].step.phase = (if sparse then .sparse else .pass1) ∧ t.parts[k].step.etaLatched = s.parts[k].step.etaTick ∧
    t.parts[k].step.etaFresh = false ∧ (∀ u, busy s k u → handed t k (if sparse then 3 else 1) u u) ∧ MemoriesKept s t) ∧
  (∀ s k, (s.parts[k].step.phase ≠ .armed ∨ transferOpen s k = true) → ∀ more, exec (.pressPass1Start ⟨k, more⟩) s = .next s) ∧
  (∀ s k, let x := (openUnits s k).foldl (fun a u => match a.1.presses[u].slots[k].active with
      | some im => im.regions.foldl (normRegion k s.parts[k].step.normWexp.toInt) a
      | none => a) (s, NormPartial.zero)
    (s.parts[k].step.phase = .pass1 ∧ (∀ u ∈ openUnits s k, pass1Runs s k u = true) ∧ noFence x.1) → Leads (.pressPass1End k) s fun t =>
      t.parts[k].step.phase = .norm ∧ t.parts[k].step.partial_ = { x.2 with owners := s.parts[k].step.owners } ∧
      t.parts[k].step.unitsDone = BitVec.allOnes 9 ∧
      (normRoute x.1 k = none → t.parts[k].step.combined = some { x.2 with owners := s.parts[k].step.owners })) ∧
  (∀ s k, (s.parts[k].step.phase = .normHere ∧ ready s k) → ∀ more, Leads (.pressPass2Start ⟨k, more⟩) s fun t =>
    t.parts[k].step.phase = .pass2 ∧ (∀ u, busy s k u → handed t k 2 u u) ∧ MemoriesKept s t) ∧
  (∀ s k, ((s.parts[k].step.phase = .pass2 ∨ s.parts[k].step.phase = .sparse) ∧ s.parts[k].step.unitsDone = BitVec.allOnes 9 ∧
      bit s.cellar.lastWrite k.1 = false) → Leads (.updatePhaseEnd k) s fun t =>
    t.parts[k].step = { s.parts[k].step with phase := .applied } ∧ (∀ j, j ≠ k → t.parts[j] = s.parts[j]) ∧ MemoriesKept s t) ∧
  (∀ s k, (s.parts[k].step.unitsDone ≠ BitVec.allOnes 9 ∨ bit s.cellar.lastWrite k.1 = true) → exec (.updatePhaseEnd k) s = .next s) ∧
  (∀ s p, (s.presses[p].faulted = false ∧ (p.1 = 8 ∨ hbPresent s p.1 = true)) → Leads (.pressFault p) s fun t =>
    t.presses[p].faulted = true ∧ MemoriesKept s t ∧
    (p.1 < 8 → ∀ k : Pt, t.parts[k].step.phase = s.parts[k].step.phase) ∧
    (p.1 = 8 → ∀ r, s.presses[p].run = some r → inUpdate s.parts[r.part] = true → t.parts[r.part].step.phase = .torn)) ∧
  (∀ s h, let p : Ps := hbBank h
    ((s.presses[p].faulted = true ∨ s.presses[p].fenced = true) ∧ (∀ y ∈ s.presses[8].ready, y.2.2 ≠ p) ∧
      (∀ r, s.presses[8].run = some r → r.slotOf ≠ p) ∧ leftPasses s.presses[p] ≠ []) →
    ((∀ y ∈ leftPasses s.presses[p], cellarServesPart s y.1 = true) → Leads (.takeover h) s fun t =>
      (∀ y ∈ leftPasses s.presses[p], handed t y.1 y.2.1 8 y.2.2) ∧ MemoriesKept s t) ∧
    ((∀ y ∈ leftPasses s.presses[p], cellarServesPart s y.1 = false) → Leads (.takeover h) s fun t =>
      (∀ y ∈ leftPasses s.presses[p], inUpdate s.parts[y.1] = true → t.parts[y.1].step.phase = .torn) ∧ MemoriesKept s t))

/-- R408, R414–R424, R540–R544: the cellar, the scrubbers and the re-key engines. A batch cut sends every notice of the tick, folded where a partition
has more than 16,384; a cellar read past its deadline ends late and is counted, and one that completes in that clock counts as
coincident; a cellar port whose 8th resend fails is fenced. A scrub read counts what it corrects, and stores a line that it cannot correct poisoned, unless a
master has written it meanwhile; a poisoned line it passes over. The
level of a scrubber moves by R422, and a frozen one holds LEVEL_SET. A re-key converts line by line to the new generation, where the counter
path of the line holds; one whose tag fails is stored poisoned under the new key; and then the region has the generation. A wait of two
boundaries without a slot fails. No replay unit is rolling back, and where a re-key goes on, nothing waits for it.
The model's choices it rests on: notes/assumptions/118.md, notes/assumptions/146.md. -/
def Obligations.CellarAndScrub : Prop :=
  (∀ s inTime, Leads (.noticeBatchCut inTime) s fun t =>
    (∃ b, t.cellar.batch = some b ∧ ∀ k : Pt,
      let mine := s.cellar.notices.filter fun n => n.part == k
      if mine.length ≤ 16384 then b.filter (fun n => n.part == k) = mine
      else ∀ n : Notice, (n ∈ b ∧ n.part = k) ↔ ∃ m ∈ mine, n = { m with page := none }) ∧
    t.cellar.notices = [] ∧ t.cellar.late = !inTime ∧ t.cellar.lastWrite = 0 ∧ t.cellar.mem = s.cellar.mem ∧ t.hbs = s.hbs) ∧
  (∀ s id r, (s.reqs.find? (fun x => x.id == id) = some r ∧ moveRuns s r = true ∧ r.cellar = true ∧ r.deadline ≤ s.meridian.tick ∧ NoRollBack s) →
    Leads (.cellarDeadlineExpiry id false) s (fun t =>
      t.parts[r.part].counters.cellarLate = satAdd s.parts[r.part].counters.cellarLate 1 ∧ ∀ p ∈ t.parts[r.part].inflight, p.id ≠ r.id) ∧
    Leads (.cellarDeadlineExpiry id true) s fun t =>
      t.parts[r.part].counters.cellarCoinc = satAdd s.parts[r.part].counters.cellarCoinc 1 ∧
      t.parts[r.part].counters.cellarLate = s.parts[r.part].counters.cellarLate) ∧
  (∀ s p, (bit s.cellar.cpFenced (p : Cp).1 = false ∧ bit s.cellar.cpUp p.1 = true) → Leads (.cpPortFail p) s fun t =>
    t.cellar = { s.cellar with
      cpFenced := setBit s.cellar.cpFenced p.1 true, cpMove := true, resends := satAdd s.cellar.resends (8 - Vector.get s.cellar.tries p), tries := vmod s.cellar.tries p fun _ => 0 } ∧
    MemoriesKept { s with cellar := t.cellar } t) ∧
  (∀ s line found raced (h : Hb), (Canonical s ∧ 64 * line < bankBytes s (hbBank h)) → Leads (.scrubRead (hbBank h) line found raced) s fun t =>
    let x := Sparse.get LineMeta.zero s.hbs[h].lines line
    let y := Sparse.get LineMeta.zero t.hbs[h].lines line
    t.hbs[h].mem = s.hbs[h].mem ∧ t.hbs[h].toScrub = s.hbs[h].toScrub.filter (· != line) ∧
    (∀ n, n ≠ line → Sparse.get LineMeta.zero t.hbs[h].lines n = Sparse.get LineMeta.zero s.hbs[h].lines n) ∧
    ((x.poison = true ∨ (found = .clean ∧ x.ue = false ∧ x.ce = false)) → t.hbs[h] = { s.hbs[h] with toScrub := t.hbs[h].toScrub }) ∧
    ((x.poison = false ∧ x.ue = false ∧ (found = .corrected ∨ (found = .clean ∧ x.ce = true))) →
      t.hbs[h].ce = satAdd s.hbs[h].ce 1 ∧ t.hbs[h].scrub.ceSecond = s.hbs[h].scrub.ceSecond + 1 ∧ y = { x with ce := false }) ∧
    ((x.poison = false ∧ (x.ue = true ∨ found = .uncorrectable)) → t.hbs[h].ue = satAdd s.hbs[h].ue 1 ∧ y.poison = !raced)) ∧
  (∀ s (h : Hb), Leads (.scrubLevelUpdate (hbBank h)) s fun t =>
    let x := s.hbs[h].scrub
    t.hbs[h].scrub.ceSecond = 0 ∧ t.hbs[h].mem = s.hbs[h].mem ∧
    t.hbs[h].scrub.level.toNat = (if x.freeze then x.levelSet.toNat
      else if s.tiers.up.toNat ≤ x.ceSecond then min 6 (x.level.toNat + 1)
      else if x.ceSecond = 0 ∧ x.quiet + 1 = 60 then x.level.toNat - 1 else x.level.toNat)) ∧
  (∀ s m region e, (Canonical s ∧ NothingHeld s ∧
      (((bank s m).rekeys.filter fun x => !x.waiting).take 4).find? (fun x => x.region == region) = some e) →
    Leads (.rekeyEngine m region) s fun t =>
      let line := e.region * 32768 + e.ptr
      (bank t m).mem = (bank s m).mem ∧
      (∀ o, objInBank s.parts[e.part] m (64 * line) = some o →
        let u := usePath (findErrors s m line) m o line true
        let x := lineNow u.1 m o line
        let y := Sparse.get LineMeta.zero (bank t m).lines line
        u.2 = none → (x.written = true ∨ x.poison = true ∨ tagFails e.keyId.toNat x = true) →
          y.keyId = e.keyId ∧ y.gen = e.newGen ∧ y.ctr = 0 ∧ y.bad = false ∧ y.ue = false ∧ y.poison = (x.poison || tagFails e.keyId.toNat x)) ∧
      (if e.ptr + 1 < 32768 then ∃ e' ∈ (bank t m).rekeys, e'.region = region ∧ e'.ptr = e.ptr + 1 ∧ e'.newGen = e.newGen
       else regionGen (bank t m) region = e.newGen ∧ ∀ e' ∈ (bank t m).rekeys, e'.region ≠ region)) ∧
  (∀ s m region e, (NothingHeld s ∧ (bank s m).rekeys.find? (fun x => x.region == region) = some e ∧ e.waiting = true ∧ e.failed = false ∧ 2 ≤ e.bounds) →
    Leads (.rekeyWaitExpiry m region false) s fun t => ∀ x ∈ (bank t m).rekeys, x.region = region → x.waiting = true → x.failed = true)

/-! ## The object dictionary and the management port (spec/13_object_dictionary.md, spec/11_confidential_computing.md) -/

/-- R616–R636, R765: the dictionary. OPEN gives a source a session under a number that no other has, for one of at most 32; a request under
no session of its source gets the session status, and one sent again the kept response. READ and its segments answer the entry's value,
WRITE_SEG stages and WRITE_END writes what is staged; DESCRIBE and ECHO answer; a write to an entry that takes armed changes only is refused and
counted. A frame that is not whole is dropped and counted, and a session ends by CLOSE or by its timeout. The answer to a request that a link brought
leaves on the port on which it came, its route reversed. A flit for other devices goes on, or is dropped and counted; the ninth ODP flit of a
control slot is dropped with a strike (R434).
The model's choices it rests on: notes/assumptions/67.md, notes/assumptions/142.md. -/
def Obligations.OdpRequests : Prop :=
  (∀ s o bs f, (Comes s o ∧ parseFrame bs = some f ∧ f.op = 1 ∧ f.data.length = 2 ∧ (byteAt f.data 0).toNat ≤ 1 ∧
      ((byteAt f.data 1).toNat < 4 ∨ byteAt f.data 1 = 0xFF)) →
    (s.dict.sessions.length < 32 → (byteAt f.data 0 = 1 → ∃ k : Pt, byteAt f.data 1 = BitVec.ofNat 8 k.1 ∧ partyMayOpen s o k = true) →
      Leads (.odpOpen o bs) s fun t => ∃ x, t.dict.sessions = s.dict.sessions ++ [x] ∧ x.src = boundSrc o ∧ x.id ≠ 0 ∧
        (∀ y ∈ s.dict.sessions, y.id ≠ x.id) ∧ x.party = (byteAt f.data 0 == 1) ∧ (∀ k : Pt, x.part = some k ↔ (byteAt f.data 1).toNat = k.1) ∧
        t.dict.out = s.dict.out ++ [responseBytes f x.id { status := 0, data := leBytes 2 (largestOf o) }]) ∧
    (32 ≤ s.dict.sessions.length → Leads (.odpOpen o bs) s fun t =>
      t.dict.sessions = s.dict.sessions ∧ Answers s t f { status := 0x10 })) ∧
  (∀ I ∈ ([(2, Instr.odpClose), (3, .odpRead), (5, .readSeg), (6, .writeSeg), (8, .describe), (9, .echo)] : List (Nat × (OdpSrc → Bytes → Instr))),
    ∀ s o bs f, (Comes s o ∧ parseFrame bs = some f ∧ f.op = I.1) →
      (sessionOf s o f = none → Leads (I.2 o bs) s fun t => t.dict.sessions = s.dict.sessions ∧ Answers s t f { status := 0x0C }) ∧
      (∀ x, sessionOf s o f = some x → x.lastSeq = some f.seq → Leads (I.2 o bs) s fun t =>
        t.dict.sessions = s.dict.sessions ∧ t.dict.out = s.dict.out ++ [x.lastResp])) ∧
  (∀ s o bs, (Comes s o ∧ parseFrame bs = none) → Leads (.odpRead o bs) s fun t =>
    t.dict.dropped = satAdd s.dict.dropped 1 ∧ t.dict.out = s.dict.out) ∧
  (∀ s dev via hops path bs, (arrives s (.link dev via hops path) = true ∧ 8 ≤ s.ports[via].odpCount ∧ (∀ f, parseFrame bs = some f → f.op = 3)) →
    Leads (.odpRead (.link dev via hops path) bs) s fun t =>
      t.dict = s.dict ∧ t.ports[via].protoTotal = satAdd s.ports[via].protoTotal 1) ∧
  (∀ s o bs x f, (Asks s o bs 2 x f ∧ f.data.length ≤ largestOf o) → Leads (.odpClose o bs) s fun t =>
    (∀ y, y ∈ t.dict.sessions ↔ y ∈ s.dict.sessions ∧ y.id ≠ x.id) ∧ Answers s t f { status := 0 }) ∧
  (∀ s (id : Nat), Leads (.odpSessionTimeout id) s fun t =>
    (∀ y, y ∈ t.dict.sessions ↔ y ∈ s.dict.sessions ∧ y.id ≠ BitVec.ofNat 16 id) ∧ t.dict.out = s.dict.out) ∧
  (∀ s o bs x f a r, (Asks s o bs 3 x f ∧ entryCheck s x f .read = .ok (a, r)) → ∀ s' v, takeValue s x a f.sub = some (s', v) →
    Leads (.odpRead o bs) s fun t => Answers s t f
      (if largestOf o < v.length then { status := 0x07, typ := r.typ.code } else { status := 0, typ := r.typ.code, data := v })) ∧
  (∀ s o bs x f st, (Asks s o bs 3 x f ∧ entryCheck s x f .read = .error st) → Leads (.odpRead o bs) s fun t => Answers s t f { status := st }) ∧
  (∀ s o bs x f a r, (Asks s o bs 5 x f ∧ entryCheck s x f .read = .ok (a, r)) →
    (∀ s' v, f.offset = 0 → takeValue s x a f.sub = some (s', v) → Leads (.readSeg o bs) s fun t => Answers s t f
      { status := 0, more := decide (largestOf o < v.length), typ := r.typ.code, data := v.take (largestOf o) }) ∧
    (∀ v, f.offset ≠ 0 → snapOf x f = some v → f.offset ≤ v.length → Leads (.readSeg o bs) s fun t => Answers s t f
      { status := 0, more := decide (f.offset + largestOf o < v.length), typ := r.typ.code, data := (v.drop f.offset).take (largestOf o) })) ∧
  (∀ s o bs x f a r, (Asks s o bs 6 x f ∧ entryCheck s x f .stage = .ok (a, r) ∧ f.data.length ≤ largestOf o ∧
      f.offset + f.data.length ≤ r.typ.largest ∧ (f.offset = 0 ∨ f.offset = ((stagedOf x f).getD []).length)) → Leads (.writeSeg o bs) s fun t =>
    (∃ y ∈ t.dict.sessions, y.id = x.id ∧ stagedOf y f = some ((if f.offset = 0 then [] else (stagedOf x f).getD []) ++ f.data)) ∧
    Answers s t f { status := 0, typ := r.typ.code }) ∧
  (∀ s o bs x f a r v, (Asks s o bs 7 x f ∧ ownRow f = false ∧ entryCheck s x f .write = .ok (a, r) ∧ stagedOf x f = some v ∧ f.data.length = 4 ∧
      numAt f.data 0 4 = v.length ∧ r.typ.lengthOk v.length = true ∧ (writeEntry s {} x a f.sub v).2 = 0 ∧ a = .links ∧ f.sub = 1) →
    Leads (.writeEnd o bs) s fun t => t.links.deviceIdW = BitVec.ofNat 16 (leNat v) ∧
      (∃ y ∈ t.dict.sessions, y.id = x.id ∧ stagedOf y f = none) ∧ Answers s t f { status := 0, typ := r.typ.code }) ∧
  (∀ s o bs x f, (AsksWrite s o bs 0x2000 4 x f ∧ x.part = none) →
    (600 ≤ leNat f.data ∧ leNat f.data ≤ (tdpWatts s.full).toNat → Leads (.odpWrite o bs) s fun t =>
      t.power = { s.power with limitW := BitVec.ofNat 16 (leNat f.data) } ∧ Accepted s t f) ∧
    ((leNat f.data < 600 ∨ (tdpWatts s.full).toNat < leNat f.data) → Leads (.odpWrite o bs) s fun t =>
      t.power = s.power ∧ Answers s t f { status := 0x08 })) ∧
  (∀ s o bs x f, (Asks s o bs 4 x f ∧ ownRow f = false ∧ entryCheck s x f .write = .error 0x05) → Leads (.odpWrite o bs) s fun t =>
    t.change = { s.change with armWrites := satAdd s.change.armWrites 1 } ∧ Answers s t f { status := 0x05 }) ∧
  (∀ s o bs x f a r, (Asks s o bs 8 x f ∧ entryCheck s x f .describe = .ok (a, r)) → Leads (.describe o bs) s fun t => ∃ now,
    Answers s t f { status := 0, typ := r.typ.code,
                    data := [BitVec.ofNat 8 r.typ.code, BitVec.ofNat 8 r.acc.code, 0, 0] ++ leBytes 4 now ++ leBytes 4 r.typ.largest }) ∧
  (∀ s o bs x f, (Asks s o bs 9 x f ∧ f.data.length ≤ largestOf o) → Leads (.echo o bs) s fun t => Answers s t f { status := 0, data := f.data } ∧
    t.dict.odpOut = s.dict.odpOut ++ match o with
      | .link dev via hops path =>
        [(via, responseFlit s dev hops (path.take hops.toNat).reverse (responseBytes f f.session { status := 0, data := f.data }))]
      | _ => []) ∧
  (∀ s p hop flit, (s.links.locked = true ∧ s.ports[p].isUp = true ∧ s.ports[p].odpCount < 8) →
    let b := slice flit 0 224
    ((odpDir b = 1 ∨ odpDir b = 3) → odpHops b = 0xFF → (∀ q : Lp, s.ports[q].treeChild = true → s.ports[q].isUp = true) → Leads (.odpForward p hop flit) s fun t =>
      t.dict.odpOut = s.dict.odpOut ++ (allLps.filter fun q => s.ports[q].treeChild && q != p).map fun q => (q, b)) ∧
    (odpDir b ≠ 1 → odpDir b ≠ 3 → odpHops b = 0xFF → (∀ q : Lp, s.ports[q].treeParent = true → s.ports[q].isUp = true) →
      Leads (.odpForward p hop flit) s fun t =>
        t.dict.odpOut = s.dict.odpOut ++ (allLps.filter fun q => s.ports[q].treeParent && q != p).map fun q => (q, b)) ∧
    (∀ q : Lp, odpHops b ≤ 12 → hop < odpHops b → odpDest b ≠ s.links.deviceId.toNat → (byteAt b (8 + hop)).toNat = q.1 → s.ports[q].isUp = true →
      Leads (.odpForward p hop flit) s fun t => t.dict.odpOut = s.dict.odpOut ++ [(q, splice b (8 + hop) (leBytes 1 p.1))] ∧
        t.dict.routeDrops = s.dict.routeDrops) ∧
    (odpHops b ≤ hop → odpDest b ≠ s.links.deviceId.toNat → odpHops b ≠ 0xFF → Leads (.odpForward p hop flit) s fun t =>
      t.dict.routeDrops = satAdd s.dict.routeDrops 1))

/-- R46, R47, R361, R364, R403, R471, R518, R602, R613: writes that have rows of their own, over sessions that may make them, within the entry's range.
A new tick period waits for the tick written for it, and is refused while a confidential partition exists anywhere in the constellation.
The model's choices it rests on: notes/assumptions/66.md, notes/assumptions/140.md. -/
def Obligations.NamedWrites : Prop :=
  (∀ s o bs x f, (AsksWrite s o bs 0x2100 1 x f ∧ x.part = none ∧ isLodestar s = true ∧ anyConf s = false ∧ 5 ≤ leNat f.data ∧ leNat f.data ≤ 200 ∧
      s.meridian.tick.toNat + 16 ≤ s.meridian.effective.toNat ∧ s.links.depthMax.toNat ≤ depthLimitAt (leNat f.data)) →
    Leads (.tickPeriodUs o ⟨bs, false⟩) s (fun t =>
      t.meridian = { s.meridian with periodNew := some (BitVec.ofNat 8 (leNat f.data), s.meridian.effective) } ∧ Accepted s t f) ∧
    Leads (.tickPeriodUs o ⟨bs, true⟩) s fun t => t.meridian = s.meridian ∧ Answers s t f { status := 0x09 }) ∧
  (∀ s o bs x f, (AsksWrite s o bs 0x1000 10 x f ∧ x.part = none) →
    (f.data = [1] → Leads (.configSaveStore o bs) s fun t => t.sc.flash.saved = storedValues s ∧ t.dict.saving = true ∧ Accepted s t f) ∧
    (f.data = [2] → Leads (.configSaveErase o bs) s fun t => t.sc.flash.saved = [] ∧ t.dict.saving = s.dict.saving ∧ Accepted s t f)) ∧
  (∀ s, Leads .configSaveComplete s fun t => t.dict = { s.dict with saving := false } ∧ t.sc = s.sc) ∧
  (∀ s o bs x f k i, (AsksWrite s o bs 0x6000 7 x f ∧ x.part = some k ∧ s.parts[k].live = true ∧ isAnchor s k = true ∧
      (s.parts[k].session.state = 2 ∨ s.parts[k].session.state = 3) ∧ (byteAt f.data 0 = 1 ∨ byteAt f.data 0 = 2) ∧
      partyIndex s.parts[k].session.manifest (requesterOf s o) = some i ∧ i < 64 ∧ bit s.parts[k].session.delivered i = false ∧
      (byteAt f.data 0 = 2 ↔ manRole s.parts[k].session.manifest i = 3) ∧ (storeKey s k (BitVec.ofNat 8 i) (f.data.drop 1)).isSome = true) →
    Leads (.keyDeliver o bs) s fun t => bit t.parts[k].session.delivered i = true ∧ Accepted s t f) ∧
  (∀ s o bs x f k, (AsksWrite s o bs 0x5200 2 x f ∧ x.part = some k ∧ s.parts[k].live = true ∧ inUpdate s.parts[k] = false ∧
      sessionStarted s.parts[k] = false) → Leads (.stepNumber o bs) s fun t =>
    t.parts[k].step.numberW = some (BitVec.ofNat 64 (leNat f.data)) ∧ t.parts[k].step.number = s.parts[k].step.number ∧ Accepted s t f) ∧
  (∀ s o bs x f k, (AsksWrite s o bs 0x5200 6 x f ∧ x.part = some k ∧ s.parts[k].live = true ∧ s.parts[k].conf = false) →
    Leads (.srSeed o bs) s fun t => t.parts[k].step.seedW = some f.data ∧ t.parts[k].step.seed = s.parts[k].step.seed ∧ Accepted s t f) ∧
  (∀ s o bs x f, (Canonical s ∧ AsksWrite s o bs 0x3100 17 x f ∧ x.part = none ∧ isLodestar s = true) →
    Leads (.jobSize o bs true) s (fun t => (∀ j, j < 256 → (Sparse.get (0 : W32) t.links.jobSize j).toNat = numAt f.data (4 * j) 4) ∧ Accepted s t f) ∧
    Leads (.jobSize o bs false) s fun t => t.links = s.links ∧ Answers s t f { status := 0x09 }) ∧
  (∀ s o bs x f, (AsksWrite s o bs 0x4100 f.sub x f ∧ f.sub ∈ [17, 33, 49, 65] ∧ x.part = none ∧ (∀ h : Hb, numAt f.data (2 * h.1) 2 ≤ 22888) ∧
      (∀ k : Pt, s.parts[k].conf = true → poolOf s.parts[k] ≠ poolAt f.sub) ∧ (∀ h : Hb, quotaSum s (poolAt f.sub) f.data h ≤ 22888)) →
    Leads (.poolQuota o bs) s fun t => (∀ h : Hb, (t.pools[poolAt f.sub].written[h]).toNat = numAt f.data (2 * h.1) 2) ∧
      (∀ j, j ≠ poolAt f.sub → t.pools[j] = s.pools[j]) ∧ t.pools[poolAt f.sub].quota = s.pools[poolAt f.sub].quota ∧ Accepted s t f) ∧
  (∀ s o bs x f img, (AsksWrite s o bs 0x1100 15 x f ∧ x.part = none ∧ s.sc.recovery = true) →
    (img.verifies = true → Leads (.recoveryImage o bs img) s fun t =>
      let y : FlashImage := ⟨img.svn, img.digest, img.verifies, img.test⟩
      let a := s.sc.flash
      t.sc.flash = (match img.isSfw, a.sfwA.verifies, a.dfwA.verifies with
        | true, true, _ => { a with sfwB := y }
        | true, false, _ => { a with sfwA := y }
        | false, _, true => { a with dfwB := y }
        | false, _, false => { a with dfwA := y }) ∧ Accepted s t f) ∧
    (img.verifies = false → Leads (.recoveryImage o bs img) s fun t => t.sc.flash = s.sc.flash ∧ Answers s t f { status := 0x08 }))

/-- R640–R648: two-party change control. A set that keeps the rules is staged with its digest and the approvals that it needs; it is armed when
they are in. A token that verifies over the message of R644 counts as an approval, one that does not is counted as rejected; an approval of a
session counts once its quorum is reached. A change ends by an abort or when its time has run out; its set reads on as it was written (R16).
The model's choices it rests on: notes/assumptions/140.md. -/
def Obligations.ChangeControl : Prop :=
  let armed := fun (t : State) => t.change.state = if t.change.required &&& ~~~t.change.received = 0 then 2 else 1
  (∀ s o bs x f, (AsksWrite s o bs 0x7F00 1 x f ∧ x.part = none) →
    (∀ rs, parseSet f.data = some rs → setOk s none rs = true → Leads (.changeSet o bs) s fun t =>
      t.change.set = f.data ∧ t.change.digest = sha384 f.data ∧ t.change.required = requiredOf s true rs ∧ t.change.received = 0 ∧
      t.change.byParty = none ∧ armed t ∧ Accepted s t f) ∧
    (∀ rs, parseSet f.data = some rs → setOk s none rs = false → Leads (.changeSet o bs) s fun t =>
      t.change = s.change ∧ Answers s t f { status := 0x11 })) ∧
  (∀ s o bs x f, (AsksWrite s o bs 0x7F00 7 x f ∧ x.part = none ∧ s.change.state = 1) →
    let pub := slice f.data 0 96
    let good := sha384 pub = operatorKeyDigest s ∧ ((opKeyBlank s = false ∧ opKilled s = false) ∨
        ∃ r ∈ changeRecs s, isLcRequest r = true ∧ byteAt r.value 0 = 4) ∧
      ecdsaVerify pub (sha384 (tokenMessage s)) (slice f.data 96 96) = true
    Leads (.operatorToken o bs) s fun t =>
      (good → t.change.received = setBit s.change.received 0 true ∧ t.change.set = s.change.set ∧ armed t ∧ Accepted s t f) ∧
      (¬good → t.change = { s.change with rejected := satAdd s.change.rejected 1 } ∧ Answers s t f { status := 0x11 })) ∧
  (∀ s o bs x f, (AsksWrite s o bs 0x7F00 9 x f ∧ x.part = none ∧ s.change.state = 1) →
    let good := ecdsaVerify Config.medrielmRoot (sha384 (tokenMessage s)) (slice f.data 0 96) = true
    Leads (.medrielmToken o bs) s fun t =>
      (good → t.change.received = setBit s.change.received 5 true ∧ armed t ∧ Accepted s t f) ∧
      (¬good → t.change = { s.change with rejected := satAdd s.change.rejected 1 } ∧ Answers s t f { status := 0x11 })) ∧
  (∀ s o bs x f k, (AsksWrite s o bs 0x7F00 8 x f ∧ x.part = none ∧ s.change.state = 1 ∧ f.data.length = 104 ∧
      byteAt f.data 0 = BitVec.ofNat 8 (k : Pt).1 ∧ allZero (slice f.data 1 3) = true ∧ s.parts[k].conf = true) →
    let man := s.parts[k].session.manifest
    let i := (byteAt f.data 4).toNat
    let good := i < manParties man ∧ allZero (slice f.data 5 3) = true ∧
      ecdsaVerify (manKey man i) (sha384 (tokenMessage s)) (slice f.data 8 96) = true
    (k, byteAt f.data 4) ∉ s.change.approvers → Leads (.sessionApproval o bs) s fun t =>
      (good → t.change.approvers = s.change.approvers ++ [(k, byteAt f.data 4)] ∧
        t.change.received = (if manQuorum man ≤ (t.change.approvers.filter fun y => y.1 == k).length
          then setBit s.change.received (k.1 + 1) true else s.change.received) ∧ t.change.rejected = s.change.rejected ∧ Accepted s t f) ∧
      (¬good → t.change.approvers = s.change.approvers ∧ t.change.rejected = satAdd s.change.rejected 1 ∧ Answers s t f { status := 0x11 })) ∧
  (∀ s o bs x f, (AsksWrite s o bs 0x7F00 10 x f ∧ x.part = none) →
    (f.data = [1] → s.change.state ≠ 0 → Leads (.changeAbort o bs) s fun t =>
      t.change.state = 0 ∧ t.change.set = s.change.set ∧ t.change.received = 0 ∧ t.change.lastResult = 2 ∧ t.change.lastDigest = s.change.digest ∧
      t.change.commits = s.change.commits ∧ Accepted s t f) ∧
    (f.data = [1] → s.change.state = 0 → Leads (.changeAbort o bs) s fun t => t.change = s.change ∧ Answers s t f { status := 0x09 })) ∧
  (∀ s, s.change.state = 1 →
    Leads (.changeExpired false) s (fun t => t.change.state = 0 ∧ t.change.set = s.change.set ∧ t.change.lastResult = 3 ∧ t.change.lastDigest = s.change.digest) ∧
    exec (.changeExpired true) s = .next s)

/-- R516, R517, R620, R621: SPDM and the plain answers of the management port, for a module past stage 4. A connection goes through its stages in
order, each answered; algorithms that the device does not support are refused; the secure session opens for a key of a session's parties; END_SESSION ends the connection and the dictionary sessions that it carried. ARP and
ICMP echo are answered for the port's own address, and MCTP control assigns the endpoint ID.
The model's choices it rests on: notes/assumptions/68.md. -/
def Obligations.Management : Prop :=
  let at_ := fun (s : State) (m : SpdmMsg) (c : SpdmConn) => spdmUp s m = true ∧ connOf s m = some c
  let connNow := fun (t : State) (m : SpdmMsg) (c : SpdmConn) => ∃ x ∈ t.spdm, x = c ∧ x.conn = m.conn ∧ x.overUdp = m.overUdp
  let ended := fun (s t : State) (m : SpdmMsg) => t.dict.sessions = s.dict.sessions.filter fun (x : OdpSession) =>
    x.src != (if m.overUdp then OdpSrc.mgmtSpdm m.conn else .mctpSpdm m.conn)
  (∀ s m, spdmUp s m = true → Leads (.getVersion m) s fun t => ended s t m ∧
    connNow t m { conn := m.conn, overUdp := m.overUdp, addr := m.addr, stage := 1, requester := [], secure := false, updates := 0 }) ∧
  (∀ s m c, at_ s m c →
    (1 ≤ c.stage → Leads (.getCapabilities m) s fun t =>
      connNow t m { c with stage := max c.stage 2 } ∧ ∃ a, t.dict = { s.dict with out := s.dict.out ++ [a] }) ∧
    (2 ≤ c.stage → Leads (.negotiateAlgorithms m) s fun t => (∃ a, t.dict = { s.dict with out := s.dict.out ++ [a] }) ∧
      (if m.verdict then connNow t m { c with stage := max c.stage 3 } else t.spdm = s.spdm)) ∧
    (3 ≤ c.stage → Leads (.getDigests m) s (fun t => t.dict.out = s.dict.out ++ [sha384 (certChainOf s)] ∧ t.spdm = s.spdm) ∧
      Leads (.getCertificate m) s fun t => t.dict.out = s.dict.out ++ [certChainOf s] ∧ t.spdm = s.spdm) ∧
    (3 ≤ c.stage → entropyStopped s = false →
      Leads (.getMeasurements m) s (fun t => ∃ sig, t.dict.out = s.dict.out ++ [(measurementBlocks s c.requester).flatten ++ sig] ∧ t.spdm = s.spdm) ∧
      Leads (.keyExchange m) s fun t => ended s t m ∧ connNow t m { c with stage := 4, secure := false, requester := [] }) ∧
    (c.stage = 4 → m.verdict = true → isPartyKey s m.requester = true → Leads (.spdmFinish m) s fun t =>
      connNow t m { c with stage := 5, secure := true, requester := m.requester }) ∧
    (c.stage = 4 → (m.verdict = false ∨ isPartyKey s m.requester = false) → Leads (.spdmFinish m) s fun t => t = s) ∧
    (5 ≤ c.stage → m.verdict = true → Leads (.keyUpdate m) s fun t => connNow t m { c with updates := c.updates + 1 }) ∧
    (5 ≤ c.stage → Leads (.heartbeat m) s (fun t => t.spdm = s.spdm ∧ t.dict.out = s.dict.out ++ [[]]) ∧
      Leads (.endSession m) s fun t => connOf t m = none ∧ ended s t m)) ∧
  (∀ s target, odpUp s = true →
    (target = mgmtAddr s → Leads (.arp target) s (fun t => t.dict.out = s.dict.out ++ [readIdent s 16]) ∧
      ∀ data, Leads (.icmpEcho target data) s fun t => t.dict.out = s.dict.out ++ [data]) ∧
    (target ≠ mgmtAddr s → exec (.arp target) s = .next s ∧ ∀ data, exec (.icmpEcho target data) s = .next s)) ∧
  (∀ s eid, odpUp s = true → Leads (.mctpControl (some eid)) s fun t => t.dict.eid = some eid)

/-! ## Host registers and doorbells (spec/14_host_registers.md, and the registers of the other chapters) -/

/-- R655–R660, R17: the views. LOCK_KEY opens a block with its key and closes it with any other value. An alias sets, clears or
toggles the bits that are written 1, and GLB_EVENT is cleared by ones. R665, R723, R96, R177, R484, R488, R490, R424, R376, R377, R379, R358, R669,
R426, R499: what the registers then do.
The model's choices it rests on: notes/assumptions/71.md, notes/assumptions/136.md. -/
def Obligations.RegisterWrites : Prop :=
  let openAt := fun (s : State) (a : Mmio) (b : Block) (r : Nat) => HostWrites s a b 0 r ∧ unlockedOf s b = true
  (∀ s a b, (HostWrites s a b 0 0xFFF8 ∧ a.fn = 0 ∧ reaches s 0 b = true) → Leads (.lockKey a) s fun t =>
    unlockedOf t b = decide (fld a.data 31 0 = 0x6D644C4B)) ∧
  (∀ s a, HostWrites s a .glob 1 0x18 → Leads (.setAliasWrite a) s fun t => t.host.eventEn = s.host.eventEn ||| a.data.setWidth 10) ∧
  (∀ s a, HostWrites s a .glob 2 0x18 → Leads (.clearAliasWrite a) s fun t => t.host.eventEn = s.host.eventEn &&& ~~~(a.data.setWidth 10)) ∧
  (∀ s a, HostWrites s a .glob 3 0x18 → Leads (.toggleAliasWrite a) s fun t => t.host.eventEn = s.host.eventEn ^^^ a.data.setWidth 10) ∧
  (∀ s a, HostWrites s a .glob 0 0x18 → Leads (.registerWrite a) s fun t => t.host.eventEn = a.data.setWidth 10) ∧
  (∀ s a, (HostWrites s a .glob 0 0x10 ∧ s.waiters = [] ∧ ∀ c : Tc, s.clusters[c].jobs = []) → Leads (.registerWrite a) s fun t =>
    t.host.event = s.host.event &&& ~~~(a.data.setWidth 10)) ∧
  (∀ s a, openAt s a .glob 0x100 → let f := fld a.data 43 32
    Leads (.glbClkOverride a) s fun t => t.host.unlocked = false ∧
      t.host.clkNew = if anyConf s = true ∨ f < 1500 ∨ 2100 < f ∨ f % 25 ≠ 0 then s.host.clkNew
        else some (BitVec.ofNat 12 f, bit a.data 1, bit a.data 0)) ∧
  (∀ s a, openAt s a .glob 0x108 → let tc : BitVec 16 := a.data.setWidth 16
    let ld := BitVec.ofNat 2 (fld a.data 33 32)
    Leads (.scanStart a) s fun t => t.host.unlocked = false ∧ t.host.scanTc = tc ∧ t.host.scanLd = ld ∧
      (bit a.data 63 = true → s.test.state = 0 → testReason s tc ld = 0 → t.test.state = 1 ∧ t.test.tcTarget = tc ∧ t.test.ldTarget = ld ∧
        t.test.began = s.meridian.tick ∧ t.test.runs = satAdd s.test.runs 1) ∧
      ((bit a.data 63 = false ∨ s.test.state ≠ 0 ∨ testReason s tc ld ≠ 0) → t.test = s.test)) ∧
  (∀ s a (c : Tc), (openAt s a (.tc c) 0x8 ∧ (s.test.state ≠ 3 ∨ bit s.test.tcTarget c.1 = false)) → Leads (.tcFence a) s fun t =>
    t.clusters[c].unlocked = false ∧ t.clusters[c].fenced = bit a.data 0 ∧
    (s.clusters[c].fenced = false → bit a.data 0 = true → t.clusters[c].fenceCause = 1)) ∧
  (∀ s a (c : Tc), (openAt s a (.tc c) 0x10 ∧ ∀ k, s.clusters[c].part = some k → s.parts[k].conf = false) → Leads (.estFreeze a) s fun t =>
    t.clusters[c].unlocked = false ∧ t.clusters[c].frozen = bit a.data 0 ∧ t.clusters[c].est = s.clusters[c].est) ∧
  (∀ s a (p : Lp), openAt s a (.lp p) 0x8 →
    (bit a.data 0 = true → s.ports[p].state ≠ .fenced → Leads (.lpFence a) s fun t =>
      t.ports[p].state = .fenced ∧ t.ports[p].fence = true ∧ t.ports[p].fenceCause = 1) ∧
    (bit a.data 0 = false → s.ports[p].state = .fenced → Leads (.lpFence a) s fun t => t.ports[p].state = .down ∧ t.ports[p].fence = false) ∧
    (bit a.data 0 = false → bit a.data 1 = true → Leads (.retrain a) s fun t => t.ports[p].state = .down) ∧
    Leads (.laneFence a) s fun t => t.ports[p].opLanes = BitVec.ofNat 8 (fld a.data 15 8) ∧ t.ports[p].lanesFenced = s.ports[p].lanesFenced) ∧
  (∀ s a (p : Lp), (openAt s a (.lp p) 0x10 ∧ portConf s p = false) → Leads (.lpEqCtrl a) s fun t => t.ports[p].eqFreeze = bit a.data 0) ∧
  (∀ s a (h : Hb), (openAt s a (.mc h) 0x10 ∧ fld a.data 2 0 ≠ 7 ∧ ∀ k : Pt, s.parts[k].conf = true → bit s.parts[k].hbMask h.1 = false) →
    Leads (.mcScrub a) s fun t => t.hbs[h].scrub.freeze = bit a.data 3 ∧ t.hbs[h].scrub.levelSet.toNat = fld a.data 2 0 ∧
      t.hbs[h].scrub.level.toNat = if bit a.data 3 then fld a.data 2 0 else s.hbs[h].scrub.level.toNat) ∧
  (∀ s a (h : Hb), let x : Press := s.presses[hbBank h]
    openAt s a (.ps h) 0x10 →
    (bit a.data 0 = true → x.fenced = false → Leads (.prsFence a) s fun t =>
      if x.faulted = false ∧ (x.run.any fun r => decide (2 ≤ r.pass)) = true then t.presses[hbBank h].fenceReq = true ∧ t.presses[hbBank h].fenced = false
      else t.presses[hbBank h].fenced = true) ∧
    (bit a.data 0 = false → pressInUpdate s (hbBank h) = false → Leads (.prsFence a) s fun t =>
      t.presses[hbBank h].fenced = false ∧ t.presses[hbBank h].fenceReq = false) ∧
    (bit a.data 2 = true → x.faulted = true → Leads (.faultClear a) s fun t =>
      t.presses[hbBank h].faultClr = true ∧ t.presses[hbBank h].faulted = true)) ∧
  (∀ s a (k : Pt), (HostWrites s a (.pt k) 0 0x100 ∧ reaches s a.fn (.pt k) = true) → let v : W32 := a.data.setWidth 32
    ((f32 v).isFinite = true → 0 ≤ (f32 v).toRat → Leads (.stepSize a) s fun t => t.parts[k].step.eta = v ∧ t.parts[k].step.etaFresh = true) ∧
    (((f32 v).isFinite = false ∨ (f32 v).toRat < 0) → Leads (.stepSize a) s fun t =>
      t.parts[k].step.eta = s.parts[k].step.eta ∧ t.parts[k].step.etaFresh = s.parts[k].step.etaFresh)) ∧
  (∀ s a o, (hostUp s = true ∧ a.len = 8 ∧ a.off % 8 = 0 ∧ placeOf s a.fn a.bar a.off = .sync (8 * o) ∧ s.waiters = [] ∧
      ∀ c : Tc, s.clusters[c].jobs = []) →
    (syncClosed s o = false → Leads (.syncWindowSignal a) s fun t =>
      (syncGet t o).toNat = min ((syncGet s o).toNat + fld a.data 15 0) (2 ^ 32 - 1) ∧ ∀ x, x ≠ o → syncGet t x = syncGet s x) ∧
    (syncClosed s o = true → Leads (.syncWindowSignal a) s fun t => t.sync = s.sync)) ∧
  (∀ s a (h : Hb), (hostUp s = true ∧ a.len = 8 ∧ a.off % 8 = 0 ∧ a.hwSet = 0 ∧ hbPresent s h.1 = true ∧
      placeOf s a.fn a.bar a.off = .reg (.mc h) 0 0x8) → Leads (.mcEccCount a) s fun t =>
    t.host.readOut.toNat = s.hbs[h].ue.toNat * 2 ^ 32 + s.hbs[h].ce.toNat ∧ t.hbs[h].ue = 0 ∧ t.hbs[h].ce = 0) ∧
  (∀ s a (p : Lp), (hostUp s = true ∧ a.len = 8 ∧ a.off % 8 = 0 ∧ a.hwSet = 0 ∧ lpPresent s p.1 = true ∧
      placeOf s a.fn a.bar a.off = .reg (.lp p) 0 0x18) → Leads (.lpErrCount a) s fun t =>
    t.host.readOut.toNat = s.ports[p].tagFails.toNat * 2 ^ 48 + s.ports[p].protoStr.toNat * 2 ^ 32 + s.ports[p].crcRes.toNat ∧
    t.ports[p].tagFails = 0 ∧ t.ports[p].protoStr = 0 ∧ t.ports[p].crcRes = 0)

/-- R661: "After one write to any guarded register of the block, the block is locked again." R662: "A write to a guarded register of a locked
block changes nothing." Through any view, whatever the write does; the block's guarded registers then read as before, and the operator's
log holds the GUARD_REFUSED record. A write to another register but LOCK_KEY leaves every lock as it is. -/
def Obligations.GuardedRegisters : Prop :=
  (∀ s a b view r, (HostWrites s a b view r ∧ guarded b r = true) → Leads (.registerWrite a) s fun t =>
    unlockedOf t b = false ∧ ∀ b', b' ≠ b → unlockedOf t b' = unlockedOf s b') ∧
  (∀ s a b view r, (HostWrites s a b view r ∧ guarded b r = true ∧ unlockedOf s b = false) → Leads (.registerWrite a) s fun t =>
    (∀ b' r', guarded b' r' = true → readReg t a.fn b' r' = readReg s a.fn b' r') ∧ MemoriesKept s t ∧
    ∃ x ∈ t.log.recs, x.typ = 0x44 ∧ x.cluster.toNat = (blockCode b).1 ∧ x.unitId.toNat = (blockCode b).2 ∧ x.detail.toNat = r ∧
      x.tick = s.meridian.tick) ∧
  (∀ s a b view r, (HostWrites s a b view r ∧ guarded b r = false ∧ r ≠ 0xFFF8) → Leads (.registerWrite a) s fun t =>
    ∀ b', unlockedOf t b' = unlockedOf s b')

/-- R670–R677: queues as the host drives them. A doorbell writes TAIL below the ring size and ignores any other; RESUME ends a halt; FLUSH also
completes what the ring still holds; the completion head is taken over; enabling a queue resets its pointers. A completion entry has TAG, HEAD,
STATUS, the phase and the results, at the place of the completion tail.
The model's choices it rests on: notes/assumptions/4.md, notes/assumptions/136.md. -/
def Obligations.Doorbells : Prop :=
  let rings := fun (s : State) (a : Mmio) (q : QRef) (o : Nat) =>
    hostUp s = true ∧ accessOk a.off a.len = true ∧ placeOf s a.fn a.bar a.off = .bell q o ∧ bellLive s a.fn q = true
  (∀ s a q, (rings s a q 0 ∧ (a.len = 8 → bit a.data 63 = false ∧ bit a.data 62 = false)) → Leads (.doorbellTail a) s fun t =>
    (t.queue q).head = (s.queue q).head ∧
    (t.queue q).tail = (if fld a.data 15 0 < (s.queue q).size then BitVec.ofNat 16 (fld a.data 15 0) else (s.queue q).tail)) ∧
  (∀ s a k j, (rings s a (.data k j) 4 ∧ bit a.data 31 = true ∧ bit a.data 30 = false ∧ Quiet s k) → Leads (.resume a) s fun t =>
    t.parts[k].data[j].halted = false ∧ t.parts[k].data[j].head = s.parts[k].data[j].head ∧ t.parts[k].data[j].tail = s.parts[k].data[j].tail) ∧
  (∀ s a k j es, let u := s.parts[k].data[j]
    (rings s a (.data k j) 4 ∧ bit a.data 30 = true ∧ Quiet s k ∧ s.parts[k].conf = false ∧ u.halted = true ∧ u.log2.toNat ≤ 16 ∧ u.head.toNat < u.size ∧
      u.tail.toNat < u.size ∧ u.cqHead.toNat < u.size ∧ u.cqTail.toNat < u.size ∧ u.taken + u.waiting < u.size) → Leads (.flush a es) s fun t =>
    t.parts[k].data[j].halted = false ∧ t.parts[k].data[j].head = u.tail ∧ t.parts[k].data[j].tail = u.tail) ∧
  (∀ s a q, rings s a q 8 → Leads (.cqHeadDoorbell a) s fun t =>
    (t.queue q).cqHead = if fld a.data 15 0 < (s.queue q).size then BitVec.ofNat 16 (fld a.data 15 0) else (s.queue q).cqHead) ∧
  (∀ s a k r q, (HostWrites s a (.pt k) 0 r ∧ reaches s a.fn (.pt k) = true ∧ queueReg s k r = some (q, 0x10)) →
    let vec := fld a.data 26 16
    let log2 := fld a.data 44 40
    let fits := vec < (if a.fn.1 = 0 then 2032 else 32) ∧ 4 ≤ log2 ∧ log2 ≤ 16
    (fits → (s.queue q).enable = false → bit a.data 63 = true → Quiet s k → Leads (.qcfg a) s fun t =>
      let u := t.queue q
      u.enable = true ∧ u.head = 0 ∧ u.tail = 0 ∧ u.cqHead = 0 ∧ u.cqTail = 0 ∧ u.phase = true ∧ u.log2.toNat = log2 ∧ u.vector.toNat = vec) ∧
    (fits → bit a.data 63 = false → Leads (.qcfg a) s fun t => (t.queue q).enable = false ∧ (t.queue q).vector.toNat = vec) ∧
    (¬fits → Leads (.qcfg a) s fun t => (t.queue q).enable = (s.queue q).enable ∧ (t.queue q).log2 = (s.queue q).log2 ∧
      (t.queue q).vector = (s.queue q).vector)) ∧
  (∀ s k j e, (Canonical s ∧ s.waiters = [] ∧ (∀ c : Tc, s.clusters[c].jobs = []) ∧ Takes s (.data k j) e 0x58 { w2 := 0xFFFF3FFF } ∧
      fld e.w2 31 16 ≠ 0 ∧ fld e.w0 40 25 = 0 ∧ s.parts[k].conf = false) → Leads (.signal (.queue k j e)) s fun t =>
    let u := s.parts[k].data[j]
    t.host.hostMem.readBytes (u.cbase.toNat / 4096 * 4096 + 32 * u.cqTail.toNat) 32 =
      leBytes 2 (fld e.w0 15 0) ++ leBytes 2 ((u.head.toNat + 1) % u.size) ++ [0, if u.phase then 1 else 0] ++ List.replicate 26 0 ∧
    t.parts[k].data[j].cqTail.toNat = (u.cqTail.toNat + 1) % u.size % 2 ^ 16)

/-! ## Field tests, power, reset and the pins (spec/12, spec/15, spec/16, spec/17) -/

/-- R719–R730: a field test. Requests are refused with a record or accepted; once every partition that it touches has drained, the targets
are tested with their ports and scratchpads given up; a drain that takes too long ends the request; the results are recorded, what failed is
fenced, and the targets stand as at creation. An abort keeps the verdicts of what has been tested, and reports every other target as aborted.
The model's choices it rests on: notes/assumptions/64.md, notes/assumptions/137.md. -/
def Obligations.FieldTests : Prop :=
  (∀ s o bs x f ok, (AsksWrite s o bs 0x7100 1 x f ∧ x.part = none ∧ (byteAt f.data 2).toNat < 4 ∧ byteAt f.data 3 = 0) →
    let tc := BitVec.ofNat 16 (numAt f.data 0 2)
    let ld := BitVec.ofNat 2 (byteAt f.data 2).toNat
    let reason := testReason { s with test := { s.test with contentOk := ok } } tc ld
    (reason = 0 → Leads (.testRequest o bs ok) s fun t => t.test.state = 1 ∧ t.test.tcTarget = tc ∧ t.test.ldTarget = ld ∧
      t.test.began = s.meridian.tick ∧ t.test.runs = satAdd s.test.runs 1 ∧ Accepted s t f) ∧
    (reason ≠ 0 → Leads (.testRequest o bs ok) s fun t => t.test.state = s.test.state ∧ Answers s t f { status := 0x09 })) ∧
  (∀ s, drainDone s = true → Leads .testDrained s fun t => t.test.state = 3 ∧
    (s.test.ldTarget = 0 → ∀ c : Tc, t.clusters[c].spad = if bit s.test.tcTarget c.1 then [] else s.clusters[c].spad) ∧
    (∀ p : Lp, bit s.test.ldTarget (p.1 / 9) = true → s.ports[p].state ≠ .fenced → t.ports[p].state = .down) ∧
    (∀ p : Cp, bit s.test.ldTarget (p.1 / 2) = true → bit t.cellar.cpUp p.1 = false)) ∧
  (∀ s, (s.test.state = 1 ∧ s.test.began.toNat + s.test.drainLimit.toNat ≤ s.meridian.tick.toNat ∧ drainDone s = false) →
    Leads .drainTimeout s fun t => t.test.state = 0 ∧ t.test.drained = 0 ∧ t.parts = s.parts) ∧
  (∀ s tcPass ldPass, s.test.state = 3 → Leads (.testComplete tcPass ldPass) s fun t => t.test.state = 4 ∧ t.test.tick = s.meridian.tick ∧
    ∀ c : Tc, bit s.test.tcTarget c.1 = true →
      fld t.test.tcResult (2 * c.1 + 1) (2 * c.1) = (if bit tcPass c.1 then 1 else 2) ∧
      t.clusters[c].fenced = (s.clusters[c].fenced || !bit tcPass c.1) ∧ t.clusters[c].spad = [] ∧ t.clusters[c].tiles = [] ∧
      t.clusters[c].est = [] ∧ t.clusters[c].suspect = false) ∧
  (∀ s o bs x f, (AsksWrite s o bs 0x7100 2 x f ∧ x.part = none ∧ f.data = [1] ∧ s.test.state ≠ 0 ∧ s.test.state ≠ 4) →
    ∀ y : TestedIn, Leads (.testAbort o ⟨bs, y⟩) s fun t => t.test.state = 4 ∧ ((s.test.state ≠ 3 ∨ y.n = 0) → t.test.failed = s.test.failed) ∧
      (∀ c : Tc, bit s.test.tcTarget c.1 = true → fld t.test.tcResult (2 * c.1 + 1) (2 * c.1) =
        (if s.test.state = 3 ∧ c ∈ (testClusters s).take y.n then (if bit y.tcPass c.1 then 1 else 2) else 3)) ∧ Accepted s t f)

/-- R575, R590–R603, R685–R703, R741–R746: power, clocks and start-up. A fault or a trip of the rails
loses every volatile state of the main rails and leaves the fuses; start-up without a pending transition loads the firmware that the state accepts and
brings the rails up; reset keeps the cells of the memories and the flash; its release runs the stages to 8.
The model's choices it rests on: notes/assumptions/63.md, notes/assumptions/133.md, notes/assumptions/138.md, notes/assumptions/155.md. -/
def Obligations.PowerAndStart : Prop :=
  let gone := fun (s t : State) => t.power.rails = false ∧ t.power.pwrgd = false ∧ t.pins.perst = true ∧ t.meridian.tick = 0 ∧ t.cellar.mem = [] ∧
    (∀ h : Hb, t.hbs[h].mem = []) ∧ (∀ k : Pt, t.parts[k].state = 0) ∧ t.sc.otp = s.sc.otp ∧ t.sc.flash = s.sc.flash
  (∀ s v a w, Leads (.inputSample v a w) s fun t =>
    let tdp : Rat := (tdpWatts s.full).toNat
    t.power.excessUs = (if tdp < reading w then s.power.excessUs + 10 else 0) ∧
    t.power.limiter = (if (excursionWatts s.full : Rat) < reading w ∨ 900 ≤ t.power.excessUs then true
      else if reading w ≤ tdp then false else s.power.limiter) ∧ t.power.mhz = s.power.mhz ∧ MemoriesKept s t) ∧
  (∀ s, Leads .droopStretch s fun t => t.power = { s.power with droop := true }) ∧
  (∀ s delivered above, (s.power.droop = true ∧ 64 ≤ delivered ∧ 16 ≤ above) → Leads (.droopRestore delivered above) s fun t => t.power.droop = false ∧
    t.power.stretch = satAdd s.power.stretch (if s.power.limiter then 0 else delivered)) ∧
  (∀ s cause, s.power.rails = true → Leads (.powerFault cause) s fun t => gone s t ∧
    t.power.lastOff = (match cause with | .undervoltage => 1 | .overvoltage => 2 | .regulator => 3) ∧ t.power.thermtrip = s.power.thermtrip) ∧
  (∀ s, s.power.rails = true → Leads .thermalTrip s fun t => gone s t ∧ t.power.lastOff = 4 ∧ t.power.thermtrip = true ∧
    t.power.trips = satAdd s.power.trips 1) ∧
  (∀ s, (s.power.wantRails = true ∧ s.power.perstSeen = true) →
    (s.sc.recovery = true → Leads (.railRestart true) s fun t => t.power.rails = true ∧ t.power.thermtrip = false ∧ t.sc.recovery = true) ∧
    (∀ b x, s.sc.recovery = false → pendingLc s.sc.otp = none → s.sc.lc ≠ 7 →
      pickCopy s.sc.lc.toNat (svnOf s.sc.otp.svnDfw) s.sc.flash.dfwA s.sc.flash.dfwB = some (b, x) → Leads (.railRestart true) s fun t =>
        t.power.rails = true ∧ t.sc.stage = 3 ∧ t.sc.dfwDigest = x.digest ∧ t.sc.dfwCopyB = b ∧ t.sc.otp = s.sc.otp) ∧
    exec (.railRestart false) s = .next s) ∧
  (∀ s, (s.power.refLost = false ∧ s.pins.perst = false) → Leads .refclkLost s fun t => t.power.refLost = true ∧ t.cellar.cpUp = 0 ∧
    (∀ p : Lp, lpPresent s p.1 = true → s.ports[p].state ≠ .fenced → t.ports[p].state = .down) ∧
    ∀ k : Pt, s.parts[k].live = true → ∀ j : Fin 16, j.1 < s.parts[k].dataQueues.toNat → t.parts[k].data[j].halted = true) ∧
  (∀ s, isLodestar s = true → (s.links.timeRef ≠ 0 → Leads .timerefLost s fun t => t.links = { s.links with timeRef := 0 }) ∧
    ∀ pps, Leads (.timerefRestored pps) s fun t => t.links = { s.links with timeRef := if pps then 2 else 1 }) ∧
  (∀ s b, (s.sc.stage = 0 ∧ s.power.rails = false ∧ s.power.wantRails = false ∧ s.sc.restart = false ∧ b.cut = none ∧ pendingLc s.sc.otp = none) →
    let d := decodeLc s.sc.otp
    let f := s.sc.flash
    (∀ cs xs cd xd, d ≠ 0 → d ≠ 7 → pickCopy (if d = 1 ∨ d = 2 then d else 3) (svnOf s.sc.otp.svnSfw) f.sfwA f.sfwB = some (cs, xs) →
      pickCopy d (svnOf s.sc.otp.svnDfw) f.dfwA f.dfwB = some (cd, xd) → Leads (.standbyPowerUp b) s fun t =>
        t.sc.stage = 3 ∧ t.sc.lc.toNat = d ∧ t.power.rails = true ∧ t.power.pwrgd = b.lref ∧ t.links.deviceId = b.strapId ∧
        t.sc.sfwDigest = xs.digest ∧ t.sc.dfwDigest = xd.digest ∧ t.sc.recovery = s.sc.recovery ∧ t.sc.otp = s.sc.otp) ∧
    ((d = 0 ∨ d = 7) → Leads (.standbyPowerUp b) s fun t => t.power.rails = false ∧ t.sc.lc.toNat = d ∧ t.sc.otp = s.sc.otp)) ∧
  (∀ s, Leads .standbyPowerLoss s fun t => gone s t ∧ t.sc.stage = 0 ∧ t.sc.keys = Keys.reset ∧ t.pins.jtagIr = 1) ∧
  (∀ s, Leads .perstNAssert s fun t => t.pins.perst = true ∧ t.meridian.tick = 0 ∧ t.power.rails = s.power.rails ∧ t.sc.otp = s.sc.otp ∧
    t.sc.flash = s.sc.flash ∧ t.cellar.mem = s.cellar.mem ∧ (∀ h : Hb, t.hbs[h].mem = s.hbs[h].mem) ∧ (∀ k : Pt, t.parts[k].state = 0) ∧
    (∀ c : Tc, t.clusters[c].spad = []) ∧ t.sync = []) ∧
  (∀ s b, (s.pins.perst = true ∧ s.pins.extest = false) →
    (s.power.pwrgd = true → s.sc.recovery = false → Leads (.perstNRelease b) s fun t => t.pins.perst = false ∧ t.sc.stage = 8 ∧
      (∀ h : Hb, hbPresent s h.1 = true → (bit b.stacksTrained h.1 = true → t.hbs[h].trained = true) ∧
        (bit b.stacksTrained h.1 = false → t.hbs[h].fenced = true)) ∧
      t.cellar.up = (b.cellarOk && (firmwarePort b.cpTrained).isSome) ∧
      t.cellar.cpUp = (if b.cellarOk = true ∧ (firmwarePort b.cpTrained).isSome = true then b.cpTrained else 0)) ∧
    (s.power.pwrgd = true → s.sc.recovery = true → Leads (.perstNRelease b) s fun t => t.pins.perst = false ∧ t.sc.stage = s.sc.stage) ∧
    (s.power.pwrgd = false → Leads (.perstNRelease b) s fun t => t.pins.perst = true ∧ t.power.perstSeen = (s.power.perstSeen || s.power.wantRails))) ∧
  (∀ s, (s.power.rails = true ∧ s.power.pwrgd = false) → Leads .lrefPresent s fun t => t.power = { s.power with lref := true, pwrgd := true }) ∧
  (∀ s, s.sc.esState = 0 → Leads .entropyTestFail s fun t => t.sc.esFails = s.sc.esFails + 1 ∧
    t.sc.esState = if 3 ≤ s.sc.esFails + 1 then 2 else 1) ∧
  (∀ s, Leads .entropyRestart s fun t => t.sc.esState = if s.sc.esState = 1 then 0 else s.sc.esState)

/-- R559, R747–R752: the tick pin latches the tick and the offset of an edge while its input is enabled; TDISP assigns a virtual function; the
test access port selects its registers, and EXTEST holds the module in reset, in the life-cycle states that permit it.
The model's choices it rests on: notes/assumptions/55.md. -/
def Obligations.PinsAndTap : Prop :=
  (∀ s grains withBoundary, (s.pins.perst = false ∧ bit s.pins.tickMode 1 = true) → Leads (.tickIoEdge grains withBoundary false) s (fun t =>
      t.pins = { s.pins with capTick := s.meridian.tick, capOffset := BitVec.ofNat 32 (if withBoundary then 0 else 800 * grains),
                             capCount := s.pins.capCount + 1 }) ∧
    exec (.tickIoEdge grains withBoundary true) s = .next s) ∧
  (∀ s, let ir := fun (t : State) (code : Byte) (dr : W32) =>
      t.pins = { s.pins with jtagIr := code, jtagDr := dr, extest := false, boundary := t.pins.boundary }
    Leads .idcode s (fun t => ir t 0x01 (idcodeWord s)) ∧ Leads .testLogicReset s (fun t => ir t 0x01 (idcodeWord s)) ∧
    Leads .bypass s (fun t => ir t 0xFF 0) ∧
    (∀ bs, Leads (.samplePreload bs) s fun t => ir t (if boundaryAllowed s then 0x02 else 0xFF) 0 ∧
      t.pins.boundary = if boundaryAllowed s then bs else s.pins.boundary) ∧
    (∀ code, Leads (.medrielmTest code) s fun t =>
      ir t (if 0x10 ≤ code.toNat ∧ code.toNat ≤ 0xFE ∧ medrielmAllowed s = true then code else 0xFF) 0) ∧
    (boundaryAllowed s = true → Leads .extest s fun t => t.pins.jtagIr = 0x03 ∧ t.pins.extest = true ∧ (s.pins.extest = false → t.pins.perst = true)) ∧
    (boundaryAllowed s = false → Leads .extest s fun t => ir t 0xFF 0)) ∧
  (∀ s k yes, s.parts[k].live = true → Leads (.tdispAssign k yes) s fun t => t.parts[k] = { s.parts[k] with vfAssigned := yes } ∧
    ∀ j, j ≠ k → t.parts[j] = s.parts[j])
end

