-- ==== Sys2Proof/Laws/State.lean ====
section
/-! SUPPORT. What each update of one unit leaves, field by field, so that no proof unfolds a record update; and reading a unit after
units have changed. -/

namespace Sys2Proof.Machine

open Sys2Proof

/-! ## Units of a vector -/

/-- Unit j after unit i has changed. -/
theorem vmod_get {α : Type} {n : Nat} (v : Vector α n) (i j : Fin n) (f : α → α) :
    (vmod v i f)[j] = if i = j then f v[j] else v[j] := by
  have h : (vmod v i f)[j] = (v.set i.1 (f v[i.1]) i.2)[j.1] := rfl
  rw [h, Vector.getElem_set]
  by_cases hij : i = j
  · subst hij; simp
  · have : i.1 ≠ j.1 := fun h => hij (Fin.ext h)
    simp [hij, this]

/-- The same in the form that simp gives the index. -/
@[simp] theorem vmod_get_val {α : Type} {n : Nat} (v : Vector α n) (i j : Fin n) (f : α → α) :
    (vmod v i f)[j.1] = if i = j then f v[j.1] else v[j.1] := vmod_get v i j f

/-- The unit that has changed. -/
theorem vmod_get_self {α : Type} {n : Nat} (v : Vector α n) (i : Fin n) (f : α → α) : (vmod v i f)[i] = f v[i] := by
  rw [vmod_get]; simp

/-- Every other unit is what it was. -/
theorem vmod_get_other {α : Type} {n : Nat} (v : Vector α n) (i j : Fin n) (f : α → α) (h : i ≠ j) : (vmod v i f)[j] = v[j] := by
  rw [vmod_get]; simp [h]

/-- Unit j after every unit has changed. -/
theorem vmap_get {α : Type} {n : Nat} (v : Vector α n) (j : Fin n) (f : α → α) : (vmap v f)[j] = f v[j] := by
  have h : (vmap v f)[j] = (v.map f)[j.1] := rfl
  rw [h, Vector.getElem_map]
  rfl

@[simp] theorem vmap_get_val {α : Type} {n : Nat} (v : Vector α n) (j : Fin n) (f : α → α) : (vmap v f)[j.1] = f v[j.1] := vmap_get v j f

/-! ## modPart -/

@[simp] theorem State.modPart_pending (s : State) (k : Pt) (f : Partition → Partition) : (s.modPart k f).pending = s.pending := rfl
@[simp] theorem State.modPart_full (s : State) (k : Pt) (f : Partition → Partition) : (s.modPart k f).full = s.full := rfl
@[simp] theorem State.modPart_fresh (s : State) (k : Pt) (f : Partition → Partition) : (s.modPart k f).fresh = s.fresh := rfl
@[simp] theorem State.modPart_nextId (s : State) (k : Pt) (f : Partition → Partition) : (s.modPart k f).nextId = s.nextId := rfl
@[simp] theorem State.modPart_meridian (s : State) (k : Pt) (f : Partition → Partition) : (s.modPart k f).meridian = s.meridian := rfl
@[simp] theorem State.modPart_tiers (s : State) (k : Pt) (f : Partition → Partition) : (s.modPart k f).tiers = s.tiers := rfl
@[simp] theorem State.modPart_sync (s : State) (k : Pt) (f : Partition → Partition) : (s.modPart k f).sync = s.sync := rfl
@[simp] theorem State.modPart_waiters (s : State) (k : Pt) (f : Partition → Partition) : (s.modPart k f).waiters = s.waiters := rfl
@[simp] theorem State.modPart_seqs (s : State) (k : Pt) (f : Partition → Partition) : (s.modPart k f).seqs = s.seqs := rfl
@[simp] theorem State.modPart_clusters (s : State) (k : Pt) (f : Partition → Partition) : (s.modPart k f).clusters = s.clusters := rfl
@[simp] theorem State.modPart_parts (s : State) (k : Pt) (f : Partition → Partition) : (s.modPart k f).parts = vmod s.parts k f := rfl
@[simp] theorem State.modPart_pools (s : State) (k : Pt) (f : Partition → Partition) : (s.modPart k f).pools = s.pools := rfl
@[simp] theorem State.modPart_noc (s : State) (k : Pt) (f : Partition → Partition) : (s.modPart k f).noc = s.noc := rfl
@[simp] theorem State.modPart_presses (s : State) (k : Pt) (f : Partition → Partition) : (s.modPart k f).presses = s.presses := rfl
@[simp] theorem State.modPart_hbs (s : State) (k : Pt) (f : Partition → Partition) : (s.modPart k f).hbs = s.hbs := rfl
@[simp] theorem State.modPart_cellar (s : State) (k : Pt) (f : Partition → Partition) : (s.modPart k f).cellar = s.cellar := rfl
@[simp] theorem State.modPart_reqs (s : State) (k : Pt) (f : Partition → Partition) : (s.modPart k f).reqs = s.reqs := rfl
@[simp] theorem State.modPart_ports (s : State) (k : Pt) (f : Partition → Partition) : (s.modPart k f).ports = s.ports := rfl
@[simp] theorem State.modPart_links (s : State) (k : Pt) (f : Partition → Partition) : (s.modPart k f).links = s.links := rfl
@[simp] theorem State.modPart_sc (s : State) (k : Pt) (f : Partition → Partition) : (s.modPart k f).sc = s.sc := rfl
@[simp] theorem State.modPart_dict (s : State) (k : Pt) (f : Partition → Partition) : (s.modPart k f).dict = s.dict := rfl
@[simp] theorem State.modPart_change (s : State) (k : Pt) (f : Partition → Partition) : (s.modPart k f).change = s.change := rfl
@[simp] theorem State.modPart_spdm (s : State) (k : Pt) (f : Partition → Partition) : (s.modPart k f).spdm = s.spdm := rfl
@[simp] theorem State.modPart_host (s : State) (k : Pt) (f : Partition → Partition) : (s.modPart k f).host = s.host := rfl
@[simp] theorem State.modPart_power (s : State) (k : Pt) (f : Partition → Partition) : (s.modPart k f).power = s.power := rfl
@[simp] theorem State.modPart_test (s : State) (k : Pt) (f : Partition → Partition) : (s.modPart k f).test = s.test := rfl
@[simp] theorem State.modPart_pins (s : State) (k : Pt) (f : Partition → Partition) : (s.modPart k f).pins = s.pins := rfl
@[simp] theorem State.modPart_log (s : State) (k : Pt) (f : Partition → Partition) : (s.modPart k f).log = s.log := rfl

/-! ## modCluster -/

@[simp] theorem State.modCluster_pending (s : State) (c : Tc) (f : Cluster → Cluster) : (s.modCluster c f).pending = s.pending := rfl
@[simp] theorem State.modCluster_full (s : State) (c : Tc) (f : Cluster → Cluster) : (s.modCluster c f).full = s.full := rfl
@[simp] theorem State.modCluster_fresh (s : State) (c : Tc) (f : Cluster → Cluster) : (s.modCluster c f).fresh = s.fresh := rfl
@[simp] theorem State.modCluster_nextId (s : State) (c : Tc) (f : Cluster → Cluster) : (s.modCluster c f).nextId = s.nextId := rfl
@[simp] theorem State.modCluster_meridian (s : State) (c : Tc) (f : Cluster → Cluster) : (s.modCluster c f).meridian = s.meridian := rfl
@[simp] theorem State.modCluster_tiers (s : State) (c : Tc) (f : Cluster → Cluster) : (s.modCluster c f).tiers = s.tiers := rfl
@[simp] theorem State.modCluster_sync (s : State) (c : Tc) (f : Cluster → Cluster) : (s.modCluster c f).sync = s.sync := rfl
@[simp] theorem State.modCluster_waiters (s : State) (c : Tc) (f : Cluster → Cluster) : (s.modCluster c f).waiters = s.waiters := rfl
@[simp] theorem State.modCluster_seqs (s : State) (c : Tc) (f : Cluster → Cluster) : (s.modCluster c f).seqs = s.seqs := rfl
@[simp] theorem State.modCluster_clusters (s : State) (c : Tc) (f : Cluster → Cluster) : (s.modCluster c f).clusters = vmod s.clusters c f := rfl
@[simp] theorem State.modCluster_parts (s : State) (c : Tc) (f : Cluster → Cluster) : (s.modCluster c f).parts = s.parts := rfl
@[simp] theorem State.modCluster_pools (s : State) (c : Tc) (f : Cluster → Cluster) : (s.modCluster c f).pools = s.pools := rfl
@[simp] theorem State.modCluster_noc (s : State) (c : Tc) (f : Cluster → Cluster) : (s.modCluster c f).noc = s.noc := rfl
@[simp] theorem State.modCluster_presses (s : State) (c : Tc) (f : Cluster → Cluster) : (s.modCluster c f).presses = s.presses := rfl
@[simp] theorem State.modCluster_hbs (s : State) (c : Tc) (f : Cluster → Cluster) : (s.modCluster c f).hbs = s.hbs := rfl
@[simp] theorem State.modCluster_cellar (s : State) (c : Tc) (f : Cluster → Cluster) : (s.modCluster c f).cellar = s.cellar := rfl
@[simp] theorem State.modCluster_reqs (s : State) (c : Tc) (f : Cluster → Cluster) : (s.modCluster c f).reqs = s.reqs := rfl
@[simp] theorem State.modCluster_ports (s : State) (c : Tc) (f : Cluster → Cluster) : (s.modCluster c f).ports = s.ports := rfl
@[simp] theorem State.modCluster_links (s : State) (c : Tc) (f : Cluster → Cluster) : (s.modCluster c f).links = s.links := rfl
@[simp] theorem State.modCluster_sc (s : State) (c : Tc) (f : Cluster → Cluster) : (s.modCluster c f).sc = s.sc := rfl
@[simp] theorem State.modCluster_dict (s : State) (c : Tc) (f : Cluster → Cluster) : (s.modCluster c f).dict = s.dict := rfl
@[simp] theorem State.modCluster_change (s : State) (c : Tc) (f : Cluster → Cluster) : (s.modCluster c f).change = s.change := rfl
@[simp] theorem State.modCluster_spdm (s : State) (c : Tc) (f : Cluster → Cluster) : (s.modCluster c f).spdm = s.spdm := rfl
@[simp] theorem State.modCluster_host (s : State) (c : Tc) (f : Cluster → Cluster) : (s.modCluster c f).host = s.host := rfl
@[simp] theorem State.modCluster_power (s : State) (c : Tc) (f : Cluster → Cluster) : (s.modCluster c f).power = s.power := rfl
@[simp] theorem State.modCluster_test (s : State) (c : Tc) (f : Cluster → Cluster) : (s.modCluster c f).test = s.test := rfl
@[simp] theorem State.modCluster_pins (s : State) (c : Tc) (f : Cluster → Cluster) : (s.modCluster c f).pins = s.pins := rfl
@[simp] theorem State.modCluster_log (s : State) (c : Tc) (f : Cluster → Cluster) : (s.modCluster c f).log = s.log := rfl

/-! ## modPress -/

@[simp] theorem State.modPress_pending (s : State) (p : Ps) (f : Press → Press) : (s.modPress p f).pending = s.pending := rfl
@[simp] theorem State.modPress_full (s : State) (p : Ps) (f : Press → Press) : (s.modPress p f).full = s.full := rfl
@[simp] theorem State.modPress_fresh (s : State) (p : Ps) (f : Press → Press) : (s.modPress p f).fresh = s.fresh := rfl
@[simp] theorem State.modPress_nextId (s : State) (p : Ps) (f : Press → Press) : (s.modPress p f).nextId = s.nextId := rfl
@[simp] theorem State.modPress_meridian (s : State) (p : Ps) (f : Press → Press) : (s.modPress p f).meridian = s.meridian := rfl
@[simp] theorem State.modPress_tiers (s : State) (p : Ps) (f : Press → Press) : (s.modPress p f).tiers = s.tiers := rfl
@[simp] theorem State.modPress_sync (s : State) (p : Ps) (f : Press → Press) : (s.modPress p f).sync = s.sync := rfl
@[simp] theorem State.modPress_waiters (s : State) (p : Ps) (f : Press → Press) : (s.modPress p f).waiters = s.waiters := rfl
@[simp] theorem State.modPress_seqs (s : State) (p : Ps) (f : Press → Press) : (s.modPress p f).seqs = s.seqs := rfl
@[simp] theorem State.modPress_clusters (s : State) (p : Ps) (f : Press → Press) : (s.modPress p f).clusters = s.clusters := rfl
@[simp] theorem State.modPress_parts (s : State) (p : Ps) (f : Press → Press) : (s.modPress p f).parts = s.parts := rfl
@[simp] theorem State.modPress_pools (s : State) (p : Ps) (f : Press → Press) : (s.modPress p f).pools = s.pools := rfl
@[simp] theorem State.modPress_noc (s : State) (p : Ps) (f : Press → Press) : (s.modPress p f).noc = s.noc := rfl
@[simp] theorem State.modPress_presses (s : State) (p : Ps) (f : Press → Press) : (s.modPress p f).presses = vmod s.presses p f := rfl
@[simp] theorem State.modPress_hbs (s : State) (p : Ps) (f : Press → Press) : (s.modPress p f).hbs = s.hbs := rfl
@[simp] theorem State.modPress_cellar (s : State) (p : Ps) (f : Press → Press) : (s.modPress p f).cellar = s.cellar := rfl
@[simp] theorem State.modPress_reqs (s : State) (p : Ps) (f : Press → Press) : (s.modPress p f).reqs = s.reqs := rfl
@[simp] theorem State.modPress_ports (s : State) (p : Ps) (f : Press → Press) : (s.modPress p f).ports = s.ports := rfl
@[simp] theorem State.modPress_links (s : State) (p : Ps) (f : Press → Press) : (s.modPress p f).links = s.links := rfl
@[simp] theorem State.modPress_sc (s : State) (p : Ps) (f : Press → Press) : (s.modPress p f).sc = s.sc := rfl
@[simp] theorem State.modPress_dict (s : State) (p : Ps) (f : Press → Press) : (s.modPress p f).dict = s.dict := rfl
@[simp] theorem State.modPress_change (s : State) (p : Ps) (f : Press → Press) : (s.modPress p f).change = s.change := rfl
@[simp] theorem State.modPress_spdm (s : State) (p : Ps) (f : Press → Press) : (s.modPress p f).spdm = s.spdm := rfl
@[simp] theorem State.modPress_host (s : State) (p : Ps) (f : Press → Press) : (s.modPress p f).host = s.host := rfl
@[simp] theorem State.modPress_power (s : State) (p : Ps) (f : Press → Press) : (s.modPress p f).power = s.power := rfl
@[simp] theorem State.modPress_test (s : State) (p : Ps) (f : Press → Press) : (s.modPress p f).test = s.test := rfl
@[simp] theorem State.modPress_pins (s : State) (p : Ps) (f : Press → Press) : (s.modPress p f).pins = s.pins := rfl
@[simp] theorem State.modPress_log (s : State) (p : Ps) (f : Press → Press) : (s.modPress p f).log = s.log := rfl

/-! ## modStack -/

@[simp] theorem State.modStack_pending (s : State) (h : Hb) (f : Stack → Stack) : (s.modStack h f).pending = s.pending := rfl
@[simp] theorem State.modStack_full (s : State) (h : Hb) (f : Stack → Stack) : (s.modStack h f).full = s.full := rfl
@[simp] theorem State.modStack_fresh (s : State) (h : Hb) (f : Stack → Stack) : (s.modStack h f).fresh = s.fresh := rfl
@[simp] theorem State.modStack_nextId (s : State) (h : Hb) (f : Stack → Stack) : (s.modStack h f).nextId = s.nextId := rfl
@[simp] theorem State.modStack_meridian (s : State) (h : Hb) (f : Stack → Stack) : (s.modStack h f).meridian = s.meridian := rfl
@[simp] theorem State.modStack_tiers (s : State) (h : Hb) (f : Stack → Stack) : (s.modStack h f).tiers = s.tiers := rfl
@[simp] theorem State.modStack_sync (s : State) (h : Hb) (f : Stack → Stack) : (s.modStack h f).sync = s.sync := rfl
@[simp] theorem State.modStack_waiters (s : State) (h : Hb) (f : Stack → Stack) : (s.modStack h f).waiters = s.waiters := rfl
@[simp] theorem State.modStack_seqs (s : State) (h : Hb) (f : Stack → Stack) : (s.modStack h f).seqs = s.seqs := rfl
@[simp] theorem State.modStack_clusters (s : State) (h : Hb) (f : Stack → Stack) : (s.modStack h f).clusters = s.clusters := rfl
@[simp] theorem State.modStack_parts (s : State) (h : Hb) (f : Stack → Stack) : (s.modStack h f).parts = s.parts := rfl
@[simp] theorem State.modStack_pools (s : State) (h : Hb) (f : Stack → Stack) : (s.modStack h f).pools = s.pools := rfl
@[simp] theorem State.modStack_noc (s : State) (h : Hb) (f : Stack → Stack) : (s.modStack h f).noc = s.noc := rfl
@[simp] theorem State.modStack_presses (s : State) (h : Hb) (f : Stack → Stack) : (s.modStack h f).presses = s.presses := rfl
@[simp] theorem State.modStack_hbs (s : State) (h : Hb) (f : Stack → Stack) : (s.modStack h f).hbs = vmod s.hbs h f := rfl
@[simp] theorem State.modStack_cellar (s : State) (h : Hb) (f : Stack → Stack) : (s.modStack h f).cellar = s.cellar := rfl
@[simp] theorem State.modStack_reqs (s : State) (h : Hb) (f : Stack → Stack) : (s.modStack h f).reqs = s.reqs := rfl
@[simp] theorem State.modStack_ports (s : State) (h : Hb) (f : Stack → Stack) : (s.modStack h f).ports = s.ports := rfl
@[simp] theorem State.modStack_links (s : State) (h : Hb) (f : Stack → Stack) : (s.modStack h f).links = s.links := rfl
@[simp] theorem State.modStack_sc (s : State) (h : Hb) (f : Stack → Stack) : (s.modStack h f).sc = s.sc := rfl
@[simp] theorem State.modStack_dict (s : State) (h : Hb) (f : Stack → Stack) : (s.modStack h f).dict = s.dict := rfl
@[simp] theorem State.modStack_change (s : State) (h : Hb) (f : Stack → Stack) : (s.modStack h f).change = s.change := rfl
@[simp] theorem State.modStack_spdm (s : State) (h : Hb) (f : Stack → Stack) : (s.modStack h f).spdm = s.spdm := rfl
@[simp] theorem State.modStack_host (s : State) (h : Hb) (f : Stack → Stack) : (s.modStack h f).host = s.host := rfl
@[simp] theorem State.modStack_power (s : State) (h : Hb) (f : Stack → Stack) : (s.modStack h f).power = s.power := rfl
@[simp] theorem State.modStack_test (s : State) (h : Hb) (f : Stack → Stack) : (s.modStack h f).test = s.test := rfl
@[simp] theorem State.modStack_pins (s : State) (h : Hb) (f : Stack → Stack) : (s.modStack h f).pins = s.pins := rfl
@[simp] theorem State.modStack_log (s : State) (h : Hb) (f : Stack → Stack) : (s.modStack h f).log = s.log := rfl

/-! ## modPort -/

@[simp] theorem State.modPort_pending (s : State) (p : Lp) (f : Port → Port) : (s.modPort p f).pending = s.pending := rfl
@[simp] theorem State.modPort_full (s : State) (p : Lp) (f : Port → Port) : (s.modPort p f).full = s.full := rfl
@[simp] theorem State.modPort_fresh (s : State) (p : Lp) (f : Port → Port) : (s.modPort p f).fresh = s.fresh := rfl
@[simp] theorem State.modPort_nextId (s : State) (p : Lp) (f : Port → Port) : (s.modPort p f).nextId = s.nextId := rfl
@[simp] theorem State.modPort_meridian (s : State) (p : Lp) (f : Port → Port) : (s.modPort p f).meridian = s.meridian := rfl
@[simp] theorem State.modPort_tiers (s : State) (p : Lp) (f : Port → Port) : (s.modPort p f).tiers = s.tiers := rfl
@[simp] theorem State.modPort_sync (s : State) (p : Lp) (f : Port → Port) : (s.modPort p f).sync = s.sync := rfl
@[simp] theorem State.modPort_waiters (s : State) (p : Lp) (f : Port → Port) : (s.modPort p f).waiters = s.waiters := rfl
@[simp] theorem State.modPort_seqs (s : State) (p : Lp) (f : Port → Port) : (s.modPort p f).seqs = s.seqs := rfl
@[simp] theorem State.modPort_clusters (s : State) (p : Lp) (f : Port → Port) : (s.modPort p f).clusters = s.clusters := rfl
@[simp] theorem State.modPort_parts (s : State) (p : Lp) (f : Port → Port) : (s.modPort p f).parts = s.parts := rfl
@[simp] theorem State.modPort_pools (s : State) (p : Lp) (f : Port → Port) : (s.modPort p f).pools = s.pools := rfl
@[simp] theorem State.modPort_noc (s : State) (p : Lp) (f : Port → Port) : (s.modPort p f).noc = s.noc := rfl
@[simp] theorem State.modPort_presses (s : State) (p : Lp) (f : Port → Port) : (s.modPort p f).presses = s.presses := rfl
@[simp] theorem State.modPort_hbs (s : State) (p : Lp) (f : Port → Port) : (s.modPort p f).hbs = s.hbs := rfl
@[simp] theorem State.modPort_cellar (s : State) (p : Lp) (f : Port → Port) : (s.modPort p f).cellar = s.cellar := rfl
@[simp] theorem State.modPort_reqs (s : State) (p : Lp) (f : Port → Port) : (s.modPort p f).reqs = s.reqs := rfl
@[simp] theorem State.modPort_ports (s : State) (p : Lp) (f : Port → Port) : (s.modPort p f).ports = vmod s.ports p f := rfl
@[simp] theorem State.modPort_links (s : State) (p : Lp) (f : Port → Port) : (s.modPort p f).links = s.links := rfl
@[simp] theorem State.modPort_sc (s : State) (p : Lp) (f : Port → Port) : (s.modPort p f).sc = s.sc := rfl
@[simp] theorem State.modPort_dict (s : State) (p : Lp) (f : Port → Port) : (s.modPort p f).dict = s.dict := rfl
@[simp] theorem State.modPort_change (s : State) (p : Lp) (f : Port → Port) : (s.modPort p f).change = s.change := rfl
@[simp] theorem State.modPort_spdm (s : State) (p : Lp) (f : Port → Port) : (s.modPort p f).spdm = s.spdm := rfl
@[simp] theorem State.modPort_host (s : State) (p : Lp) (f : Port → Port) : (s.modPort p f).host = s.host := rfl
@[simp] theorem State.modPort_power (s : State) (p : Lp) (f : Port → Port) : (s.modPort p f).power = s.power := rfl
@[simp] theorem State.modPort_test (s : State) (p : Lp) (f : Port → Port) : (s.modPort p f).test = s.test := rfl
@[simp] theorem State.modPort_pins (s : State) (p : Lp) (f : Port → Port) : (s.modPort p f).pins = s.pins := rfl
@[simp] theorem State.modPort_log (s : State) (p : Lp) (f : Port → Port) : (s.modPort p f).log = s.log := rfl

/-! ## modPool -/

@[simp] theorem State.modPool_pending (s : State) (k : Pt) (f : Pool → Pool) : (s.modPool k f).pending = s.pending := rfl
@[simp] theorem State.modPool_full (s : State) (k : Pt) (f : Pool → Pool) : (s.modPool k f).full = s.full := rfl
@[simp] theorem State.modPool_fresh (s : State) (k : Pt) (f : Pool → Pool) : (s.modPool k f).fresh = s.fresh := rfl
@[simp] theorem State.modPool_nextId (s : State) (k : Pt) (f : Pool → Pool) : (s.modPool k f).nextId = s.nextId := rfl
@[simp] theorem State.modPool_meridian (s : State) (k : Pt) (f : Pool → Pool) : (s.modPool k f).meridian = s.meridian := rfl
@[simp] theorem State.modPool_tiers (s : State) (k : Pt) (f : Pool → Pool) : (s.modPool k f).tiers = s.tiers := rfl
@[simp] theorem State.modPool_sync (s : State) (k : Pt) (f : Pool → Pool) : (s.modPool k f).sync = s.sync := rfl
@[simp] theorem State.modPool_waiters (s : State) (k : Pt) (f : Pool → Pool) : (s.modPool k f).waiters = s.waiters := rfl
@[simp] theorem State.modPool_seqs (s : State) (k : Pt) (f : Pool → Pool) : (s.modPool k f).seqs = s.seqs := rfl
@[simp] theorem State.modPool_clusters (s : State) (k : Pt) (f : Pool → Pool) : (s.modPool k f).clusters = s.clusters := rfl
@[simp] theorem State.modPool_parts (s : State) (k : Pt) (f : Pool → Pool) : (s.modPool k f).parts = s.parts := rfl
@[simp] theorem State.modPool_pools (s : State) (k : Pt) (f : Pool → Pool) : (s.modPool k f).pools = vmod s.pools k f := rfl
@[simp] theorem State.modPool_noc (s : State) (k : Pt) (f : Pool → Pool) : (s.modPool k f).noc = s.noc := rfl
@[simp] theorem State.modPool_presses (s : State) (k : Pt) (f : Pool → Pool) : (s.modPool k f).presses = s.presses := rfl
@[simp] theorem State.modPool_hbs (s : State) (k : Pt) (f : Pool → Pool) : (s.modPool k f).hbs = s.hbs := rfl
@[simp] theorem State.modPool_cellar (s : State) (k : Pt) (f : Pool → Pool) : (s.modPool k f).cellar = s.cellar := rfl
@[simp] theorem State.modPool_reqs (s : State) (k : Pt) (f : Pool → Pool) : (s.modPool k f).reqs = s.reqs := rfl
@[simp] theorem State.modPool_ports (s : State) (k : Pt) (f : Pool → Pool) : (s.modPool k f).ports = s.ports := rfl
@[simp] theorem State.modPool_links (s : State) (k : Pt) (f : Pool → Pool) : (s.modPool k f).links = s.links := rfl
@[simp] theorem State.modPool_sc (s : State) (k : Pt) (f : Pool → Pool) : (s.modPool k f).sc = s.sc := rfl
@[simp] theorem State.modPool_dict (s : State) (k : Pt) (f : Pool → Pool) : (s.modPool k f).dict = s.dict := rfl
@[simp] theorem State.modPool_change (s : State) (k : Pt) (f : Pool → Pool) : (s.modPool k f).change = s.change := rfl
@[simp] theorem State.modPool_spdm (s : State) (k : Pt) (f : Pool → Pool) : (s.modPool k f).spdm = s.spdm := rfl
@[simp] theorem State.modPool_host (s : State) (k : Pt) (f : Pool → Pool) : (s.modPool k f).host = s.host := rfl
@[simp] theorem State.modPool_power (s : State) (k : Pt) (f : Pool → Pool) : (s.modPool k f).power = s.power := rfl
@[simp] theorem State.modPool_test (s : State) (k : Pt) (f : Pool → Pool) : (s.modPool k f).test = s.test := rfl
@[simp] theorem State.modPool_pins (s : State) (k : Pt) (f : Pool → Pool) : (s.modPool k f).pins = s.pins := rfl
@[simp] theorem State.modPool_log (s : State) (k : Pt) (f : Pool → Pool) : (s.modPool k f).log = s.log := rfl

/-! ## count -/

@[simp] theorem State.count_pending (s : State) (k : Pt) (f : Counters → Counters) : (s.count k f).pending = s.pending := rfl
@[simp] theorem State.count_full (s : State) (k : Pt) (f : Counters → Counters) : (s.count k f).full = s.full := rfl
@[simp] theorem State.count_fresh (s : State) (k : Pt) (f : Counters → Counters) : (s.count k f).fresh = s.fresh := rfl
@[simp] theorem State.count_nextId (s : State) (k : Pt) (f : Counters → Counters) : (s.count k f).nextId = s.nextId := rfl
@[simp] theorem State.count_meridian (s : State) (k : Pt) (f : Counters → Counters) : (s.count k f).meridian = s.meridian := rfl
@[simp] theorem State.count_tiers (s : State) (k : Pt) (f : Counters → Counters) : (s.count k f).tiers = s.tiers := rfl
@[simp] theorem State.count_sync (s : State) (k : Pt) (f : Counters → Counters) : (s.count k f).sync = s.sync := rfl
@[simp] theorem State.count_waiters (s : State) (k : Pt) (f : Counters → Counters) : (s.count k f).waiters = s.waiters := rfl
@[simp] theorem State.count_seqs (s : State) (k : Pt) (f : Counters → Counters) : (s.count k f).seqs = s.seqs := rfl
@[simp] theorem State.count_clusters (s : State) (k : Pt) (f : Counters → Counters) : (s.count k f).clusters = s.clusters := rfl
@[simp] theorem State.count_parts (s : State) (k : Pt) (f : Counters → Counters) :
    (s.count k f).parts = vmod s.parts k fun p => { p with counters := f p.counters } := rfl
@[simp] theorem State.count_pools (s : State) (k : Pt) (f : Counters → Counters) : (s.count k f).pools = s.pools := rfl
@[simp] theorem State.count_noc (s : State) (k : Pt) (f : Counters → Counters) : (s.count k f).noc = s.noc := rfl
@[simp] theorem State.count_presses (s : State) (k : Pt) (f : Counters → Counters) : (s.count k f).presses = s.presses := rfl
@[simp] theorem State.count_hbs (s : State) (k : Pt) (f : Counters → Counters) : (s.count k f).hbs = s.hbs := rfl
@[simp] theorem State.count_cellar (s : State) (k : Pt) (f : Counters → Counters) : (s.count k f).cellar = s.cellar := rfl
@[simp] theorem State.count_reqs (s : State) (k : Pt) (f : Counters → Counters) : (s.count k f).reqs = s.reqs := rfl
@[simp] theorem State.count_ports (s : State) (k : Pt) (f : Counters → Counters) : (s.count k f).ports = s.ports := rfl
@[simp] theorem State.count_links (s : State) (k : Pt) (f : Counters → Counters) : (s.count k f).links = s.links := rfl
@[simp] theorem State.count_sc (s : State) (k : Pt) (f : Counters → Counters) : (s.count k f).sc = s.sc := rfl
@[simp] theorem State.count_dict (s : State) (k : Pt) (f : Counters → Counters) : (s.count k f).dict = s.dict := rfl
@[simp] theorem State.count_change (s : State) (k : Pt) (f : Counters → Counters) : (s.count k f).change = s.change := rfl
@[simp] theorem State.count_spdm (s : State) (k : Pt) (f : Counters → Counters) : (s.count k f).spdm = s.spdm := rfl
@[simp] theorem State.count_host (s : State) (k : Pt) (f : Counters → Counters) : (s.count k f).host = s.host := rfl
@[simp] theorem State.count_power (s : State) (k : Pt) (f : Counters → Counters) : (s.count k f).power = s.power := rfl
@[simp] theorem State.count_test (s : State) (k : Pt) (f : Counters → Counters) : (s.count k f).test = s.test := rfl
@[simp] theorem State.count_pins (s : State) (k : Pt) (f : Counters → Counters) : (s.count k f).pins = s.pins := rfl
@[simp] theorem State.count_log (s : State) (k : Pt) (f : Counters → Counters) : (s.count k f).log = s.log := rfl

/-! ## draw -/

@[simp] theorem State.draw_pending (s : State) (n : Nat) : (s.draw n).1.pending = s.pending := rfl
@[simp] theorem State.draw_full (s : State) (n : Nat) : (s.draw n).1.full = s.full := rfl
@[simp] theorem State.draw_fresh (s : State) (n : Nat) : (s.draw n).1.fresh = s.fresh + n := rfl
@[simp] theorem State.draw_nextId (s : State) (n : Nat) : (s.draw n).1.nextId = s.nextId := rfl
@[simp] theorem State.draw_meridian (s : State) (n : Nat) : (s.draw n).1.meridian = s.meridian := rfl
@[simp] theorem State.draw_tiers (s : State) (n : Nat) : (s.draw n).1.tiers = s.tiers := rfl
@[simp] theorem State.draw_sync (s : State) (n : Nat) : (s.draw n).1.sync = s.sync := rfl
@[simp] theorem State.draw_waiters (s : State) (n : Nat) : (s.draw n).1.waiters = s.waiters := rfl
@[simp] theorem State.draw_seqs (s : State) (n : Nat) : (s.draw n).1.seqs = s.seqs := rfl
@[simp] theorem State.draw_clusters (s : State) (n : Nat) : (s.draw n).1.clusters = s.clusters := rfl
@[simp] theorem State.draw_parts (s : State) (n : Nat) : (s.draw n).1.parts = s.parts := rfl
@[simp] theorem State.draw_pools (s : State) (n : Nat) : (s.draw n).1.pools = s.pools := rfl
@[simp] theorem State.draw_noc (s : State) (n : Nat) : (s.draw n).1.noc = s.noc := rfl
@[simp] theorem State.draw_presses (s : State) (n : Nat) : (s.draw n).1.presses = s.presses := rfl
@[simp] theorem State.draw_hbs (s : State) (n : Nat) : (s.draw n).1.hbs = s.hbs := rfl
@[simp] theorem State.draw_cellar (s : State) (n : Nat) : (s.draw n).1.cellar = s.cellar := rfl
@[simp] theorem State.draw_reqs (s : State) (n : Nat) : (s.draw n).1.reqs = s.reqs := rfl
@[simp] theorem State.draw_ports (s : State) (n : Nat) : (s.draw n).1.ports = s.ports := rfl
@[simp] theorem State.draw_links (s : State) (n : Nat) : (s.draw n).1.links = s.links := rfl
@[simp] theorem State.draw_sc (s : State) (n : Nat) : (s.draw n).1.sc = s.sc := rfl
@[simp] theorem State.draw_dict (s : State) (n : Nat) : (s.draw n).1.dict = s.dict := rfl
@[simp] theorem State.draw_change (s : State) (n : Nat) : (s.draw n).1.change = s.change := rfl
@[simp] theorem State.draw_spdm (s : State) (n : Nat) : (s.draw n).1.spdm = s.spdm := rfl
@[simp] theorem State.draw_host (s : State) (n : Nat) : (s.draw n).1.host = s.host := rfl
@[simp] theorem State.draw_power (s : State) (n : Nat) : (s.draw n).1.power = s.power := rfl
@[simp] theorem State.draw_test (s : State) (n : Nat) : (s.draw n).1.test = s.test := rfl
@[simp] theorem State.draw_pins (s : State) (n : Nat) : (s.draw n).1.pins = s.pins := rfl
@[simp] theorem State.draw_log (s : State) (n : Nat) : (s.draw n).1.log = s.log := rfl

/-- A draw gives as many bytes as were asked for. -/
@[simp] theorem State.draw_length (s : State) (n : Nat) : (s.draw n).2.length = n := by simp [State.draw]

/-! ## Sync objects -/

@[simp] theorem syncSet_pending (s : State) (o : Nat) (v : W32) : (syncSet s o v).pending = s.pending := rfl
@[simp] theorem syncSet_full (s : State) (o : Nat) (v : W32) : (syncSet s o v).full = s.full := rfl
@[simp] theorem syncSet_fresh (s : State) (o : Nat) (v : W32) : (syncSet s o v).fresh = s.fresh := rfl
@[simp] theorem syncSet_nextId (s : State) (o : Nat) (v : W32) : (syncSet s o v).nextId = s.nextId := rfl
@[simp] theorem syncSet_meridian (s : State) (o : Nat) (v : W32) : (syncSet s o v).meridian = s.meridian := rfl
@[simp] theorem syncSet_tiers (s : State) (o : Nat) (v : W32) : (syncSet s o v).tiers = s.tiers := rfl
@[simp] theorem syncSet_sync (s : State) (o : Nat) (v : W32) : (syncSet s o v).sync = Sparse.set (0 : W32) s.sync o v := rfl
@[simp] theorem syncSet_waiters (s : State) (o : Nat) (v : W32) : (syncSet s o v).waiters = s.waiters := rfl
@[simp] theorem syncSet_seqs (s : State) (o : Nat) (v : W32) : (syncSet s o v).seqs = s.seqs := rfl
@[simp] theorem syncSet_clusters (s : State) (o : Nat) (v : W32) : (syncSet s o v).clusters = s.clusters := rfl
@[simp] theorem syncSet_parts (s : State) (o : Nat) (v : W32) : (syncSet s o v).parts = s.parts := rfl
@[simp] theorem syncSet_pools (s : State) (o : Nat) (v : W32) : (syncSet s o v).pools = s.pools := rfl
@[simp] theorem syncSet_noc (s : State) (o : Nat) (v : W32) : (syncSet s o v).noc = s.noc := rfl
@[simp] theorem syncSet_presses (s : State) (o : Nat) (v : W32) : (syncSet s o v).presses = s.presses := rfl
@[simp] theorem syncSet_hbs (s : State) (o : Nat) (v : W32) : (syncSet s o v).hbs = s.hbs := rfl
@[simp] theorem syncSet_cellar (s : State) (o : Nat) (v : W32) : (syncSet s o v).cellar = s.cellar := rfl
@[simp] theorem syncSet_reqs (s : State) (o : Nat) (v : W32) : (syncSet s o v).reqs = s.reqs := rfl
@[simp] theorem syncSet_ports (s : State) (o : Nat) (v : W32) : (syncSet s o v).ports = s.ports := rfl
@[simp] theorem syncSet_links (s : State) (o : Nat) (v : W32) : (syncSet s o v).links = s.links := rfl
@[simp] theorem syncSet_sc (s : State) (o : Nat) (v : W32) : (syncSet s o v).sc = s.sc := rfl
@[simp] theorem syncSet_dict (s : State) (o : Nat) (v : W32) : (syncSet s o v).dict = s.dict := rfl
@[simp] theorem syncSet_change (s : State) (o : Nat) (v : W32) : (syncSet s o v).change = s.change := rfl
@[simp] theorem syncSet_spdm (s : State) (o : Nat) (v : W32) : (syncSet s o v).spdm = s.spdm := rfl
@[simp] theorem syncSet_host (s : State) (o : Nat) (v : W32) : (syncSet s o v).host = s.host := rfl
@[simp] theorem syncSet_power (s : State) (o : Nat) (v : W32) : (syncSet s o v).power = s.power := rfl
@[simp] theorem syncSet_test (s : State) (o : Nat) (v : W32) : (syncSet s o v).test = s.test := rfl
@[simp] theorem syncSet_pins (s : State) (o : Nat) (v : W32) : (syncSet s o v).pins = s.pins := rfl
@[simp] theorem syncSet_log (s : State) (o : Nat) (v : W32) : (syncSet s o v).log = s.log := rfl

end Sys2Proof.Machine
end

