-- ==== Sys2Proof/Laws/Frames.lean ====
section
/-! SUPPORT. What the shared operations leave alone: events and MSI-X vectors, logs, sync objects, completions, halts, waiters and
the streams of the clusters change nothing outside clusters, partitions, the host's side, the sync-object file, the operator's log
and the model's own counters. -/

namespace Sys2Proof.Machine

open Sys2Proof

/-- What events, completions, streams and waiters leave alone, from s to t. -/
@[simp] abbrev OutsideKept (s t : State) : Prop :=
  t.pending = s.pending ∧ t.full = s.full ∧ t.meridian = s.meridian ∧ t.tiers = s.tiers ∧ t.seqs = s.seqs ∧ t.pools = s.pools ∧
  t.noc = s.noc ∧ t.presses = s.presses ∧ t.hbs = s.hbs ∧ t.cellar = s.cellar ∧ t.ports = s.ports ∧ t.links = s.links ∧ t.sc = s.sc ∧ t.dict = s.dict ∧
  t.change = s.change ∧ t.spdm = s.spdm ∧ t.power = s.power ∧ t.test = s.test ∧ t.pins = s.pins

theorem OutsideKept.trans {s t u : State} (h : OutsideKept s t) (h' : OutsideKept t u) : OutsideKept s u := by
  obtain ⟨_, _⟩ := h; obtain ⟨_, _⟩ := h'; simp_all

@[simp] theorem frame_foldl {α : Type} (g : State → α → State) (l : List α) (s : State) (h : ∀ t x, OutsideKept t (g t x)) :
    OutsideKept s (l.foldl g s) := by
  induction l generalizing s with
  | nil => exact ⟨rfl, rfl, rfl, rfl, rfl, rfl, rfl, rfl, rfl, rfl, rfl, rfl, rfl, rfl, rfl, rfl, rfl, rfl, rfl⟩
  | cons a l ih => exact OutsideKept.trans (h s a) (ih (g s a))

/-! ## The shared operations -/

@[simp] theorem State.modPart_frame (s : State) (k : Pt) (f : Partition → Partition) : OutsideKept s (State.modPart s k f) := by
  simp [State.modPart]

@[simp] theorem State.modCluster_frame (s : State) (c : Tc) (f : Cluster → Cluster) : OutsideKept s (State.modCluster s c f) := by
  simp [State.modCluster]

@[simp] theorem State.count_frame (s : State) (k : Pt) (f : Counters → Counters) : OutsideKept s (State.count s k f) := by
  simp [State.count]

@[simp] theorem State.draw_frame (s : State) (n : Nat) : OutsideKept s (State.draw s n).1 := by
  simp [State.draw]

@[simp] theorem msixSet_frame (s : State) (fn : Fin 5) (v : Nat) (x : MsixVec) : OutsideKept s (msixSet s fn v x) := by
  unfold msixSet
  split <;> simp

@[simp] theorem msixSend_frame (s : State) (fn : Fin 5) (v : BitVec 11) : OutsideKept s (msixSend s fn v) := by
  unfold msixSend
  dsimp only
  split <;> simp

@[simp] theorem raiseGlb_frame (s : State) (b : Nat) : OutsideKept s (raiseGlb s b) := by
  unfold raiseGlb
  dsimp only
  split <;> simp

@[simp] theorem partVector_frame (s : State) (k : Pt) (vf : Bool) (v : BitVec 11) : OutsideKept s (partVector s k vf v) := by
  unfold partVector
  split <;> simp

@[simp] theorem raisePart_frame (s : State) (k : Pt) (b : Nat) : OutsideKept s (raisePart s k b) := by
  unfold raisePart
  dsimp only
  split <;> simp

@[simp] theorem raiseChanges_frame (s t : State) : OutsideKept t (raiseChanges s t) := by
  unfold raiseChanges
  dsimp only
  (repeat' split) <;> simp

@[simp] theorem logPart_frame (s : State) (k : Pt) (r : LogRec) : OutsideKept s (logPart s k r) := by
  simp [logPart]

@[simp] theorem notePart_frame (s : State) (k : Pt) (typ cluster unitId detail : Nat) : OutsideKept s (notePart s k typ cluster unitId detail) := by
  simp [notePart]

@[simp] theorem noteOp_frame (s : State) (typ cluster unitId detail : Nat) : OutsideKept s (noteOp s typ cluster unitId detail) := by
  simp [noteOp]

@[simp] theorem noteFence_frame (s : State) (cls unit cause : Nat) (set : Bool) (serves : List Pt) : OutsideKept s (noteFence s cls unit cause set serves) := by
  unfold noteFence
  dsimp only
  split <;> simp

@[simp] theorem syncSet_frame (s : State) (o : Nat) (v : W32) : OutsideKept s (syncSet s o v) := by
  simp [syncSet]

@[simp] theorem addSync_frame (s : State) (part : Option Pt) (o n : Nat) : OutsideKept s (addSync s part o n) := by
  unfold addSync
  dsimp only
  (repeat' split) <;> simp

@[simp] theorem syncDrop_frame (s : State) (k : Pt) (cluster : Nat) (o : Nat) : OutsideKept s (syncDrop s k cluster o) := by
  simp [syncDrop]

@[simp] theorem signalSync_frame (s : State) (part : Option Pt) (cluster : Nat) (o n : Nat) : OutsideKept s (signalSync s part cluster o n) := by
  unfold signalSync
  (repeat' split) <;> simp

@[simp] theorem State.modQueue_frame (s : State) (q : QRef) (f : Queue → Queue) : OutsideKept s (State.modQueue s q f) := by
  unfold State.modQueue
  split <;> simp

@[simp] theorem fetchEntry_frame (s : State) (q : QRef) : OutsideKept s (fetchEntry s q) := by
  simp [fetchEntry]

@[simp] theorem writeCompletion_frame (s : State) (q : QRef) (c : Completion) : OutsideKept s (writeCompletion s q c) := by
  unfold writeCompletion
  split <;> simp

@[simp] theorem postCompletion_frame (s : State) (q : QRef) (c : Completion) : OutsideKept s (postCompletion s q c) := by
  unfold postCompletion
  (repeat' split) <;> simp

@[simp] theorem completionSignal_frame (s : State) (q : QRef) (e : Entry) (st : Nat) : OutsideKept s (completionSignal s q e st) := by
  unfold completionSignal
  dsimp only
  (repeat' split) <;> simp

@[simp] theorem haltQueue_frame (s : State) (k : Pt) (j : Fin 16) (st : Nat) : OutsideKept s (haltQueue s k j st) := by
  unfold haltQueue
  split <;> simp

@[simp] theorem endCmd_frame (s : State) (p : Pending) (st : Nat) (r0 r1 r2 : Nat) : OutsideKept s (endCmd s p st r0 r1 r2) := by
  unfold endCmd
  (repeat' split) <;> simp

@[simp] theorem dropPending_frame (s : State) (p : Pending) : OutsideKept s (dropPending s p) := by
  unfold dropPending
  split <;> simp

@[simp] theorem endPending_frame (s : State) (p : Pending) (st : Nat) (r0 r1 r2 : Nat) : OutsideKept s (endPending s p st r0 r1 r2) := by
  simp [endPending]

@[simp] theorem addPending_frame (s : State) (p : Pending) : OutsideKept s (addPending s p) := by
  unfold addPending
  split <;> simp

@[simp] theorem setWait_frame (s : State) (p : Pending) (w : Wait) : OutsideKept s (setWait s p w) := by
  unfold setWait
  split <;> simp

@[simp] theorem streamDone_frame (s : State) (k : Pt) (id : Nat) (c : Tc) : OutsideKept s (streamDone s k id c) := by
  unfold streamDone
  dsimp only
  (repeat' split) <;> simp

@[simp] theorem modJob_frame (s : State) (c : Tc) (id : Nat) (f : SqJob → SqJob) : OutsideKept s (modJob s c id f) := by
  simp [modJob]

@[simp] theorem endRun_frame (s : State) (c : Tc) (id : Nat) : OutsideKept s (endRun s c id) := by
  unfold endRun
  (repeat' split) <;> simp

@[simp] theorem sqIssued_frame (s : State) (c : Tc) (id : Nat) : OutsideKept s (sqIssued s c id) := by
  simp [sqIssued]

@[simp] theorem endSqWait_frame (s : State) (c : Tc) : OutsideKept s (endSqWait s c) := by
  unfold endSqWait
  split <;> simp

@[simp] theorem endWaiter_frame (s : State) (w : Waiter) (st : Nat) : OutsideKept s (endWaiter s w st) := by
  unfold endWaiter
  dsimp only
  (repeat' split) <;> simp

@[simp] theorem settleLoop_frame (n : Nat) (s : State) : OutsideKept s (settleLoop n s) := by
  induction n generalizing s with
  | zero => simp [settleLoop]
  | succ n ih =>
    unfold settleLoop
    split
    · simp
    · refine OutsideKept.trans ?_ (ih _)
      split <;> simp

@[simp] theorem expireWaiters_frame (s : State) : OutsideKept s (expireWaiters s) :=
  frame_foldl _ _ _ fun t w => endWaiter_frame t w 0x0E

@[simp] theorem serveWaiters_frame (s : State) : OutsideKept s (serveWaiters s) := by
  have h : OutsideKept s { s with waiters := arrive s.waiters } := by simp
  exact OutsideKept.trans h (OutsideKept.trans (settleLoop_frame _ _) (expireWaiters_frame _))

@[simp] theorem issueMove_frame (s : State) (c : Tc) (b : SqJob) : OutsideKept s (issueMove s c b) := by
  simp [issueMove]

@[simp] theorem jobStarted_frame (s : State) (c : Tc) (b : SqJob) : OutsideKept s (jobStarted s c b) := by
  cases hk : b.kind <;> cases hu : b.unit <;> simp only [jobStarted, hk, hu]
  all_goals first
    | (split <;> simp [modUnit])
    | simp [modUnit]

@[simp] theorem pruneJobs_frame (s : State) (c : Tc) : OutsideKept s (pruneJobs s c) := by
  simp [pruneJobs]

@[simp] theorem pump_frame (s : State) (c : Tc) : OutsideKept s (pump s c) := by
  unfold pump pruneJobs
  cases scanJobs s.parts (admits s) false s.clusters[c].jobs with
  | mk jobs started =>
    dsimp only
    split
    · simp
    · have h := frame_foldl (fun s b => jobStarted s c b) started (s.modCluster c fun t => { t with jobs := jobs }) fun t x => jobStarted_frame t c x
      simp_all

@[simp] theorem pumpAll_frame (s : State) : OutsideKept s (pumpAll s) := frame_foldl _ _ _ pump_frame

@[simp] theorem settleRounds_frame (n : Nat) (s : State) : OutsideKept s (settleRounds n s) := by
  induction n generalizing s with
  | zero => simp [settleRounds]
  | succ n ih =>
    unfold settleRounds
    dsimp only
    have h := OutsideKept.trans (serveWaiters_frame s) (pumpAll_frame _)
    split
    · exact h
    · exact OutsideKept.trans h (ih _)

@[simp] theorem settle_frame (s : State) : OutsideKept s (settle s) := by
  unfold settle
  split
  · have h : OutsideKept s { s with waiters := s.waiters.map fun (w : Waiter) => { w with open_ := false } } := by simp
    exact OutsideKept.trans h (pumpAll_frame _)
  · exact settleRounds_frame _ _

/-- Without a newly found scratchpad error, no cluster is fenced. -/
theorem spadFences_none (s t : State) (h : ∀ c : Tc, t.clusters[c].ueTicks = s.clusters[c].ueTicks) : spadFences s t = t := by
  have h0 : allTcs.any (spadTrips s t) = false := by
    rw [List.any_eq_false]
    intro c _
    have hc := h c
    simp only [Fin.getElem_fin] at hc
    simp [spadTrips, hc]
  simp [spadFences, h0]

/-- Nor is anything else than the streams and waiters changed. -/
theorem settleFrom_none (s t : State) (h : ∀ c : Tc, t.clusters[c].ueTicks = s.clusters[c].ueTicks) : settleFrom s t = settle t := by
  rw [settleFrom, spadFences_none s t h]

theorem settled_frame (s t : State) (h : ∀ c : Tc, t.clusters[c].ueTicks = s.clusters[c].ueTicks) : OutsideKept t (settled s t) := by
  rw [settled, settleFrom_none s t h]
  exact OutsideKept.trans (settle_frame t) (raiseChanges_frame s _)

/-! ## Taking a command -/

/-- A queue that takes its well-formed command runs the command's body on the state with HEAD moved on. -/
theorem takeCmd_takes (s : State) (q : QRef) (e : Entry) (op : Nat) (u : Used) (body : State → Pending → State)
    (h : canTake s q = true ∧ accepts q op = true ∧ entryOk e op u = true) :
    takeCmd s q e op u body =
      settle (body { fetchEntry s q with nextId := s.nextId + 1 } { id := s.nextId, q := q, e := e, items := [], wait := .head }) := by
  obtain ⟨h1, h2, h3⟩ := h
  have h4 : fld e.w0 63 56 = op := by simp [entryOk] at h3; tauto
  simp [takeCmd, h1, h2, h3, h4]

/-- A queue that cannot take a command takes none. -/
theorem takeCmd_idle (s : State) (q : QRef) (e : Entry) (op : Nat) (u : Used) (body : State → Pending → State)
    (h : canTake s q = false) : takeCmd s q e op u body = s := by
  simp [takeCmd, h]

/-- Whatever a command of a queue leaves alone in its body, it leaves alone. -/
theorem takeCmd_frame (s : State) (q : QRef) (e : Entry) (op : Nat) (u : Used) (body : State → Pending → State)
    (h : ∀ t p, OutsideKept t (body t p)) : OutsideKept s (takeCmd s q e op u body) := by
  have h0 : OutsideKept s { fetchEntry s q with nextId := s.nextId + 1 } := by simp
  unfold takeCmd
  dsimp only
  split
  · simp
  · split
    · simp
    · split
      · exact OutsideKept.trans h0 (OutsideKept.trans (h _ _) (settle_frame _))
      · exact OutsideKept.trans h0 (OutsideKept.trans (endCmd_frame _ _ _ _ _ _) (settle_frame _))

end Sys2Proof.Machine
end

