-- ==== Sys2Proof/Laws/Memory.lean ====
section
/-! SUPPORT. Sparse maps and memories: a read after a write, what a write leaves, and that every operation keeps the canonical
form. -/

namespace Sys2Proof.Machine

open Sys2Proof

/-! ## Order -/

theorem Sparse.ordered_mono {α : Type} {m : Sparse α} {a b : Nat} (h : Sparse.ordered b m = true) (hab : a ≤ b) :
    Sparse.ordered a m = true := by
  cases m with
  | nil => rfl
  | cons e m =>
    simp only [Sparse.ordered, Bool.and_eq_true, decide_eq_true_eq] at h ⊢
    exact ⟨by omega, h.2⟩

theorem Sparse.ordered_put {α : Type} (m : Sparse α) (b i : Nat) (x : α) (h : Sparse.ordered b m = true) (hb : b ≤ i) :
    Sparse.ordered b (m.put i x) = true := by
  induction m generalizing b with
  | nil => simp [Sparse.put, Sparse.ordered, hb]
  | cons e m ih =>
    obtain ⟨j, y⟩ := e
    simp only [Sparse.ordered, Bool.and_eq_true, decide_eq_true_eq] at h
    unfold Sparse.put
    split
    · simp only [Sparse.ordered, Bool.and_eq_true, decide_eq_true_eq]
      exact ⟨hb, by omega, h.2⟩
    · split
      · subst i
        simp only [Sparse.ordered, Bool.and_eq_true, decide_eq_true_eq]
        exact h
      · simp only [Sparse.ordered, Bool.and_eq_true, decide_eq_true_eq]
        exact ⟨h.1, ih _ h.2 (by omega)⟩

theorem Sparse.ordered_erase {α : Type} (m : Sparse α) (b i : Nat) (h : Sparse.ordered b m = true) :
    Sparse.ordered b (m.erase i) = true := by
  induction m generalizing b with
  | nil => rfl
  | cons e m ih =>
    obtain ⟨j, y⟩ := e
    unfold Sparse.erase
    split
    · simp only [Sparse.ordered, Bool.and_eq_true, decide_eq_true_eq] at h
      exact Sparse.ordered_mono h.2 (by omega)
    · split
      · exact h
      · simp only [Sparse.ordered, Bool.and_eq_true, decide_eq_true_eq] at h ⊢
        exact ⟨h.1, ih _ h.2⟩

theorem Sparse.ordered_filter {α : Type} (m : Sparse α) (b : Nat) (p : Nat × α → Bool) (h : Sparse.ordered b m = true) :
    Sparse.ordered b (m.filter p) = true := by
  induction m generalizing b with
  | nil => rfl
  | cons e m ih =>
    obtain ⟨j, y⟩ := e
    simp only [Sparse.ordered, Bool.and_eq_true, decide_eq_true_eq] at h
    rw [List.filter_cons]
    split
    · simp only [Sparse.ordered, Bool.and_eq_true, decide_eq_true_eq]
      exact ⟨h.1, ih _ h.2⟩
    · exact Sparse.ordered_mono (ih _ h.2) (by omega)

/-- No index below the first one is listed. -/
theorem Sparse.get_below {α : Type} (d : α) (m : Sparse α) (b i : Nat) (h : Sparse.ordered b m = true) (hi : i < b) :
    Sparse.get d m i = d := by
  cases m with
  | nil => rfl
  | cons e m =>
    obtain ⟨j, y⟩ := e
    simp only [Sparse.ordered, Bool.and_eq_true, decide_eq_true_eq] at h
    have h1 : i ≠ j := by omega
    have h2 : i < j := by omega
    simp [Sparse.get, h1, h2]

/-! ## Entries -/

theorem Sparse.mem_put {α : Type} (m : Sparse α) (i : Nat) (x : α) (e : Nat × α) (h : e ∈ m.put i x) : e = (i, x) ∨ e ∈ m := by
  induction m with
  | nil => simpa [Sparse.put] using h
  | cons a m ih =>
    unfold Sparse.put at h
    split at h
    · simpa using h
    · split at h
      · rcases List.mem_cons.1 h with h | h
        · exact .inl h
        · exact .inr (List.mem_cons_of_mem _ h)
      · rcases List.mem_cons.1 h with h | h
        · exact .inr (by simp [h])
        · exact (ih h).imp id (List.mem_cons_of_mem _)

theorem Sparse.mem_erase {α : Type} (m : Sparse α) (i : Nat) (e : Nat × α) (h : e ∈ m.erase i) : e ∈ m := by
  induction m with
  | nil => exact h
  | cons a m ih =>
    unfold Sparse.erase at h
    split at h
    · exact List.mem_cons_of_mem _ h
    · split at h
      · exact h
      · rcases List.mem_cons.1 h with h | h
        · simp [h]
        · exact List.mem_cons_of_mem _ (ih h)

/-! ## Reading after a change -/

theorem Sparse.get_put {α : Type} (d : α) (m : Sparse α) (i j : Nat) (x : α) :
    Sparse.get d (m.put i x) j = if j = i then x else Sparse.get d m j := by
  induction m with
  | nil => simp [Sparse.put, Sparse.get]
  | cons e m ih =>
    obtain ⟨k, y⟩ := e
    unfold Sparse.put
    split
    · rename_i hik
      simp only [Sparse.get]
      by_cases hj : j = i
      · simp [hj]
      · by_cases hlt : j < i
        · have h1 : j ≠ k := by omega
          have h2 : j < k := by omega
          simp [hj, hlt, h1, h2]
        · simp [hj, hlt]
    · split
      · subst i
        simp only [Sparse.get]
        by_cases hj : j = k
        · simp [hj]
        · simp [hj]
      · rename_i h1 h2
        simp only [Sparse.get, ih]
        by_cases hj : j = i
        · subst j
          have h3 : i ≠ k := h2
          simp [h3, h1]
        · simp [hj]

theorem Sparse.get_erase {α : Type} (d : α) (m : Sparse α) (b i j : Nat) (h : Sparse.ordered b m = true) :
    Sparse.get d (m.erase i) j = if j = i then d else Sparse.get d m j := by
  induction m generalizing b with
  | nil => simp [Sparse.erase, Sparse.get]
  | cons e m ih =>
    obtain ⟨k, y⟩ := e
    simp only [Sparse.ordered, Bool.and_eq_true, decide_eq_true_eq] at h
    unfold Sparse.erase
    split
    · subst i
      by_cases hj : j ≤ k
      · rw [Sparse.get_below d m (k + 1) j h.2 (by omega)]
        by_cases he : j = k
        · simp [he]
        · have : j < k := by omega
          simp [Sparse.get, he, this]
      · have h1 : j ≠ k := by omega
        have h2 : ¬ j < k := by omega
        simp [Sparse.get, h1, h2]
    · split
      · rename_i h1 h2
        by_cases hj : j = i
        · subst j
          simp [Sparse.get, h1, h2]
        · simp [hj]
      · rename_i h1 h2
        simp only [Sparse.get, ih _ h.2]
        by_cases hj : j = i
        · subst j
          simp [h1, h2]
        · simp [hj]

/-- Reading after an index has been set. -/
theorem Sparse.get_set {α : Type} [DecidableEq α] (d : α) (m : Sparse α) (i j : Nat) (x : α) (h : Sparse.wf d m = true) :
    Sparse.get d (Sparse.set d m i x) j = if j = i then x else Sparse.get d m j := by
  unfold Sparse.set
  split
  · subst x
    simp only [Sparse.wf, Bool.and_eq_true] at h
    exact Sparse.get_erase d m 0 i j h.1
  · exact Sparse.get_put d m i j x

/-! ## The canonical form is kept -/

@[simp] theorem Sparse.wf_nil {α : Type} [DecidableEq α] (d : α) : Sparse.wf d ([] : Sparse α) = true := rfl

theorem Sparse.wf_set {α : Type} [DecidableEq α] (d : α) (m : Sparse α) (i : Nat) (x : α) (h : Sparse.wf d m = true) :
    Sparse.wf d (Sparse.set d m i x) = true := by
  simp only [Sparse.wf, Bool.and_eq_true, List.all_eq_true, decide_eq_true_eq] at h ⊢
  unfold Sparse.set
  split
  · exact ⟨Sparse.ordered_erase m 0 i h.1, fun e he => h.2 e (Sparse.mem_erase m i e he)⟩
  · rename_i hx
    refine ⟨Sparse.ordered_put m 0 i x h.1 (Nat.zero_le i), fun e he => ?_⟩
    rcases Sparse.mem_put m i x e he with he | he
    · simpa [he] using hx
    · exact h.2 e he

theorem Sparse.wf_clear {α : Type} [DecidableEq α] (d : α) (m : Sparse α) (p : Nat → Bool) (h : Sparse.wf d m = true) :
    Sparse.wf d (m.clear p) = true := by
  simp only [Sparse.wf, Bool.and_eq_true, List.all_eq_true, decide_eq_true_eq] at h ⊢
  exact ⟨Sparse.ordered_filter m 0 _ h.1, fun e he => h.2 e (List.mem_filter.1 he).1⟩

/-- Reading after the indices that satisfy p have gone back to the default. -/
theorem Sparse.get_clear {α : Type} (d : α) (m : Sparse α) (p : Nat → Bool) (b j : Nat) (h : Sparse.ordered b m = true) :
    Sparse.get d (m.clear p) j = if p j then d else Sparse.get d m j := by
  induction m generalizing b with
  | nil => simp [Sparse.clear, Sparse.get]
  | cons e m ih =>
    obtain ⟨k, y⟩ := e
    simp only [Sparse.ordered, Bool.and_eq_true, decide_eq_true_eq] at h
    have ih' := ih _ h.2
    have hord : Sparse.ordered (k + 1) (Sparse.clear m p) = true := Sparse.ordered_filter m _ _ h.2
    simp only [Sparse.clear, List.filter_cons] at ih' hord ⊢
    by_cases hk : p k = true
    · simp only [hk, Bool.not_true, Bool.false_eq_true, if_false, ih', Sparse.get]
      by_cases hj : j = k
      · simp [hj, hk]
      · by_cases hlt : j < k
        · simp [hj, hlt, Sparse.get_below d m (k + 1) j h.2 (by omega)]
        · simp [hj, hlt]
    · have hk' : p k = false := by simpa using hk
      simp only [hk', Bool.not_false, if_true, Sparse.get, ih']
      by_cases hj : j = k
      · simp [hj, hk']
      · by_cases hlt : j < k
        · simp [hj, hlt]
        · simp [hj, hlt]

/-! ## Memory -/

/-- A read after a write of the same address gives the byte; every other address reads as before. -/
theorem Memory.read_write (m : Memory) (a c : Nat) (b : Byte) (h : m.wf = true) :
    (m.write a b).read c = if c = a then b else m.read c := Sparse.get_set 0 m a c b h

theorem Memory.wf_write (m : Memory) (a : Nat) (b : Byte) (h : m.wf = true) : (m.write a b).wf = true := Sparse.wf_set 0 m a b h

theorem Memory.wf_writeBytes (m : Memory) (a : Nat) (bs : Bytes) (h : m.wf = true) : (m.writeBytes a bs).wf = true := by
  induction bs generalizing m a with
  | nil => exact h
  | cons b bs ih => exact ih _ _ (Memory.wf_write m a b h)

theorem Memory.wf_setNum (m : Memory) (a k v : Nat) (h : m.wf = true) : (m.setNum a k v).wf = true :=
  Memory.wf_writeBytes m a _ h

theorem Memory.wf_zero (m : Memory) (a len : Nat) (h : m.wf = true) : (m.zero a len).wf = true := Sparse.wf_clear 0 m _ h

/-- A read after bytes have been stored from a on. -/
theorem Memory.read_writeBytes (m : Memory) (a c : Nat) (bs : Bytes) (h : m.wf = true) :
    (m.writeBytes a bs).read c = if a ≤ c ∧ c < a + bs.length then bs.getD (c - a) 0 else m.read c := by
  induction bs generalizing m a with
  | nil =>
    have : ¬ (a ≤ c ∧ c < a) := by omega
    simp [Memory.writeBytes, this]
  | cons b bs ih =>
    simp only [Memory.writeBytes, ih _ _ (Memory.wf_write m a b h), Memory.read_write m a c b h, List.length_cons]
    by_cases hc : c = a
    · subst hc; simp
    · by_cases hin : a + 1 ≤ c ∧ c < a + 1 + bs.length
      · have h1 : a ≤ c ∧ c < a + (bs.length + 1) := by omega
        have h2 : c - a = (c - (a + 1)) + 1 := by omega
        rw [if_pos hin, if_pos h1, h2]
        simp
      · have h1 : ¬ (a ≤ c ∧ c < a + (bs.length + 1)) := by omega
        rw [if_neg hin, if_neg h1, if_neg hc]

/-- A read after bytes have been zeroed. -/
theorem Memory.read_zero (m : Memory) (a len c : Nat) (h : m.wf = true) :
    (m.zero a len).read c = if a ≤ c ∧ c < a + len then 0 else m.read c := by
  have h' : Sparse.ordered 0 m = true := by
    simp only [Memory.wf, Sparse.wf, Bool.and_eq_true] at h
    exact h.1
  simpa [Memory.zero, Memory.read] using Sparse.get_clear (0 : Byte) m (fun i => decide (a ≤ i ∧ i < a + len)) 0 c h'

end Sys2Proof.Machine
end

