-- ==== Sys2Proof/Laws/Odp.lean ====
section
/-! SUPPORT. What a request frame parses to (spec/13_object_dictionary.md R616, R618). -/

namespace Sys2Proof.Machine

open Sys2Proof

/-- Bytes written lowest first spell their number. -/
theorem leNat_leBytes (k v : Nat) : leNat (leBytes k v) = v % 256 ^ k := by
  induction k generalizing v with
  | zero => simp [leBytes, leNat, Nat.mod_one]
  | succ k ih =>
    rw [leBytes, leNat, ih, BitVec.toNat_ofNat, show (2 : Nat) ^ 8 = 256 from rfl, Nat.pow_succ', Nat.mod_mul]

@[simp] theorem leBytes_length (k v : Nat) : (leBytes k v).length = k := by
  induction k generalizing v with
  | zero => rfl
  | succ k ih => simp [leBytes, ih]

/-- Bytes within the first part of a string are those of that part. -/
theorem slice_append_left (h t : Bytes) (o k : Nat) (hb : o + k ≤ h.length) : slice (h ++ t) o k = slice h o k := by
  unfold slice
  have e : ((h ++ t).drop o).take k = (h.drop o).take k := by
    rw [List.drop_append_of_le_length (by omega), List.take_append_of_le_length (by simp; omega)]
  simp only [e]

theorem numAt_append_left (h t : Bytes) (o k : Nat) (hb : o + k ≤ h.length) : numAt (h ++ t) o k = numAt h o k := by
  unfold numAt; rw [slice_append_left h t o k hb]

theorem byteAt_append_left (h t : Bytes) (o : Nat) (hb : o < h.length) : byteAt (h ++ t) o = byteAt h o := by
  simp [byteAt, List.getD, List.getElem?_append_left hb]

/-- The bytes behind the first part. -/
theorem numAt_append_right (h t : Bytes) (k : Nat) (hk : t.length = k) : numAt (h ++ t) h.length k = leNat t := by
  unfold numAt slice
  simp [← hk]

/-- A frame whose check is that of its bytes before parses. -/
theorem parseFrame_whole (h : Bytes) (hv : byteAt h 0 = 1) (hn : h.length = 20 + numAt h 12 4) :
    parseFrame (h ++ leBytes 4 (crc32c h).toNat) =
      some { op := (byteAt h 1).toNat, seq := BitVec.ofNat 16 (numAt h 2 2), session := BitVec.ofNat 16 (numAt h 4 2),
             index := numAt h 8 2, sub := (byteAt h 10).toNat, typ := (byteAt h 11).toNat, offset := numAt h 16 4,
             data := slice h 20 (numAt h 12 4) } := by
  generalize hc : (crc32c h).toNat = c
  have hlt : c < 256 ^ 4 := by rw [← hc]; exact (crc32c h).isLt
  have e0 : numAt (h ++ leBytes 4 c) (20 + numAt h 12 4) 4 = c := by
    rw [← hn, numAt_append_right _ _ _ (leBytes_length 4 c), leNat_leBytes, Nat.mod_eq_of_lt hlt]
  have e1 : (h ++ leBytes 4 c).take (20 + numAt h 12 4) = h := by rw [← hn]; simp
  unfold parseFrame
  rw [numAt_append_left h _ 12 4 (by omega)]
  dsimp only
  rw [e0, e1, byteAt_append_left h _ 0 (by omega), byteAt_append_left h _ 1 (by omega),
    byteAt_append_left h _ 10 (by omega), byteAt_append_left h _ 11 (by omega), numAt_append_left h _ 2 2 (by omega),
    numAt_append_left h _ 4 2 (by omega), numAt_append_left h _ 8 2 (by omega), numAt_append_left h _ 16 4 (by omega),
    slice_append_left h _ 20 _ (by omega)]
  have hl : (h ++ leBytes 4 c).length = 24 + numAt h 12 4 := by simp; omega
  simp [hl, hv, hc]

end Sys2Proof.Machine
end

