-- ==== Sys2Proof/Laws/Requests.lean ====
section
/-! SUPPORT. Requests to memory: the pieces of a request lie in its range and none crosses a line, and a request passes where every
piece does. -/

namespace Sys2Proof.Machine

open Sys2Proof

/-- Every piece lies in the range, is not empty, and stays within one line of 64 bytes. -/
theorem pieces_within (fuel a len : Nat) :
    ∀ x ∈ pieces fuel a len, a ≤ x.1 ∧ x.1 + x.2 ≤ a + len ∧ 0 < x.2 ∧ x.1 % 64 + x.2 ≤ 64 := by
  induction fuel generalizing a len with
  | zero => intro x hx; simp [pieces] at hx
  | succ fuel ih =>
    intro x hx
    unfold pieces at hx
    split at hx
    · simp at hx
    · rename_i hl
      rcases List.mem_cons.1 hx with hx | hx
      · subst hx
        have := Nat.mod_lt a (show 0 < 64 by decide)
        refine ⟨by simp, ?_, ?_, ?_⟩ <;> dsimp only <;> omega
      · have h := ih _ _ x hx
        have := Nat.mod_lt a (show 0 < 64 by decide)
        omega

/-- A request passes where every piece of its range does. -/
theorem firstBad_none (s : State) (k : Pt) (cls addr len : Nat) (write : Bool)
    (h : ∀ a n, addrLoc addr ≤ a → a + n ≤ addrLoc addr + len → 0 < n → checkPiece s k cls (addrKey addr) a n write = 0) :
    firstBad s k cls addr len write = none := by
  unfold firstBad
  rw [List.find?_eq_none]
  intro x hx
  obtain ⟨y, hy, rfl⟩ := List.mem_map.1 hx
  have hw := pieces_within _ _ _ y hy
  simp [h y.1 y.2 hw.1 hw.2.1 hw.2.2.1]

/-- So its status is 0. -/
theorem checkRange_zero (s : State) (k : Pt) (cls addr len : Nat) (write : Bool)
    (h : ∀ a n, addrLoc addr ≤ a → a + n ≤ addrLoc addr + len → 0 < n → checkPiece s k cls (addrKey addr) a n write = 0) :
    checkRange s k cls addr len write = 0 := by
  simp [checkRange, firstBad_none s k cls addr len write h]

/-- A location of stack h (R384, R388). -/
theorem locate_hbm (s : State) (h : Hb) (off : Nat) (ho : off < 22888 * regionBytes) (hp : hbPresent s h.1 = true) :
    locate s (h.1 * 2 ^ 36 + off) = .hbm h off := by
  unfold regionBytes at ho
  have d : (h.1 * 2 ^ 36 + off) / 2 ^ 36 = h.1 := by omega
  have m : (h.1 * 2 ^ 36 + off) % 2 ^ 36 = off := by omega
  have hlt : (h.1 * 2 ^ 36 + off) / 2 ^ 36 < 8 := by rw [d]; exact h.2
  unfold locate
  rw [dif_pos hlt, if_pos ⟨by unfold regionBytes; omega, by rw [d]; exact hp⟩]
  congr 1
  exact Fin.ext d

/-- A piece of a request without a key to a usable object of a stack, where the class may go (R528) and nothing locks the piece. -/
theorem checkPiece_hbm (s : State) (k : Pt) (cls loc n : Nat) (write : Bool) (h : Hb) (off : Nat) (o : MemObj)
    (hl : locate s loc = .hbm h off) (hf : s.hbs[h].fenced = false) (ho : objInHbm s.parts[k] h off = some o) (hu : o.st = .usable)
    (hp : plainOk s.parts[k] o (cls % 8) write = true)
    (hw : write = true → o.sealed = false ∧ replayLocked s.parts[k] loc n = false ∧ (cls = 3 ∨ updateLocked s k loc n = false)) :
    checkPiece s k cls 0 loc n write = 0 := by
  unfold checkPiece
  rw [hl]
  dsimp only
  rw [hf, ho]
  generalize s.parts[k] = p at hp hw ⊢
  cases write with
  | false => simp [hu, hp]
  | true =>
    obtain ⟨h1, h2, h3⟩ := hw rfl
    rcases h3 with h3 | h3
    · subst h3; simp [hu, hp, h1, h2]
    · simp [hu, hp, h1, h2, h3]

end Sys2Proof.Machine
end

