-- ==== Sys2Proof/Laws/Still.lean ====
section
/-! SUPPORT. What the shared operations leave in the partitions and the clusters, as one equation: their steps, sessions, setup
objects, memory objects and policies, and the memories, tiles, estimators and vector engines of the clusters. -/

namespace Sys2Proof.Machine

open Sys2Proof

/-- What events, completions, streams and waiters leave in a partition. -/
@[simp] abbrev stillPart (p : Partition) :=
  ((p.state, p.clusters, p.hbMask, p.policy), (p.objs, p.gens, p.marks, p.mem), (p.session, p.step.phase, p.step.number, p.step.localNf),
    p.dataQueues, p.destroying, p.debug)

/-- What they leave in a cluster. -/
@[simp] abbrev stillCluster (c : Cluster) :=
  ((c.part, c.fenced, c.frozen), (c.spad, c.poison, c.poisonNew, c.code), (c.tiles, c.est, c.meQueue, c.latches), (c.drains, c.ve, c.verdicts), c.window, c.ueNew, c.soft)

/-- What they leave in the partitions and clusters of the module. -/
def still (s : State) := ((fun k : Pt => stillPart s.parts[k]), (fun c : Tc => stillCluster s.clusters[c]))

/-- A state with the same partitions and clusters. -/
theorem still_of (s t : State) (hp : t.parts = s.parts) (hc : t.clusters = s.clusters) : still t = still s := by
  simp only [still, hp, hc]

theorem still_part {s t : State} (h : still t = still s) (k : Pt) : stillPart t.parts[k] = stillPart s.parts[k] :=
  congrFun (congrArg Prod.fst h) k

theorem still_cluster {s t : State} (h : still t = still s) (c : Tc) : stillCluster t.clusters[c] = stillCluster s.clusters[c] :=
  congrFun (congrArg Prod.snd h) c

theorem still_of_parts (s t : State) (hp : ∀ k : Pt, stillPart t.parts[k] = stillPart s.parts[k])
    (hc : ∀ c : Tc, stillCluster t.clusters[c] = stillCluster s.clusters[c]) : still t = still s := by
  unfold still
  exact congrArg₂ Prod.mk (funext hp) (funext hc)

theorem still_modPart (s : State) (k : Pt) (f : Partition → Partition) (h : ∀ p, stillPart (f p) = stillPart p) :
    still (s.modPart k f) = still s := by
  refine still_of_parts _ _ (fun j => ?_) fun _ => rfl
  rw [State.modPart_parts, vmod_get]
  split
  · exact h _
  · rfl

theorem still_modCluster (s : State) (c : Tc) (f : Cluster → Cluster) (h : ∀ x, stillCluster (f x) = stillCluster x) :
    still (s.modCluster c f) = still s := by
  refine still_of_parts _ _ (fun _ => rfl) fun j => ?_
  rw [State.modCluster_clusters, vmod_get]
  split
  · exact h _
  · rfl

theorem still_vmapParts (s : State) (f : Partition → Partition) (h : ∀ p, stillPart (f p) = stillPart p) :
    still { s with parts := vmap s.parts f } = still s := by
  refine still_of_parts _ _ (fun j => ?_) fun _ => rfl
  rw [vmap_get]
  exact h _

theorem still_vmapClusters (s : State) (f : Cluster → Cluster) (h : ∀ x, stillCluster (f x) = stillCluster x) :
    still { s with clusters := vmap s.clusters f } = still s := by
  refine still_of_parts _ _ (fun _ => rfl) fun j => ?_
  rw [vmap_get]
  exact h _

theorem still_foldl {α : Type} (g : State → α → State) (l : List α) (s : State) (h : ∀ t x, still (g t x) = still t) :
    still (l.foldl g s) = still s := by
  induction l generalizing s with
  | nil => rfl
  | cons a l ih => exact (ih (g s a)).trans (h s a)

@[simp] theorem count_still (s : State) (k : Pt) (f : Counters → Counters) : still (s.count k f) = still s :=
  still_modPart s k _ fun _ => rfl

@[simp] theorem draw_still (s : State) (n : Nat) : still (s.draw n).1 = still s := rfl

@[simp] theorem msixSet_still (s : State) (fn : Fin 5) (v : Nat) (x : MsixVec) : still (msixSet s fn v x) = still s := by
  unfold msixSet
  split <;> rfl

@[simp] theorem msixSend_still (s : State) (fn : Fin 5) (v : BitVec 11) : still (msixSend s fn v) = still s := by
  unfold msixSend
  dsimp only
  split
  · exact msixSet_still ..
  · rfl

@[simp] theorem raiseGlb_still (s : State) (b : Nat) : still (raiseGlb s b) = still s := by
  unfold raiseGlb
  dsimp only
  split
  · exact (msixSend_still ..).trans rfl
  · rfl

@[simp] theorem partVector_still (s : State) (k : Pt) (vf : Bool) (v : BitVec 11) : still (partVector s k vf v) = still s := by
  unfold partVector
  split
  · exact still_modPart _ _ _ fun _ => rfl
  · exact msixSend_still ..

@[simp] theorem raisePart_still (s : State) (k : Pt) (b : Nat) : still (raisePart s k b) = still s := by
  unfold raisePart
  dsimp only
  have h : still (s.modPart k fun p => { p with event := setBit p.event b true }) = still s := still_modPart _ _ _ fun _ => rfl
  split
  · exact (partVector_still ..).trans h
  · exact h

@[simp] theorem raiseChanges_still (s t : State) : still (raiseChanges s t) = still t := by
  unfold raiseChanges
  dsimp only
  (repeat' split) <;> simp

@[simp] theorem logPart_still (s : State) (k : Pt) (r : LogRec) : still (logPart s k r) = still s :=
  (raisePart_still ..).trans (still_modPart _ _ _ fun _ => rfl)

@[simp] theorem notePart_still (s : State) (k : Pt) (typ cluster unitId detail : Nat) :
    still (notePart s k typ cluster unitId detail) = still s := logPart_still ..

@[simp] theorem noteOp_still (s : State) (typ cluster unitId detail : Nat) : still (noteOp s typ cluster unitId detail) = still s :=
  (raiseGlb_still ..).trans rfl

@[simp] theorem noteFence_still (s : State) (cls unit cause : Nat) (set : Bool) (serves : List Pt) :
    still (noteFence s cls unit cause set serves) = still s := by
  unfold noteFence
  dsimp only
  split <;> simp [still_foldl]

@[simp] theorem syncSet_still (s : State) (o : Nat) (v : W32) : still (syncSet s o v) = still s := rfl

@[simp] theorem addSync_still (s : State) (part : Option Pt) (o n : Nat) : still (addSync s part o n) = still s := by
  unfold addSync
  dsimp only
  split
  · rfl
  · split
    · exact still_modPart _ _ _ fun _ => rfl
    · exact still_vmapParts (syncSet s o 0xFFFFFFFF) _ fun p => by split <;> rfl

@[simp] theorem syncDrop_still (s : State) (k : Pt) (cluster o : Nat) : still (syncDrop s k cluster o) = still s := by
  simp [syncDrop]

@[simp] theorem signalSync_still (s : State) (part : Option Pt) (cluster o n : Nat) : still (signalSync s part cluster o n) = still s := by
  unfold signalSync
  (repeat' split) <;> simp

@[simp] theorem modQueue_still (s : State) (q : QRef) (f : Queue → Queue) : still (s.modQueue q f) = still s := by
  cases q with
  | admin => rfl
  | ctrl k => exact still_modPart _ _ _ fun _ => rfl
  | data k j => exact still_modPart _ _ _ fun _ => rfl

@[simp] theorem fetchEntry_still (s : State) (q : QRef) : still (fetchEntry s q) = still s := modQueue_still ..

@[simp] theorem writeCompletion_still (s : State) (q : QRef) (c : Completion) : still (writeCompletion s q c) = still s := by
  unfold writeCompletion
  dsimp only
  split
  · rw [msixSend_still, modQueue_still]; rfl
  · rw [partVector_still, modQueue_still]; rfl

@[simp] theorem postCompletion_still (s : State) (q : QRef) (c : Completion) : still (postCompletion s q c) = still s := by
  unfold postCompletion
  split
  · split
    · refine still_modPart _ _ _ ?_
      exact fun _ => rfl
    · exact writeCompletion_still ..
  · exact writeCompletion_still ..

@[simp] theorem completionSignal_still (s : State) (q : QRef) (e : Entry) (st : Nat) : still (completionSignal s q e st) = still s := by
  unfold completionSignal
  dsimp only
  (repeat' split) <;> simp

@[simp] theorem haltQueue_still (s : State) (k : Pt) (j : Fin 16) (st : Nat) : still (haltQueue s k j st) = still s := by
  unfold haltQueue
  split
  · rfl
  · refine (notePart_still ..).trans ((still_vmapClusters _ _ ?_).trans (modQueue_still ..))
    exact fun _ => rfl

@[simp] theorem endCmd_still (s : State) (p : Pending) (st r0 r1 r2 : Nat) : still (endCmd s p st r0 r1 r2) = still s := by
  unfold endCmd
  dsimp only
  (repeat' split) <;> simp

@[simp] theorem dropPending_still (s : State) (p : Pending) : still (dropPending s p) = still s := by
  unfold dropPending
  split
  · rfl
  · exact still_modPart _ _ _ fun _ => rfl

@[simp] theorem endPending_still (s : State) (p : Pending) (st r0 r1 r2 : Nat) : still (endPending s p st r0 r1 r2) = still s := by
  simp [endPending]

@[simp] theorem addPending_still (s : State) (p : Pending) : still (addPending s p) = still s := by
  unfold addPending
  split
  · rfl
  · exact still_modPart _ _ _ fun _ => rfl

@[simp] theorem setWait_still (s : State) (p : Pending) (w : Wait) : still (setWait s p w) = still s := by
  unfold setWait
  dsimp only
  split
  · rfl
  · exact still_modPart _ _ _ fun _ => rfl

@[simp] theorem streamDone_still (s : State) (k : Pt) (id : Nat) (c : Tc) : still (streamDone s k id c) = still s := by
  unfold streamDone
  dsimp only
  (repeat' split) <;> simp

@[simp] theorem modJob_still (s : State) (c : Tc) (id : Nat) (f : SqJob → SqJob) : still (modJob s c id f) = still s :=
  still_modCluster _ _ _ fun _ => rfl

@[simp] theorem endRun_still (s : State) (c : Tc) (id : Nat) : still (endRun s c id) = still s := by
  unfold endRun
  (repeat' split) <;> simp

@[simp] theorem sqIssued_still (s : State) (c : Tc) (id : Nat) : still (sqIssued s c id) = still s := by simp [sqIssued]

@[simp] theorem endSqWait_still (s : State) (c : Tc) : still (endSqWait s c) = still s := by
  unfold endSqWait
  split <;> simp

@[simp] theorem endWaiter_still (s : State) (w : Waiter) (st : Nat) : still (endWaiter s w st) = still s := by
  unfold endWaiter
  dsimp only
  split
  · rw [endSqWait_still]
    refine (still_modCluster _ _ _ ?_).trans rfl
    exact fun _ => rfl
  · split
    · exact (endPending_still ..).trans rfl
    · rfl

@[simp] theorem settleLoop_still (n : Nat) (s : State) : still (settleLoop n s) = still s := by
  induction n generalizing s with
  | zero => rfl
  | succ n ih =>
    unfold settleLoop
    split
    · rfl
    · rw [ih, endWaiter_still]
      split <;> simp

@[simp] theorem expireWaiters_still (s : State) : still (expireWaiters s) = still s :=
  still_foldl _ _ _ fun t w => endWaiter_still t w 0x0E

@[simp] theorem serveWaiters_still (s : State) : still (serveWaiters s) = still s :=
  (expireWaiters_still _).trans ((settleLoop_still ..).trans rfl)

@[simp] theorem issueMove_still (s : State) (c : Tc) (b : SqJob) : still (issueMove s c b) = still s := rfl

@[simp] theorem modUnit_still (s : State) (k : Pt) (mark : W32) (f : ReplayUnit → ReplayUnit) : still (modUnit s k mark f) = still s :=
  still_modPart _ _ _ fun _ => rfl

@[simp] theorem jobStarted_still (s : State) (c : Tc) (b : SqJob) : still (jobStarted s c b) = still s := by
  have hf : ∀ p : Partition, stillPart (if p.step.phase == .compute && !bit p.step.fences c.1 then
      { p with step := { p.step with fences := setBit p.step.fences c.1 true } }
    else { p with step := { p.step with nextFences := setBit p.step.nextFences c.1 true } }) = stillPart p := fun p => by
    split <;> rfl
  have hm := still_modPart s b.part _ hf
  cases hk : b.kind <;> cases hu : b.unit <;> simp only [jobStarted, hk, hu, streamDone_still, modUnit_still, issueMove_still, hm]
  all_goals (split <;> simp)

@[simp] theorem pruneJobs_still (s : State) (c : Tc) : still (pruneJobs s c) = still s := still_modCluster _ _ _ fun _ => rfl

@[simp] theorem pump_still (s : State) (c : Tc) : still (pump s c) = still s := by
  unfold pump
  split
  · rfl
  · cases scanJobs s.parts (admits s) false s.clusters[c].jobs with
    | mk jobs started =>
      dsimp only
      rw [pruneJobs_still, still_foldl _ _ _ fun t b => jobStarted_still t c b]
      exact still_modCluster _ _ _ fun _ => rfl

@[simp] theorem pumpAll_still (s : State) : still (pumpAll s) = still s := still_foldl _ _ _ pump_still

@[simp] theorem settleRounds_still (n : Nat) (s : State) : still (settleRounds n s) = still s := by
  induction n generalizing s with
  | zero => rfl
  | succ n ih =>
    unfold settleRounds
    dsimp only
    split
    · simp
    · rw [ih]; simp

/-- Serving waiters and going on with the streams leaves it. -/
@[simp] theorem settle_still (s : State) : still (settle s) = still s := by
  unfold settle
  split
  · exact (pumpAll_still _).trans rfl
  · exact settleRounds_still ..

theorem settled_still (s t : State) (h : ∀ c : Tc, t.clusters[c].ueTicks = s.clusters[c].ueTicks) : still (settled s t) = still t := by
  rw [settled, settleFrom_none s t h]
  exact (raiseChanges_still ..).trans (settle_still t)

/-- A vector engine is not changed by it. -/
theorem settle_ve (s : State) (c : Tc) : (settle s).clusters[c].ve = s.clusters[c].ve := by
  have h := still_cluster (settle_still s) c
  simp only [Prod.mk.injEq] at h
  exact h.2.2.2.1.2.1

/-- Nor is a scratchpad. -/
theorem settle_spad (s : State) (c : Tc) : (settle s).clusters[c].spad = s.clusters[c].spad := by
  have h := still_cluster (settle_still s) c
  simp only [Prod.mk.injEq] at h
  exact h.2.1.1

/-- Nor is a press. -/
theorem settle_presses (s : State) : (settle s).presses = s.presses := (settle_frame s).2.2.2.2.2.2.2.1

/-- What a command's body leaves, the queue that takes the command leaves. -/
theorem takeCmd_still (s : State) (q : QRef) (e : Entry) (op : Nat) (u : Used) (body : State → Pending → State)
    (h : ∀ t p, still (body t p) = still t) : still (takeCmd s q e op u body) = still s := by
  unfold takeCmd
  dsimp only
  generalize ht : fetchEntry s q = t
  have ht' : still t = still s := by rw [← ht, fetchEntry_still]
  have h0 : still { t with nextId := s.nextId + 1 } = still s := (still_of t _ rfl rfl).trans ht'
  split
  · rfl
  · split
    · rfl
    · split
      · rw [settle_still, h, h0]
      · rw [settle_still, endCmd_still, h0]

end Sys2Proof.Machine
end

