-- ==== Sys2Proof/Laws/Vector.lean ====
section
/-! SUPPORT. Vector, mask and scalar registers after a write, what writeLanes leaves in the lanes, and how a vector unit takes a legal
instruction. -/

namespace Sys2Proof.Machine

open Sys2Proof

/-! ## Registers (R236) -/

theorem vGet_vPut (r : VecRegs) (v w i j : Nat) (x : W32) (h : Sparse.wf (0 : W32) r.v = true) (hi : i < 256) (hj : j < 256) :
    vGet (vPut r v i x) w j = if w = v ∧ j = i then x else vGet r w j := by
  unfold vGet vPut
  rw [Sparse.get_set _ _ _ _ _ h]
  by_cases hw : w = v ∧ j = i
  · simp [hw]
  · have : ¬ (256 * w + j = 256 * v + i) := by omega
    simp [hw, this]

theorem vPut_wf (r : VecRegs) (v i : Nat) (x : W32) (h : Sparse.wf (0 : W32) r.v = true) : Sparse.wf (0 : W32) (vPut r v i x).v = true :=
  Sparse.wf_set _ _ _ _ h

@[simp] theorem vPut_m (r : VecRegs) (v i : Nat) (x : W32) : (vPut r v i x).m = r.m := rfl
@[simp] theorem vPut_s (r : VecRegs) (v i : Nat) (x : W32) : (vPut r v i x).s = r.s := rfl
@[simp] theorem vPut_vl (r : VecRegs) (v i : Nat) (x : W32) : (vPut r v i x).vl = r.vl := rfl
@[simp] theorem vPut_flags (r : VecRegs) (v i : Nat) (x : W32) : (vPut r v i x).flags = r.flags := rfl
@[simp] theorem vPut_loops (r : VecRegs) (v i : Nat) (x : W32) : (vPut r v i x).loops = r.loops := rfl

/-- s0 reads 0. -/
@[simp] theorem sGet_zero (r : VecRegs) : sGet r 0 = 0 := rfl

/-- A scalar register after a write; s0 takes none. -/
theorem sGet_sPut (r : VecRegs) (i j : Nat) (x : W64) (hi : i < 16) : sGet (sPut r i x) j = if j = i ∧ i ≠ 0 then x else sGet r j := by
  unfold sPut sGet
  by_cases h0 : i = 0
  · simp [h0]
  · by_cases hj : j = 0
    · have : ¬ (0 = i) := fun h => h0 h.symm
      simp [h0, hj, this]
    · by_cases hij : j = i
      · subst hij
        simp [h0, hi]
      · have hij' : ¬ (i = j) := fun h => hij h.symm
        simp [h0, hj, hij, hij']

/-- A mask register after a write. -/
theorem mGet_mPut (r : VecRegs) (i j : Nat) (x : BitVec 256) (hi : i < 8) : mGet (mPut r i x) j = if j = i then x else mGet r j := by
  unfold mPut mGet
  by_cases hij : j = i
  · subst hij
    simp [hi]
  · have hij' : ¬ (i = j) := fun h => hij h.symm
    simp [hij, hij']

/-! ## Writing lanes (R252, R253) -/

/-- The lanes after the first n of them have been written as R253 says. -/
theorem writeLanes_aux (r : VecRegs) (f : BitVec 56) (res : Nat → W32) (n : Nat) (hn : n ≤ 256) (h : Sparse.wf (0 : W32) r.v = true) :
    let t := (List.range n).foldl (fun t i =>
      if laneActive r f i then vPut t (vVd f) i (res i) else if vZm f then vPut t (vVd f) i 0 else t) r
    Sparse.wf (0 : W32) t.v = true ∧ t.m = r.m ∧ t.s = r.s ∧ t.vl = r.vl ∧ t.flags = r.flags ∧ t.loops = r.loops ∧
    ∀ v l, l < 256 → vGet t v l =
      if v = vVd f ∧ l < n then (if laneActive r f l then res l else if vZm f then 0 else vGet r v l) else vGet r v l := by
  induction n with
  | zero => exact ⟨h, rfl, rfl, rfl, rfl, rfl, fun v l _ => by simp⟩
  | succ n ih =>
    obtain ⟨hw, hm, hs, hvl, hfl, hlp, hg⟩ := ih (by omega)
    simp only [List.range_succ, List.foldl_append, List.foldl_cons, List.foldl_nil]
    generalize (List.range n).foldl (fun t i =>
      if laneActive r f i then vPut t (vVd f) i (res i) else if vZm f then vPut t (vVd f) i 0 else t) r = t at hw hm hs hvl hfl hlp hg ⊢
    have key : ∀ x, Sparse.wf (0 : W32) (vPut t (vVd f) n x).v = true ∧
        ∀ v l, l < 256 → vGet (vPut t (vVd f) n x) v l = if v = vVd f ∧ l = n then x else vGet t v l :=
      fun x => ⟨vPut_wf t _ _ x hw, fun v l hl => vGet_vPut t _ _ _ _ x hw (by omega) hl⟩
    have split : ∀ v l, (v = vVd f ∧ l < n + 1) ↔ ((v = vVd f ∧ l = n) ∨ (v = vVd f ∧ l < n)) := by intro v l; omega
    by_cases ha : laneActive r f n = true
    · simp only [ha, if_true]
      refine ⟨(key _).1, hm, hs, hvl, hfl, hlp, fun v l hl => ?_⟩
      rw [(key _).2 v l hl, hg v l hl]
      by_cases e : v = vVd f ∧ l = n
      · simp [e, ha]
      · simp only [split, e, false_or, if_false]
    · simp only [ha, Bool.false_eq_true, if_false]
      by_cases hz : vZm f = true
      · simp only [hz, if_true] at hg ⊢
        refine ⟨(key _).1, hm, hs, hvl, hfl, hlp, fun v l hl => ?_⟩
        rw [(key _).2 v l hl, hg v l hl]
        by_cases e : v = vVd f ∧ l = n
        · simp [e, ha]
        · simp only [split, e, false_or, if_false]
      · simp only [hz, Bool.false_eq_true, if_false] at hg ⊢
        refine ⟨hw, hm, hs, hvl, hfl, hlp, fun v l hl => ?_⟩
        rw [hg v l hl]
        by_cases e : v = vVd f ∧ l = n
        · simp [e, ha]
        · simp only [split, e, false_or]

/-- The destination has its active lanes written, its masked lanes kept or zeroed; every other lane and register stays. -/
theorem writeLanes_lanes (r : VecRegs) (f : BitVec 56) (res : Nat → W32) (h : Sparse.wf (0 : W32) r.v = true) :
    LanesAre r (writeLanes r f res) f res := by
  intro v l _ hl
  have := (writeLanes_aux r f res (min r.vl.toNat 256) (by omega) h).2.2.2.2.2.2 v l hl
  unfold writeLanes lanes
  rw [this]
  have e : (v = vVd f ∧ l < min r.vl.toNat 256) ↔ (v = vVd f ∧ l < r.vl.toNat) := by omega
  simp only [e]

/-- What writeLanes leaves: every register that is no vector register. -/
theorem writeLanes_keeps (r : VecRegs) (f : BitVec 56) (res : Nat → W32) (h : Sparse.wf (0 : W32) r.v = true) :
    Sparse.wf (0 : W32) (writeLanes r f res).v = true ∧ (writeLanes r f res).m = r.m ∧ (writeLanes r f res).s = r.s ∧
    (writeLanes r f res).vl = r.vl ∧ (writeLanes r f res).flags = r.flags ∧ (writeLanes r f res).loops = r.loops := by
  have := writeLanes_aux r f res (min r.vl.toNat 256) (by omega) h
  unfold writeLanes lanes
  exact ⟨this.1, this.2.1, this.2.2.1, this.2.2.2.1, this.2.2.2.2.1, this.2.2.2.2.2.1⟩

/-! ## A legal instruction (R244, R331) -/

/-- A press that stands at an instruction executes it. -/
theorem psStep_at (s : State) (p : Ps) (op : Nat) (f : BitVec 56) (body : State → PressRun → State) (h : unitAt s (.ps p) op f = true) :
    ∃ r, s.presses[p].run = some r ∧ psStep op body p f s = body s r := by
  unfold unitAt at h
  unfold psStep
  dsimp only at h ⊢
  generalize s.presses[p] = x at h ⊢
  cases hr : x.run with
  | none => simp only [hr] at h; cases h
  | some r =>
    refine ⟨r, rfl, ?_⟩
    cases hi : runImage s r with
    | none => simp only [hr, hi] at h; cases h
    | some im =>
      simp only [hr, hi, Bool.and_eq_true, Bool.not_eq_true', decide_eq_true_eq, beq_iff_eq] at h
      obtain ⟨⟨⟨⟨h1, h2⟩, h3⟩, h4⟩, _⟩ := h
      have h3' : ¬ r.pass < 2 := by omega
      simp [hi, h1, h2, h3', h4]

/-- A vector engine that stands at a legal instruction executes it, with the line of the fetch in its cache; VLOOP at two open
loops is the exception (R246). -/
theorem veStep_at (s : State) (c : Tc) (op : Nat) (f : BitVec 56) (body : State → Pt → VeItem → State)
    (h : legalAt s (.ve c) op f = true) (hop : (opClass (fld (vWord op f) 63 56)).isSome = true) (hl : op ≠ 0x03) :
    ∃ k i, s.clusters[c].part = some k ∧ s.clusters[c].ve.run = some i ∧
      veStep op body c f s =
        body (s.modVe c fun v => { v with icache := (fetchVe s.clusters[c] s.parts[k].conf i.pc).cache }) k i := by
  unfold legalAt unitAt at h
  unfold veStep takeLine
  dsimp only at h ⊢
  generalize s.clusters[c] = x at h ⊢
  cases hp : x.part with
  | none => simp only [hp, Bool.false_and] at h; cases h
  | some k =>
    cases hr : x.ve.run with
    | none => simp only [hp, hr, Bool.false_and] at h; cases h
    | some i =>
      simp only [hp, hr, Bool.and_eq_true, Bool.not_eq_true'] at h
      obtain ⟨⟨h1, h2⟩, hv⟩ := h
      unfold fetchGives at h2
      dsimp only at h2 ⊢
      generalize hc : fetchVe x s.parts[k].conf i.pc = g at h2 ⊢
      simp only [Bool.and_eq_true, beq_iff_eq] at h2
      obtain ⟨⟨h2, h3⟩, h4⟩ := h2
      have h4 : (g.miss && !lineSound x (i.pc / 128 * 128)) = false := by
        cases hm : g.miss <;> simp [hm] at h4 ⊢
        exact h4
      refine ⟨k, i, rfl, rfl, ?_⟩
      have hn : (opClass (fld (vWord op f) 63 56)).isNone = false := by
        cases ho : opClass (fld (vWord op f) 63 56) with
        | none => simp [ho] at hop
        | some x => rfl
      simp [h1, h2, h3, h4, hn, hv, hl]
      rw [← hc]
      rfl

end Sys2Proof.Machine
end

