-- ==== Sys2Proof/WellFormed.lean ====
section
/-! DEFINITION. Well-formed commands: the lengths and ranges that the spec gives to what a command carries. The meanings do not
rest on them: `exec` gives every term of `Instr` an outcome. -/

namespace Sys2Proof

/-- An FP32 code that is no NaN and no infinity. -/
def finite32 (w : W32) : Bool := w.toNat / 2 ^ 23 % 256 != 255

/-- The greatest number of compute clocks in a tick: 200 µs at 2,100 MHz (spec/02_meridian_and_scheduling.md R42,
spec/15_power_clocks_thermal.md R694). -/
def tickClocks : Nat := 420000

/-- Regions of a stack, or of the cellar of the full SKU (spec/09_memory_tiers.md R388, R389). -/
def regionsOf (m : Ps) : Nat := if m.1 < 8 then 22888 else 488281

/-- The measurements of a tick: finite readings, 16 bytes of rail status (spec/15_power_clocks_thermal.md R705). -/
def BoundaryIn.wf (b : BoundaryIn) : Bool :=
  finite32 b.meanVolts && finite32 b.meanAmps && finite32 b.meanWatts && finite32 b.hotDie && finite32 b.hotHbm &&
  decide (b.railStatus.length = 16)

/-- A queue of partition k (spec/14_host_registers.md R670). -/
def QRef.belongs (k : Pt) : QRef → Bool
  | .admin => false
  | .ctrl j => j == k
  | .data j _ => j == k

/-- The clocks of a dispatch lie within a tick (spec/02_meridian_and_scheduling.md R54). -/
def SqTime.wf (t : SqTime) : Bool := decide (t.clocksLeft ≤ tickClocks)

/-- A flit carries 224 bytes of payload, of which at most 224 are valid (spec/10_constellation_links.md R433). -/
def Flit.wf (f : Flit) : Bool := decide (f.payload.length = 224 ∧ f.h0.toNat % 256 ≤ 224)

/-- A frame within the largest frame of its transport, and a PATH of twelve hops (spec/13_object_dictionary.md R619, R622). -/
def OdpSrc.frameOk (o : OdpSrc) (bs : Bytes) : Bool :=
  match o with
  | .mgmt .. => decide (bs.length ≤ 1472)
  | .link _ _ _ path => decide (bs.length ≤ 204 ∧ path.length = 12)
  | _ => decide (bs.length ≤ 1024)

/-- An image for the flash: a SHA-384 and an SVN of 0 to 64 (spec/12_keys_lifecycle_boot.md R572, R602). -/
def ImageInfo.wf (i : ImageInfo) : Bool := decide (i.digest.length = 48 ∧ i.svn ≤ 64)

/-- Seed and party keys of 32 bytes (spec/11_confidential_computing.md R518, R519). -/
def JoinAnswerMsg.plainOk (m : JoinAnswerMsg) : Bool :=
  match m.plain with
  | none => true
  | some (seed, keys) => decide (seed.length = 32) && keys.all fun x => decide (x.2.2.length = 32)

/-- An SPDM request: the requester is an ECDSA P-384 public key or none (spec/11_confidential_computing.md R516). -/
def SpdmMsg.wf (m : SpdmMsg) : Bool := decide (m.payload.length ≤ 4096 ∧ (m.requester.length = 0 ∨ m.requester.length = 96))

/-- A host access of up to 8 bytes, with data of that length (spec/14_host_registers.md R653). -/
def Mmio.wf (a : Mmio) : Bool := decide (1 ≤ a.len ∧ a.len ≤ 8 ∧ a.data.toNat < 2 ^ (8 * a.len))

def MmioRead.wf (a : MmioRead) : Bool := decide (1 ≤ a.len ∧ a.len ≤ 8)

/-- The command is well-formed. -/
def Instr.wf : Instr → Bool
  | .tickBoundary b => b.wf
  | .partCreate _ r => decide (r.length = 128)
  | .partDestroyComplete k rings => rings.all fun x => x.1.belongs k
  | .create _ e o => decide (o.length = e.w4.toNat % 2 ^ 32)
  | .seqCtxWrite _ _ ctx => decide (ctx.length = 32)
  | .cachePageRefill _ obj ⟨page, _⟩ => decide (obj < 2 ^ 16 ∧ page < 2 ^ 28)
  | .imageWrite _ _ image => decide (image.length = 4224 ∨ image.length = 20608)
  | .scrubRead m line _ _ => decide (line < 32768 * regionsOf m)
  | .rekeyEngine m region => decide (region < regionsOf m)
  | .rekeyWaitExpiry m region _ => decide (region < regionsOf m)
  | .hello _ m => decide (m.nonce.length = 48 ∧ m.slotMap.length = 32)
  | .cert _ chain _ => decide (chain.length ≤ 8192)
  | .evidence _ m => decide (m.romDigest.length = 48 ∧ m.sfwDigest.length = 48 ∧ m.dfwDigest.length = 48 ∧ m.pubKey.length = 96 ∧
      m.sig.length = 96)
  | .finish _ h _ => decide (h.length = 48)
  | .odpForward _ _ flit => decide (flit.length ≤ 224)
  | .join m => decide (m.sessionId.length = 16 ∧ m.pm.length = 48 ∧ m.pubKey.length = 96)
  | .joinAnswer m => decide (m.sessionId.length = 16) && m.plainOk
  | .recoveryImage o bs i => o.frameOk bs && i.wf
  | .icmpEcho _ d => decide (d.length ≤ 1472)
  | .inputSample v a w => finite32 v && finite32 a && finite32 w
  | .budgetOverrun .. | .partDestroy .. | .destroy .. | .destroyComplete .. | .memAlloc .. | .memAllocComplete ..
  | .memSeal .. | .memFree .. | .cellarCopy .. | .cacheFill .. | .cacheDrop .. | .pressLoad .. | .keyNew ..
  | .keyDestroy .. | .slotSweep | .imp .. | .exp .. | .sessionSeal .. | .sessionSealComplete .. | .sessionClose ..
  | .sqRun .. | .move .. | .unitBegin .. | .unitCapture .. | .unitEnd .. | .unitComplete .. | .unitRetire ..
  | .unitLateRevoke .. | .stepFence .. | .computePhaseEnd .. | .linkGo .. | .release .. | .gateRelease .. | .signal ..
  | .wait .. | .waitTimeout .. | .drain .. | .checkVerdict .. | .imageRead .. | .vnop .. | .vend .. | .vsetvl ..
  | .vloop .. | .vsli .. | .vsadd .. | .vsmul .. | .vfrd .. | .vfclr .. | .vmvs .. | .vmvv .. | .vadd .. | .vsub ..
  | .vmul .. | .vfma .. | .vfnma .. | .vmax .. | .vmin .. | .vabs .. | .vneg .. | .vdiv .. | .vsqrt .. | .vexp2 ..
  | .vlog2 .. | .vadds .. | .vsel .. | .vand .. | .vor .. | .vxor .. | .vshl .. | .vshr .. | .vsra .. | .viota ..
  | .vcvt .. | .vpack .. | .vunpk .. | .vcmpeq .. | .vcmpne .. | .vcmplt .. | .vcmple .. | .vcmpun .. | .vmand ..
  | .vmor .. | .vmxor .. | .vmnot .. | .vmfirstn .. | .vcompress .. | .vexpand .. | .vcidx .. | .vperm ..
  | .vslideup .. | .vslidedn .. | .vbcast .. | .vrsum .. | .vrprod .. | .vrmax .. | .vrmin .. | .vramax .. | .vramin ..
  | .vrcnt .. | .vrmean .. | .vany .. | .vall .. | .vcount .. | .vfirst .. | .vld .. | .vldp .. | .vldr .. | .vldx ..
  | .vst .. | .vstp .. | .vstr .. | .vstx .. | .vstb .. | .vstsr .. | .pld .. | .pmeta .. | .pst .. | .pbody ..
  | .vfact .. | .vsumq .. | .pressPass1Start .. | .pressPass2Start .. | .updatePhaseEnd .. | .pressFault ..
  | .takeover .. | .noticeBatchCut .. | .cellarDeadlineExpiry .. | .cpPortFail .. | .scrubLevelUpdate ..
  | .resendLimit .. | .commitToken .. | .revokeToken .. | .heldExpiry .. | .refuse .. | .messageTimeout ..
  | .linkRekey .. | .signalDetect .. | .trainingLock .. | .trainingTimeout .. | .handshakeTimeout ..
  | .backoffExpiry .. | .lossOfSignal .. | .laneFenced .. | .portThresholdFence .. | .plugInsert .. | .plugRemove ..
  | .lodestarElected | .standbyTakeover | .timeLossUnlock | .selfLodestar | .odpSessionTimeout .. | .changeExpired ..
  | .testDrained | .drainTimeout | .testComplete .. | .arp .. | .mctpControl .. | .droopStretch | .droopRestore ..
  | .powerFault .. | .thermalTrip | .railRestart .. | .refclkLost | .timerefLost | .timerefRestored ..
  | .standbyPowerUp .. | .perstNAssert | .perstNRelease .. | .entropyTestFail | .entropyRestart | .tickIoEdge ..
  | .idcode | .bypass | .samplePreload .. | .extest | .medrielmTest .. | .testLogicReset | .flitCrcFail ..
  | .linkSlotStart .. | .pressPass1End .. | .moveComplete .. | .cellarCopyComplete .. | .cacheFillComplete ..
  | .configSaveComplete | .standbyPowerLoss | .lrefPresent | .tdispAssign .. | .preLockTimeSend => true
  | .mma _ _ t | .estReset _ _ t | .vexec _ _ t | .workItemDispatch _ t => t.wf
  | .idleFlit f | .dataFlit f | .timeFlit f _ | .treeUp ⟨f, _⟩ | .treeDown f | .normFlit f | .widthFlit f
  | .signalFlit f _ _ => f.wf
  | .quench o _ | .liftQuench o | .fence o | .unfence o => o.flit.wf
  | .odpOpen o bs | .odpClose o bs | .odpRead o bs | .odpWrite o bs | .readSeg o bs | .writeSeg o bs | .writeEnd o bs
  | .describe o bs | .echo o bs | .tickPeriodUs o ⟨bs, _⟩ | .configSaveStore o bs | .configSaveErase o bs | .keyDeliver o bs
  | .changeSet o bs | .operatorToken o bs | .sessionApproval o bs | .medrielmToken o bs | .changeAbort o bs
  | .stepNumber o bs | .srSeed o bs | .jobSize o bs _ | .poolQuota o bs | .testRequest o bs _ | .testAbort o ⟨bs, _⟩ => o.frameOk bs
  | .getVersion m | .getCapabilities m | .negotiateAlgorithms m | .getDigests m | .getCertificate m
  | .getMeasurements m | .keyExchange m | .spdmFinish m | .keyUpdate m | .heartbeat m | .endSession m => m.wf
  | .lockKey a | .setAliasWrite a | .clearAliasWrite a | .toggleAliasWrite a | .glbClkOverride a | .scanStart a
  | .tcFence a | .estFreeze a | .lpFence a | .retrain a | .laneFence a | .lpEqCtrl a | .mcScrub a | .prsFence a
  | .faultClear a | .doorbellTail a | .resume a | .flush a _ | .cqHeadDoorbell a | .qcfg a | .stepSize a
  | .syncWindowSignal a | .registerWrite a => a.wf
  | .mcEccCount r | .lpErrCount r => r.wf

end Sys2Proof
end

