-- ==== Sys2Proof/Tests/Slice0.lean ====
section
/-! SUPPORT. The model's own tests: ill-formed commands are refused, small steps give what the spec says, and for every statement a
state and operands that meet its hypotheses. The expected values come from the rules that each test names. -/

namespace Sys2Proof.Tests

open Sys2Proof Sys2Proof.Machine

set_option Elab.async false

/-! ## Small states -/

/-- The module out of reset, with its rails on and its clocks locked. -/
def up : State :=
  { State.reset with
    pins := { State.reset.pins with perst := false }
    power := { State.reset.power with rails := true, pwrgd := true }
    links := { State.reset.links with epoch := 1, locked := true }
    hbs := vmap State.reset.hbs fun h => { h with trained := true } }

/-- A queue with one entry to fetch. -/
def oneEntry : Queue := { Queue.reset with enable := true, log2 := 4, tail := 1 }

/-- An ordinary partition on cluster 0 and stack 0, with one data queue. -/
def part0 : Partition :=
  { Partition.reset with
    state := 1, clusters := 1, hbMask := 1, pool := 0, dataQueues := 1, seqContexts := 1, ctrl := oneEntry,
    data := vmod (Vector.replicate 16 Queue.reset) 0 fun _ => oneEntry }

/-- Partition 0 is p, cluster 0 is c and serves it. -/
def withPart (p : Partition) (c : Cluster) : State :=
  { up with parts := vmod up.parts 0 fun _ => p, clusters := vmod up.clusters 0 fun _ => { c with part := some 0 } }

/-- The state with partition 0. -/
def one : State := withPart part0 Cluster.reset

/-- A queue entry with an opcode, the tag 5 and its operands. -/
def entry (op : Nat) (w2 w3 w4 w5 : W64) : Entry := ⟨BitVec.ofNat 64 (op * 2 ^ 56 + 5), 0, w2, w3, w4, w5, 0, 0⟩

/-- The state with the admin queue's entry to fetch. -/
def adm (s : State) : State := { s with host := { s.host with admin := oneEntry } }

/-- What a command leads to, as a test of the next state. -/
def leads (c : Instr) (s : State) (P : State → Bool) : Bool :=
  match exec c s with
  | .next t => P t
  | _ => false

/-! ## The machine as a whole -/

/-- StepRunsFront, second clause. -/
theorem test_reset_queue_empty : State.reset.pending = [] := rfl

/-- R50: the boundary is the command at the front, and adds 1 to the tick. -/
def quiet : BoundaryIn :=
  { clocks := 0, meanVolts := 0, meanAmps := 0, meanWatts := 0, hotDie := 0, hotHbm := 0, minMarginPs := 0, voutCovers := true,
    partWatts := Vector.replicate 4 0, lugShare := 0, railStatus := List.replicate 16 0, preFec := Vector.replicate 18 0, cellErrors := [] }

theorem test_boundary_ticks : leads (.tickBoundary quiet) up (fun t => t.meridian.tick == 1 && t.pending.isEmpty) = true := by decide +kernel

/-- TickAdvances, both clauses. -/
theorem test_hyp_tick : (up.pins.perst = false ∧ up.power.pwrgd = true ∧ up.change.state ≠ 2) ∧
    (State.reset.pins.perst = true ∨ State.reset.power.pwrgd = false) := by decide +kernel

/-- CommandsKept and OtpBitsStay, StaysCanonical: a state that meets the premises and steps. -/
theorem test_hyp_invariants : Canonical one ∧ IdsFresh one ∧ step one = .next one := by
  refine ⟨by decide +kernel, by decide +kernel, rfl⟩

theorem test_hyp_otp : SubBits one.sc.otp.svnSfw one.sc.otp.svnSfw := by decide +kernel

/-- OnlyTheseCommands: a command that ends in a next state. -/
theorem test_hyp_only : exec .bypass one = .next (match exec .bypass one with | .next t => t | _ => one) := rfl

/-! ## Partitions and setup objects -/

/-- A creation record of partition 1: cluster 0, stack 0, pool 1, one data queue. -/
def record1 : Bytes := [1, 0, 1, 0, 1, 1, 0, 1, 1] ++ List.replicate 119 0

theorem test_hyp_partCreate : Takes (adm up) .admin (entry 0x01 0 0 0 0) 0x01 { w2 := 2 ^ 64 - 1 } ∧ (adm up).links.locked = true ∧
    recordBad (adm up) (slice record1 0 128) = false ∧ recordNoSpace (adm up) (slice record1 0 128) = false ∧ (adm up).sc.esState = 0 ∧
    2 ≤ (freeSlots (adm up)).length ∧ (adm up).change.state = 0 ∧ recConf (slice record1 0 128) = false := by decide +kernel

theorem test_partCreate : leads (.partCreate (entry 0x01 0 0 0 0) record1) (adm up)
    (fun t => t.parts[1].state == 1 && t.clusters[0].part == some 1 && t.host.admin.lastSt == 0) = true := by decide +kernel

/-- R678: a record whose reserved bytes are not 0 is malformed. -/
theorem test_partCreate_bad : leads (.partCreate (entry 0x01 0 0 0 0) (record1.take 127 ++ [1])) (adm up)
    (fun t => t.parts[1].state == 0 && t.host.admin.lastSt == 1) = true := by decide +kernel

theorem test_hyp_partDestroy : Takes (adm one) .admin (entry 0x02 0 0 0 0) 0x02 { w2 := 3 } ∧ (adm one).parts[0].live = true ∧
    (adm one).parts[0].destroying = none ∧ (adm one).parts[0].conf = false := by decide +kernel

def dying : State := withPart { part0 with destroying := some (true, 0) } Cluster.reset

theorem test_hyp_partDestroyComplete : Canonical dying ∧ dying.parts[0].destroying = some (true, 0) ∧ inUpdate dying.parts[0] = false ∧
    dying.change.state = 0 := by decide +kernel

theorem test_partDestroyComplete : leads (.partDestroyComplete 0 []) dying
    (fun t => t.parts[0].state == 0 && t.clusters[0].part == none && t.clusters[1].part == none) = true := by decide +kernel

/-- A sync-object group of object 0 alone. -/
def group1 : Bytes := [0, 0, 1, 0] ++ List.replicate 12 0
def groupObj : SetupObj := { typ := 5, gen := 0, idx := 0, bytes := group1, st := .active }
/-- Partition 0 with that group. -/
def grouped : State := withPart { part0 with objs := [groupObj] } Cluster.reset
def createE (n : Nat) : Entry := entry 0x10 (5 * 2 ^ 60) 0 (BitVec.ofNat 64 n) 0

theorem test_hyp_create : Takes one (.ctrl 0) (createE 16) 0x10 { w2 := 0xF * 2 ^ 60, w3 := 2 ^ 64 - 1, w4 := 2 ^ 32 - 1 } ∧
    typeSize (fld (createE 16).w2 63 60) group1 = some 16 ∧ fld (createE 16).w4 31 0 = 16 ∧ createStatus one 0 5 (slice group1 0 16) = 0 ∧
    freeIndex one.parts[0] 5 = some 0 := by decide +kernel

theorem test_hyp_create_bad : createStatus one 0 5 (List.replicate 16 0) ≠ 0 ∧ fld (createE 15).w4 31 0 ≠ 16 := by decide +kernel

theorem test_hyp_create_reserved : Takes one (.ctrl 0) (entry 0x10 (7 * 2 ^ 60) 0 16 0) 0x10 { w2 := 0xF * 2 ^ 60, w3 := 2 ^ 64 - 1, w4 := 2 ^ 32 - 1 } ∧
    typeSize (fld (entry 0x10 (7 * 2 ^ 60) 0 16 0).w2 63 60) group1 = none := by decide +kernel

theorem test_create : leads (.create 0 (createE 16) group1) one
    (fun t => t.parts[0].objs == [{ groupObj with st := .pending }] && t.parts[0].ctrl.lastSt == 0) = true := by decide +kernel

theorem test_create_no_count : leads (.create 0 (createE 16) (List.replicate 16 0)) one
    (fun t => t.parts[0].objs.isEmpty && t.parts[0].ctrl.lastSt == 1) = true := by decide +kernel

def destroyE : Entry := entry 0x11 (5 * 2 ^ 28) 0 0 0

theorem test_hyp_destroy : Takes grouped (.ctrl 0) destroyE 0x11 { w2 := 2 ^ 32 - 1 } ∧
    liveObj grouped 0 (BitVec.ofNat 32 (fld destroyE.w2 31 0)) = some groupObj := by decide +kernel

theorem test_destroy : leads (.destroy 0 destroyE) grouped (fun t => t.parts[0].objs == [{ groupObj with st := .destroyed }]) = true := by
  decide +kernel

/-- A DESTROY of the group that waits. -/
def destroying1 : Pending := { id := 0, q := .ctrl 0, e := destroyE, items := [], wait := .destroy (BitVec.ofNat 32 (5 * 2 ^ 28)) [] }
def waitsDestroy : State := withPart { part0 with objs := [{ groupObj with st := .destroying }], inflight := [destroying1] } Cluster.reset

theorem test_hyp_destroyComplete : (waitsDestroy.parts[0].inflight.find? (fun q => match q.wait with
      | .destroy g _ => g == BitVec.ofNat 32 (5 * 2 ^ 28)
      | _ => false)) = some destroying1 ∧ stillUsed waitsDestroy 0 (BitVec.ofNat 32 (5 * 2 ^ 28)) [] = false ∧
    (objOf waitsDestroy.parts[0] (BitVec.ofNat 32 (5 * 2 ^ 28))).isSome = true := by decide +kernel

theorem test_destroyComplete : leads (.destroyComplete (BitVec.ofNat 32 (5 * 2 ^ 28))) waitsDestroy
    (fun t => t.parts[0].objs == [{ groupObj with st := .destroyed }] && t.parts[0].inflight.isEmpty) = true := by decide +kernel

theorem test_hyp_seqCtxWrite : Takes one (.ctrl 0) (entry 0x12 0 0 0 0) 0x12 { w2 := 0x3F, w3 := 2 ^ 64 - 1 } := by decide +kernel

/-- R189: a context with RLEN 1 is taken for the next boundary; RLEN 0 is rejected. -/
theorem test_seqCtxWrite : leads (.seqCtxWrite 0 (entry 0x12 0 0 0 0) (1 :: List.replicate 31 0)) one
    (fun t => t.seqs[0].next == some (1 :: List.replicate 31 0)) = true ∧
    leads (.seqCtxWrite 0 (entry 0x12 0 0 0 0) (List.replicate 32 0)) one (fun t => t.seqs[0].next == none && t.parts[0].ctrl.lastSt == 1) = true := by
  decide +kernel

/-! ## Memory objects, the cellar and keys -/

/-- Object 1: one region at the start of stack 0. -/
def obj1 : MemObj :=
  { obj := 1, place := 0, stack := 0, hbmBase := some 0, celBase := none, regions := 1, metaBase := none, metaRegs := 0, celMeta := none,
    writable := false, pin := false, keyId := 0, sealed := false, code := false, st := .usable, lastUse := 0, pages := [], fetching := [], oldRuns := [] }

/-- Partition 0 with object o, a quota of 4 regions on every stack and in the cellar; the cellar is up. -/
def stored (p : Partition) (o : List MemObj) : State :=
  let s := withPart { p with mem := o, cellarQuota := 4 } Cluster.reset
  { s with pools := vmod s.pools 0 fun q => { q with quota := Vector.replicate 8 4 }, cellar := { s.cellar with up := true, attested := true } }

def allocE : Entry := entry 0x18 1 0 0 0
def allocCellarE : Entry := entry 0x18 (2 ^ 62 + 1) 0 0 0

theorem test_hyp_memAlloc : Takes (stored part0 []) (.ctrl 0) allocE 0x18 { w2 := 0x1FF * 2 ^ 55 + 0x7F * 2 ^ 48 + 0x7FFF } ∧
    maPlace allocE = 0 ∧ maRegions allocE = 1 ∧ bit (stored part0 []).parts[0].hbMask (maStack allocE).1 = true ∧
    hbPresent (stored part0 []) (maStack allocE).1 = true ∧ (stored part0 []).hbs[maStack allocE].fenced = false ∧
    allocKeyOk (stored part0 []) 0 (maKey allocE) = true ∧ freeObj (stored part0 []).parts[0] = some 1 ∧ maKey allocE = 0 ∧
    (match placeOn (stored part0 []) 0 (maStack allocE) 1 0 with | .at_ 0 none [] => true | _ => false) = true := by decide +kernel

theorem test_memAlloc : leads (.memAlloc 0 allocE) (stored part0 [])
    (fun t => t.parts[0].mem == [{ obj1 with st := .clearing }]) = true := by decide +kernel

/-- R403: with a quota of 0 there is no place. -/
theorem test_memAlloc_quota : leads (.memAlloc 0 allocE) one (fun t => t.parts[0].mem.isEmpty && t.parts[0].ctrl.lastSt != 0) = true := by
  decide +kernel

theorem test_hyp_memAlloc_cellar : Takes (stored part0 []) (.ctrl 0) allocCellarE 0x18 { w2 := 0x1FF * 2 ^ 55 + 0x7F * 2 ^ 48 + 0x7FFF } ∧
    maPlace allocCellarE = 1 ∧ maKey allocCellarE = 0 ∧ maRegions allocCellarE = 1 ∧ freeObj (stored part0 []).parts[0] = some 1 ∧
    cellarUse (stored part0 []).parts[0] + 1 ≤ (stored part0 []).parts[0].cellarQuota.toNat ∧
    lowestRun (cellarHeld (stored part0 [])) (cellarRegions (stored part0 [])) 1 = some 0 := by decide +kernel

def allocating : Pending := { id := 0, q := .ctrl 0, e := allocE, items := [], wait := .memAlloc 1 0 }
/-- The object is being cleared, and byte 0 of its region holds 7. -/
def clearing1 : State :=
  let s := stored { part0 with inflight := [allocating] } [{ obj1 with st := .clearing }]
  s.modStack 0 fun h => { h with mem := [(0, 7), (2097152, 9)] }

theorem test_hyp_memAllocComplete : Canonical clearing1 ∧
    waitingAs clearing1 0 5 (fun w => match w with | .memAlloc .. => true | _ => false) = some allocating ∧ allocating.wait = .memAlloc 1 0 ∧
    (0 : W64) ≤ clearing1.meridian.tick ∧ memObj clearing1.parts[0] 1 = some { obj1 with st := .clearing } := by decide +kernel

/-- R395: the region reads 0, the byte behind it stays. -/
theorem test_memAllocComplete : leads (.memAllocComplete 0 5) clearing1
    (fun t => t.parts[0].mem == [{ obj1 with st := .ready }] && t.hbs[0].mem == [(2097152, 9)]) = true := by decide +kernel

def sealE : Entry := entry 0x19 1 0 0 0
def freeE : Entry := entry 0x1A 1 0 0 0

theorem test_hyp_memSeal : Takes (stored part0 [obj1]) (.ctrl 0) sealE 0x19 { w2 := 0xFFFF } ∧
    namedObj (stored part0 [obj1]) 0 (objField sealE.w2) = some obj1 ∧ obj1.place = 0 ∧ obj1.writable = false ∧ obj1.sealed = false ∧
    objLocked (stored part0 [obj1]) 0 obj1 = false ∧ (stored part0 [obj1]).parts[0].conf = false := by decide +kernel

theorem test_memSeal : leads (.memSeal 0 sealE) (stored part0 [obj1]) (fun t => t.parts[0].mem == [{ obj1 with sealed := true }]) = true := by
  decide +kernel

theorem test_hyp_memFree : Takes (stored part0 [obj1]) (.ctrl 0) freeE 0x1A { w2 := 0xFFFF } ∧
    namedObj (stored part0 [obj1]) 0 (objField freeE.w2) = some obj1 ∧ obj1.code = false := by decide +kernel

theorem test_memFree : leads (.memFree 0 freeE) (stored part0 [obj1]) (fun t => t.parts[0].mem == [{ obj1 with st := .freeing }]) = true := by
  decide +kernel

theorem test_hyp_noObject : Takes one (.ctrl 0) sealE 0x19 { w2 := 0xFFFF } ∧ Takes one (.ctrl 0) freeE 0x1A { w2 := 0xFFFF } ∧
    namedObj one 0 (objField sealE.w2) = none ∧ namedObj one 0 (objField freeE.w2) = none := by decide +kernel

/-- A CACHED object with its copy: page 0 is valid. -/
def objC : MemObj := { obj1 with place := 2, celBase := some 0, pages := [0] }
def cached (o : MemObj) : State := stored part0 [o]

theorem test_hyp_cacheFill : Takes (cached objC) (.ctrl 0) (entry 0x1C 1 0 0 0) 0x1C { w2 := 2 ^ 63 + 0xFFFF } ∧
    bit (entry 0x1C 1 0 0 0).w2 63 = false ∧ namedObj (cached objC) 0 1 = some objC ∧ objC.place = 2 ∧ objC.hbmBase.isSome = true ∧
    objC.st = .usable := by decide +kernel

theorem test_cacheFill : leads (.cacheFill 0 (entry 0x1C 1 0 0 0)) (cached objC) (fun t => t.parts[0].mem == [{ objC with pages := [] }]) = true := by
  decide +kernel

theorem test_hyp_cacheDrop : Takes (cached objC) (.ctrl 0) (entry 0x1D 1 0 0 0) 0x1D { w2 := 0xFFFF } ∧
    namedObj (cached objC) 0 1 = some objC ∧ objLocked (cached objC) 0 objC = false := by decide +kernel

theorem test_cacheDrop : leads (.cacheDrop 0 (entry 0x1D 1 0 0 0)) (cached objC)
    (fun t => t.parts[0].mem == [{ objC with hbmBase := none, pages := [] }]) = true := by decide +kernel

def filling : Pending := { id := 0, q := .ctrl 0, e := entry 0x1C 1 0 0 0, items := [], wait := .cacheFill 1 false 0 }
def fills : State := stored { part0 with inflight := [filling] } [objC]

theorem test_hyp_cacheFillComplete : waitingAs fills 0 5 (fun w => match w with | .cacheFill .. => true | _ => false) = some filling ∧
    filling.wait = .cacheFill 1 false 0 ∧ (0 : W64) ≤ fills.meridian.tick ∧ memObj fills.parts[0] 1 = some objC ∧
    fills.stalled.contains (.fill 0 ⟨5, [], [], []⟩) = false := by decide +kernel

theorem test_hyp_admits : admits (stored part0 []) 0 = true ∧ admits fills 0 = true := by decide +kernel

theorem test_cacheFillComplete : leads (.cacheFillComplete 0 ⟨5, [], [], []⟩) fills (fun t => t.parts[0].inflight.isEmpty) = true := by decide +kernel

/-- Page 3 is on its way; a notice has named page 4 meanwhile. -/
def objF : MemObj := { objC with pages := [], fetching := [⟨3, true, 2⟩, ⟨4, false, 2⟩] }
/-- The cellar ports carry its refills. -/
def cellarOn (s : State) : State := { s with cellar := { s.cellar with cpUp := 1 } }
def refilling : State := cellarOn (cached objF)

theorem test_hyp_refill_noticed : admits refilling 0 = true ∧ memObj refilling.parts[0] 1 = some objF ∧
    (objF.fetching.find? fun x => x.page == 4) = some ⟨4, false, 2⟩ := by decide +kernel

theorem test_hyp_refill : (objF.fetching.find? fun x => x.page == 3) = some ⟨3, true, 2⟩ ∧ refilling.meridian.tick < 2 ∧ cellarDown refilling = false ∧
    objF.hbmBase = some 0 ∧ objF.celBase = some 0 ∧
    copyWaits (modObj refilling 0 1 fun x => { x with fetching := x.fetching.filter fun y => y.page != 3 }) 0 1 (4096 * 3) 4096 = false ∧
    (fillLines 0 { objF with fetching := [⟨4, false, 2⟩] } 0 0 3 (List.range 64)
      (modObj refilling 0 1 fun x => { x with fetching := x.fetching.filter fun y => y.page != 3 })).2 = 0 := by decide +kernel

theorem test_refill : leads (.cachePageRefill 0 1 ⟨3, false⟩) refilling
    (fun t => t.parts[0].mem == [{ objF with pages := [3], fetching := [⟨4, false, 2⟩] }]) = true := by decide +kernel

theorem test_refill_noticed : leads (.cachePageRefill 0 1 ⟨4, false⟩) refilling
    (fun t => t.parts[0].mem == [{ objF with fetching := [⟨3, true, 2⟩] }]) = true := by decide +kernel

/-- R417: a page for which the CC reports an error does not become valid. -/
theorem test_refill_error : leads (.cachePageRefill 0 1 ⟨3, true⟩) refilling
    (fun t => t.parts[0].mem == [{ objF with fetching := [⟨4, false, 2⟩] }]) = true := by decide +kernel

/-- Object 1 is in the cellar, object 2 on stack 0, and byte 3 of object 2 holds 0x5A. -/
def objD : MemObj := { obj1 with place := 1, hbmBase := none, celBase := some 0 }
def copySrc : Nat := bankLoc (hbBank 0) regionBytes
def copyE : Entry := entry 0x1B 1 (BitVec.ofNat 64 copySrc) 64 4096
def copies (fl : List Pending) : State :=
  (cellarOn (stored { part0 with inflight := fl } [objD, { obj1 with obj := 2, hbmBase := some 1 }])).modStack 0
    fun h => { h with mem := [(regionBytes + 3, 0x5A)] }

theorem test_hyp_cellarCopy : IdsFresh (copies []) ∧
    Takes (copies []) (.ctrl 0) copyE 0x1B { w2 := 0xFFFF, w3 := 2 ^ 52 - 1, w4 := 2 ^ 64 - 1, w5 := 2 ^ 32 - 1 } ∧
    namedObj (copies []) 0 (objField copyE.w2) = some objD ∧ objD.place ≠ 0 ∧ fld copyE.w5 31 0 % 4096 = 0 ∧
    copyE.w4.toNat + fld copyE.w5 31 0 ≤ objD.regions * regionBytes ∧ addrLoc (fld copyE.w3 51 0) < 2 ^ 40 ∧ objD.st = .usable ∧
    copyBad (copies []) 0 objD (fld copyE.w3 51 0) copyE.w4.toNat (fld copyE.w5 31 0) = none := by decide +kernel

def copying : Pending := { id := 0, q := .ctrl 0, e := copyE, items := [], wait := .cellarCopy 1 (BitVec.ofNat 52 copySrc) 64 64 }

theorem test_hyp_cellarCopyComplete : Canonical (copies [copying]) ∧
    waitingAs (copies [copying]) 0 5 (fun w => match w with | .cellarCopy .. => true | _ => false) = some copying ∧
    memObj (copies [copying]).parts[0] 1 = some objD ∧ objD.keyId = 0 ∧ copyBad (copies [copying]) 0 objD copySrc 64 64 = none ∧
    cellarServesPart (copies [copying]) 0 = true ∧ cellarFree (copies [copying]) = true ∧
    wouldStall (copies [copying]) (bankLoc cellarBank 64) 64 = false ∧
    (readPiece (copies [copying]) 0 0 (addrLoc copySrc) 64).1.st = 0 := by decide +kernel

theorem test_hyp_cellarCopyComplete_plain : admits (copies [copying]) 0 = true ∧ addrLoc copySrc + 64 ≤ 2 ^ 40 ∧
    (copies [copying]).stalled.contains (.copy 0 5) = false ∧
    addrKey copySrc = 0 ∧ touchedBits (copies [copying]) cellarBank 64 64 = [] ∧ addrLoc copySrc % 64 = 0 := by
  decide +kernel

/-- R399: the byte of the source lands at its offset in the cellar. -/
theorem test_cellarCopyComplete : leads (.cellarCopyComplete 0 5) (copies [copying])
    (fun t => t.cellar.mem == [(67, 0x5A)] && t.parts[0].inflight.isEmpty) = true := by decide +kernel

/-- Slot 32 is the partition's master, slot 33 a memory slot of it. -/
def keyed : State :=
  let s := withPart { part0 with pmkSlot := some 32 } Cluster.reset
  let root : KeySlot := ⟨true, 32, 3, 0, 0, 0xFF, 0xFF, 0xFF, 0, 0, List.replicate 32 1⟩
  let m : KeySlot := ⟨true, 32, 0, 0, 0, 0x0C, 0xFF, 0xFF, 7, 0, List.replicate 32 2⟩
  { s with sc := { s.sc with keys := { s.sc.keys with slots := [(32, root), (33, m)] } } }

def keyNewE : Entry := entry 0x28 (BitVec.ofNat 64 (8 * 2 ^ 56 + 0x0C * 2 ^ 36 + 0x20 * 2 ^ 28)) 0 0 0

theorem test_hyp_keyNew : Takes keyed (.ctrl 0) keyNewE 0x28 { w2 := 0xFF * 2 ^ 56 + 0xFFFF * 2 ^ 28 } ∧ keyed.parts[0].conf = false ∧
    fld keyNewE.w2 63 56 ≠ 0 ∧ keyed.parts[0].pmkSlot = some 32 ∧ slotLive keyed 32 = true ∧ (slot keyed 32).usage = 3 ∧
    BitVec.ofNat 8 (fld keyNewE.w2 43 36) &&& ~~~(slot keyed 32).masters = 0 ∧ BitVec.ofNat 8 (fld keyNewE.w2 35 28) &&& ~~~(slot keyed 32).lcMask = 0 ∧
    (freeSlots keyed).head?.isSome = true := by decide +kernel

def keyDestroyE : Entry := entry 0x29 33 0 0 0

theorem test_hyp_keyDestroy : Canonical keyed ∧ Takes keyed (.ctrl 0) keyDestroyE 0x29 { w2 := 0x3FF } ∧ keyed.parts[0].conf = false ∧
    (slot keyed 33).valid = true ∧ (slot keyed 33).part.toNat = 0 ∧ (slot keyed 33).usage = 0 ∧ (slot keyed 33).keyId ≠ 0 := by decide +kernel

theorem test_keyDestroy : leads (.keyDestroy 0 keyDestroyE) keyed
    (fun t => !(slot t 33).valid && (slot t 32).valid && t.sc.keys.dying == [33]) = true := by decide +kernel

def swept : State := { keyed with sc := { keyed.sc with keys := { keyed.sc.keys with dying := [33] } } }

theorem test_hyp_slotSweep : Canonical swept ∧ swept.sc.keys.dying ≠ [] ∧ (∀ m : Ps, ∀ e ∈ (bank swept m).rekeys, e.waiting = false) ∧ NothingHeld swept := by
  decide +kernel

theorem test_slotSweep : leads .slotSweep swept (fun t => (slot t 33).key.isEmpty && (slot t 32).valid && t.sc.keys.dying.isEmpty) = true := by
  decide +kernel

/-- Object 1 holds an image of one VNOP (R334): 72 bytes, one instruction, no region. -/
def imaged : State := (stored part0 [obj1]).modStack 0 fun h => { h with mem := [(0, 72), (4, 1)] }
def pressE : Entry := entry 0x20 1 (BitVec.ofNat 64 (bankLoc (hbBank 0) 0)) 0 0
def loadIn : LoadIn := { e := pressE, late := false, ccError := false }

theorem test_hyp_pressLoad : admits imaged 0 = true ∧ Takes imaged (.ctrl 0) pressE 0x20 { w2 := 0x1FF, w3 := 2 ^ 52 - 1 } ∧
    (let u := taken imaged (.ctrl 0)
     let units := allPss.filter fun p => bit pressE.w2 p.1
     let addr := fld pressE.w3 51 0
     let h := imageRead u 0 1 loadIn addr 64
     let r := imageRead h.s 0 1 loadIn addr 72
     numAt (h.bs.map (·.1)) 0 4 = 72 ∧ units.all (pressPresent imaged) = true ∧ imaged.parts[0].conf = false ∧ h.st = 0 ∧ r.st = 0 ∧
     (match imageOf (r.bs.map (·.1)) with | some im => units.all (imageOkOn r.s 0 im) | none => false) = true) := by decide +kernel

theorem test_pressLoad : leads (.pressLoad 0 loadIn) imaged
    (fun t => t.presses[0].slots[0].pending.isSome && t.presses[0].slots[0].active.isNone && t.presses[1].slots[0].pending.isNone) = true := by
  decide +kernel

/-- R93: a quench of the partition holds the load. -/
def imagedHeld : State := imaged.modPart 0 fun p => { p with quenched := true }

theorem test_hyp_pressLoad_held : IdsFresh imagedHeld ∧ Takes imagedHeld (.ctrl 0) pressE 0x20 { w2 := 0x1FF, w3 := 2 ^ 52 - 1 } ∧
    admits imagedHeld 0 = false ∧ imagedHeld.parts[0].conf = false ∧
    (allPss.filter fun p => bit pressE.w2 p.1).all (pressPresent imagedHeld) = true := by decide +kernel

theorem test_pressLoad_held : leads (.pressLoad 0 loadIn) imagedHeld
    (fun t => t.parts[0].inflight.map (·.wait) == [.blocked] && t.presses[0].slots[0].pending.isNone) = true := by decide +kernel

/-! ## Confidential sessions -/

/-- A manifest of session 9 whose anchor is device 0xFFFF, the device of these states, with one party in role r. -/
def manifest1 (anchor : Byte) (r : Byte) : Bytes :=
  9 :: List.replicate 15 0 ++ [1, 5, 1, 1] ++ List.replicate 4 0 ++ [anchor, anchor] ++ [0, 0, 64, 0] ++ List.replicate 226 0 ++
  r :: List.replicate 103 0

/-- A policy with a budget of 4096 bytes a step and 8192 a session and one entry: REL_ID 0, one element, grid 0, no clip, no noise;
`q` is its quorum. -/
def policy1 (q : Byte) : Bytes :=
  [1, q, 0, 0, 0, 16, 0, 0, 0, 32] ++ List.replicate 22 0 ++ [0, 0, 0, 0, 1] ++ List.replicate 27 0

/-- A session in state n; slot 32 is its master. -/
def session1 (n : BitVec 3) (anchor r q : Byte) : Session :=
  { Session.reset with state := n, manifest := manifest1 anchor r, policy := policy1 q, smkSlot := some 32 }

/-- Partition 0 is confidential with that session; slot 33 holds the wrap key of party 0. -/
def secret (x : Session) (fl : List Pending) (o : List MemObj) : State :=
  let s := stored { part0 with state := 2, session := x, inflight := fl, ckptObj := [1] } o
  let root : KeySlot := ⟨true, 32, 3, 0, 0, 0xFF, 0xFF, 0xFF, 0, 0, List.replicate 32 1⟩
  let m : KeySlot := ⟨true, 32, 2, 1, 0, 0x04, 0xFF, 0, 0, 0, List.replicate 32 2⟩
  { s with sc := { s.sc with keys := { s.sc.keys with slots := [(32, root), (33, m)] } } }

theorem test_hyp_seal : IdsFresh (secret (session1 1 0xFF 1 0) [] []) ∧ Takes (secret (session1 1 0xFF 1 0) [] []) (.ctrl 0) (entry 0x38 0 0 0 0) 0x38 {} ∧
    (secret (session1 1 0xFF 1 0) [] []).parts[0].conf = true ∧ (secret (session1 1 0xFF 1 0) [] []).parts[0].session.state = 1 := by decide +kernel

theorem test_seal : leads (.sessionSeal 0 (entry 0x38 0 0 0 0)) (secret (session1 1 0xFF 1 0) [] [])
    (fun t => t.parts[0].inflight.map (·.wait) == [.sessionSeal false] && t.parts[0].session.state == 1) = true := by decide +kernel

def sealing : Pending := { id := 0, q := .ctrl 0, e := entry 0x38 0 0 0 0, items := [], wait := .sessionSeal true }

theorem test_hyp_sealComplete :
    ((secret (session1 1 0xFF 1 0) [sealing] []).parts[0].inflight.find? fun x => match x.wait with | .sessionSeal due => due | _ => false) = some sealing ∧
    imagePending (secret (session1 1 0xFF 1 0) [sealing] []) 0 = false ∧ isAnchor (secret (session1 1 0xFF 1 0) [sealing] []) 0 = true ∧
    roundStopped (secret (session1 1 0xFF 1 0) [sealing] []) = false ∧ isAnchor (secret (session1 1 1 1 0) [sealing] []) 0 = false ∧
    (secret (session1 1 1 1 0) [sealing] []).sc.esState = 0 := by decide +kernel

/-- R514: the budgets of the policy open; a device that is not the anchor sends SESSION_JOIN (R519). -/
theorem test_sealComplete : leads (.sessionSealComplete 0) (secret (session1 1 1 1 0) [sealing] [])
    (fun t => t.parts[0].session.state == 2 && t.parts[0].session.stepLeft == 4096 && t.parts[0].session.totalLeft == 8192 && t.dict.joinOut.length == 1) = true := by
  decide +kernel

theorem test_hyp_close : Takes (adm (secret (session1 2 0xFF 1 0) [] [])) .admin (entry 0x39 0 0 0 0) 0x39 { w2 := 3 } ∧
    sessionOpen (adm (secret (session1 2 0xFF 1 0) [] [])) 0 = true ∧
    Takes (secret (session1 2 0xFF 1 0) [] []) (.ctrl 0) (entry 0x39 0 0 0 0) 0x39 {} := by decide +kernel

theorem test_close : leads (.sessionClose (.ctrl 0) (entry 0x39 0 0 0 0)) (secret (session1 2 0xFF 1 0) [] [])
    (fun t => t.parts[0].session.closing && t.parts[0].session.state == 2) = true := by decide +kernel

def closing1 : State := (secret { session1 2 1 1 0 with closing := true } [] []).modCluster 0 fun c => { c with spad := [(3, 7)] }

theorem test_hyp_closing : Canonical closing1 ∧ closing1.parts[0].session.closing = true ∧ sessionOpen closing1 0 = true := by decide +kernel

/-- R523: the scratchpad is zero and the slots are gone. -/
theorem test_closing : ((closeSession closing1 0).parts[0].session.state == 4 && (closeSession closing1 0).clusters[0].spad.isEmpty &&
    !(slot (closeSession closing1 0) 33).valid) = true := by decide +kernel

def joinMsg : JoinMsg := { src := 4, sessionId := 9 :: List.replicate 15 0, pm := List.replicate 48 0, pubKey := List.replicate 96 0, sigOk := true }

theorem test_hyp_join : partOfSession (secret (session1 2 0xFF 1 0) [] []) joinMsg.sessionId = some 0 ∧ isAnchor (secret (session1 2 0xFF 1 0) [] []) 0 = true ∧
    (secret (session1 2 0xFF 1 0) [] []).parts[0].session.state = 2 ∧ joinMsg.pm = (secret (session1 2 0xFF 1 0) [] []).parts[0].session.pm ∧
    joinMsg.sigOk = true ∧ (secret (session1 2 0xFF 1 0) [] []).sc.esState = 0 := by
  decide +kernel

theorem test_join : leads (.join joinMsg) (secret (session1 2 0xFF 1 0) [] []) (fun t => t.parts[0].session.peers == [4] && t.dict.joinOut.length == 1) = true := by
  decide +kernel

def joinAns : JoinAnswerMsg := { sessionId := 9 :: List.replicate 15 0, plain := some (List.replicate 32 6, []) }

theorem test_hyp_joinAnswer : partOfSession (secret (session1 2 1 1 0) [] []) joinAns.sessionId = some 0 ∧
    joinAns.plain = some (List.replicate 32 6, []) ∧ isAnchor (secret (session1 2 1 1 0) [] []) 0 = false ∧
    (secret (session1 2 1 1 0) [] []).parts[0].session.state = 2 ∧ (secret (session1 2 1 1 0) [] []).parts[0].session.joined = false := by decide +kernel

/-- A staging object with one record of 64 bytes for party 0, whose tag verifies under the wrap key (R520). -/
def recordHead : Bytes := leBytes 4 0x52463856 ++ [1, 0, 0, 0] ++ leBytes 8 1 ++ leBytes 4 64 ++ List.replicate 44 0
def wrapKey : Bytes := List.replicate 32 2
def recordMem : Memory := Memory.writeBytes [] regionBytes
  (recordHead ++ List.replicate 64 0 ++ gcmTag wrapKey (List.replicate 12 0) recordHead (List.replicate 64 0))
/-- Object 1 of the custodian's checkpoint in region 0 and the staging object 2 in regions 1 and 2. -/
def obj2 : MemObj := { obj1 with obj := 2, hbmBase := some 1, regions := 2 }
def staged : State := (secret (session1 3 0xFF 3 0) [] [obj1, obj2]).modStack 0 fun h => { h with mem := recordMem }
def stageBase : Nat := bankLoc (hbBank 0) regionBytes

theorem test_hyp_importOne :
    let r := readRange staged 0 stageBase 64
    let h := r.bs.map (·.1)
    let x := readRange r.s 0 (stageBase + 64) 80
    let bs := x.bs.map (·.1)
    r.st = 0 ∧ numAt h 0 4 ≠ 0 ∧ numAt h 16 4 = 64 ∧ recordOk h 0 regionBytes none = true ∧ 80 + 64 ≤ regionBytes ∧ x.st = 0 ∧
    gcmTag wrapKey (slice h 32 12) h (bs.take 64) = bs.drop 64 := by decide +kernel

theorem test_hyp_anchor : admits staged 0 = true ∧ isAnchor staged 0 = true ∧ sessionOpen staged 0 = true ∧ custodian staged.parts[0].session.manifest = some 0 ∧
    wrapSlot staged 0 0 = some 33 ∧ slotUsable staged 33 2 2 = true ∧ importInto staged 0 0 obj1 = true ∧
    staged.parts[0].ckptObj.contains obj1.obj = true ∧ staged.sc.esState = 0 := by decide +kernel

/-- Every piece of object o may pass in both directions. -/
theorem staged_range (o : MemObj) (ho : o = obj1 ∨ o = obj2) (b : Nat) (hb : objBase o = some b) (write : Bool) :
    checkRange (taken staged (.ctrl 0)) 0 2 b (objBytes o) write = 0 := by
  have hmem : (taken staged (.ctrl 0)).parts[(0 : Pt)].mem = [obj1, obj2] := by decide +kernel
  have hun : (taken staged (.ctrl 0)).parts[(0 : Pt)].units = [] := by decide +kernel
  have hup : inUpdate (taken staged (.ctrl 0)).parts[(0 : Pt)] = false := by decide +kernel
  have hpl : ∀ w, plainOk (taken staged (.ctrl 0)).parts[(0 : Pt)] o 2 w = true := by rcases ho with rfl | rfl <;> decide +kernel
  have hpr : hbPresent (taken staged (.ctrl 0)) 0 = true := by decide +kernel
  have hf : (taken staged (.ctrl 0)).hbs[(0 : Hb)].fenced = false := by decide +kernel
  have hrl : ∀ l n, replayLocked (taken staged (.ctrl 0)).parts[(0 : Pt)] l n = false := by intro l n; unfold replayLocked; rw [hun]; rfl
  have hul : ∀ l n, updateLocked (taken staged (.ctrl 0)) 0 l n = false := by intro l n; unfold updateLocked; rw [hup]; rfl
  have hbase : (o = obj1 ∧ b = 0) ∨ (o = obj2 ∧ b = 2097152) := by
    rcases ho with rfl | rfl
    · exact .inl ⟨rfl, (Option.some.inj (hb.symm.trans (by decide : objBase obj1 = some 0)))⟩
    · exact .inr ⟨rfl, (Option.some.inj (hb.symm.trans (by decide : objBase obj2 = some 2097152)))⟩
  have hkey : addrKey b = 0 ∧ addrLoc b = b := by rcases hbase with ⟨_, rfl⟩ | ⟨_, rfl⟩ <;> decide
  have hlen : (o = obj1 ∧ objBytes o = 2097152) ∨ (o = obj2 ∧ objBytes o = 4194304) := by
    rcases ho with rfl | rfl <;> decide
  refine checkRange_zero _ _ _ _ _ _ fun a n h1 h2 hn => ?_
  rw [hkey.2] at h1 h2
  rw [hkey.1]
  generalize taken staged (.ctrl 0) = s at *
  have ha : a < 6291456 ∧ ((o = obj1 ∧ a / 2097152 = 0) ∨ (o = obj2 ∧ (a / 2097152 = 1 ∨ a / 2097152 = 2))) := by
    rcases hbase with ⟨rfl, rfl⟩ | ⟨rfl, rfl⟩
    · have := hlen.resolve_right (by simp [obj1, obj2])
      exact ⟨by omega, .inl ⟨rfl, by omega⟩⟩
    · have := hlen.resolve_left (by simp [obj1, obj2])
      exact ⟨by omega, .inr ⟨rfl, by omega⟩⟩
  refine checkPiece_hbm s 0 2 a n write 0 a o ?_ hf ?_ (by rcases ho with rfl | rfl <;> rfl) (hpl write) fun _ =>
    ⟨by rcases ho with rfl | rfl <;> rfl, hrl _ _, .inr (hul _ _)⟩
  · have := locate_hbm s 0 a (by unfold regionBytes; omega) hpr
    simpa using this
  · unfold objInHbm
    rw [hmem]
    rcases ha.2 with ⟨rfl, h⟩ | ⟨rfl, h | h⟩ <;> simp [obj1, obj2, inRange, regionBytes, h]

def impE : Entry := entry 0x30 0 2 1 0
def expE : Entry := entry 0x31 1 2 0 0

/-- ImportExportRelease: IMPORT of object 2 into object 1, EXPORT of object 1 into object 2. -/
theorem test_hyp_imp : Takes staged (.ctrl 0) impE 0x30 { w2 := 0xFF, w3 := 0xFFFF, w4 := 0xFFFF } ∧
    Takes staged (.ctrl 0) expE 0x31 { w2 := 0xFFFF, w3 := 0xFFFF } ∧
    namedObj staged 0 (objField impE.w3) = some obj2 ∧ namedObj staged 0 (objField impE.w4) = some obj1 ∧ fld impE.w2 7 0 = 0 ∧
    namedObj staged 0 (objField expE.w2) = some obj1 ∧ namedObj staged 0 (objField expE.w3) = some obj2 ∧
    objBase obj2 = some stageBase ∧ objBase obj1 = some 0 ∧ obj2.keyId = 0 ∧ 0 < manParties staged.parts[0].session.manifest ∧
    wouldStall staged 0 (objBytes obj1) = false ∧ importInto (taken staged (.ctrl 0)) 0 0 obj1 = true ∧
    objBytes obj1 + 80 * ((objBytes obj1 + 2 ^ 20 - 1) / 2 ^ 20) ≤ objBytes obj2 := by decide +kernel

theorem test_hyp_imp_ranges (w : Bool) : checkRange (taken staged (.ctrl 0)) 0 2 stageBase (objBytes obj2) w = 0 ∧
    checkRange (taken staged (.ctrl 0)) 0 2 0 (objBytes obj1) w = 0 :=
  ⟨staged_range obj2 (.inr rfl) _ (by decide) w, staged_range obj1 (.inl rfl) _ (by decide) w⟩

def releaseE : Entry := entry 0x51 0 (BitVec.ofNat 64 (bankLoc (hbBank 0) 0)) 0 0

theorem test_hyp_release : Takes staged (.data 0 0) releaseE 0x51 { w2 := 0xF, w3 := 2 ^ 52 - 1 } ∧ isAnchor staged 0 = true ∧
    (polEntry staged.parts[0].session.policy (fld releaseE.w2 3 0)).isSome = true := by decide +kernel

theorem test_release : leads (.release 0 0 releaseE) staged
    (fun t => t.parts[0].session.releases.map (fun r => (r.relId, r.step, r.due)) == [(0, 1, false)]) = true := by decide +kernel

/-- A release that is due, of one value in object 1; the ring takes records when `ring` holds. -/
def rel1 (owners : W32) : Release := { relId := 0, src := 0, step := 1, due := true, held := false, owners := owners }
def gated (q : Byte) (owners : W32) (ring : Bool) (tr : List Transcript) : State :=
  let s := secret { session1 3 0xFF 1 q with releases := [rel1 owners], stepLeft := 4096, totalLeft := 8192, transcript := tr } [] [obj1]
  s.modPart 0 fun p => { p with relEnable := ring, relLog2 := 12 }
def relEntry : Bytes := [0, 0, 0, 0, 1] ++ List.replicate 27 0

theorem test_hyp_gate : (gated 0 0 true []).parts[0].session.releases = [rel1 0] ∧ (rel1 0).due = true ∧ (rel1 0).held = false ∧
    polEntry (gated 0 0 true []).parts[0].session.policy (rel1 0).relId.toNat = some relEntry ∧ isAnchor (gated 0 0 true []) 0 = true := by decide +kernel

/-- R554: each verdict of the gate. -/
theorem test_hyp_gate_go : gateVerdict (gated 0 0 true []) 0 (rel1 0) relEntry = .go := by decide +kernel
theorem test_hyp_gate_hold : gateVerdict (gated 0 0 false []) 0 (rel1 0) relEntry = .hold := by decide +kernel
theorem test_hyp_gate_refuse : gateVerdict (gated 1 0 true []) 0 (rel1 0) relEntry = .refuse 1 := by decide +kernel
theorem test_hyp_gate_full (n : Transcript) : gateVerdict (gated 0 0 true (List.replicate 1048576 n)) 0 (rel1 0) relEntry = .full := by
  have h : transcriptFull (gated 0 0 true (List.replicate 1048576 n)).parts[(0 : Pt)].session = true := by
    have e : (gated 0 0 true (List.replicate 1048576 n)).parts[(0 : Pt)].session.transcript = List.replicate 1048576 n := by rfl
    unfold transcriptFull
    rw [e, List.length_replicate]
    decide
  unfold gateVerdict
  dsimp only
  rw [if_pos h]

/-- R668: what the gate holds waits for the boundary. -/
theorem test_gate_hold : leads (.gateRelease 0) (gated 0 0 false [])
    (fun t => t.parts[0].session.releases.map (·.held) == [true] && t.parts[0].relTail == 0) = true := by decide +kernel

/-- R551, R554: the record costs 68 bytes of each budget, and the release ring's tail moves by them. -/
theorem test_gate : leads (.gateRelease 0) (gated 0 0 true [])
    (fun t => t.parts[0].session.stepLeft == 4028 && t.parts[0].session.totalLeft == 8124 && t.parts[0].relTail == 68) = true := by decide +kernel

/-! ## Streams, replay units and sync objects -/

def runE : Entry := entry 0x40 1 0 0 0
def moveE : Entry := entry 0x41 (BitVec.ofNat 64 (2 ^ 41)) (BitVec.ofNat 64 (2 ^ 41 + 4096)) 64 0

theorem test_hyp_sqRun : IdsFresh one ∧ Takes one (.data 0 0) runE 0x40 { w2 := 0xFFFF, w3 := 2 ^ 25 - 1, w4 := 2 ^ 25 - 1 } ∧
    clustersStatus one 0 (BitVec.ofNat 16 (fld runE.w2 15 0)) = 0 ∧ one.parts[0].conf = false := by decide +kernel

theorem test_sqRun : leads (.sqRun 0 0 runE [2]) one
    (fun t => t.clusters[0].jobs.map (fun b => (b.left, b.started)) == [(2, true)] && t.clusters[1].jobs.isEmpty) = true := by decide +kernel

theorem test_hyp_move : IdsFresh one ∧ Takes one (.data 0 0) moveE 0x41 { w2 := 2 ^ 52 - 1, w3 := 2 ^ 52 - 1, w4 := 2 ^ 32 - 1, w5 := 0xF0F } ∧
    one.clusters[mvCluster moveE].part = some 0 ∧ one.clusters[mvCluster moveE].fenced = false ∧ mvLen moveE = 64 ∧
    mvLen (entry 0x41 0 0 0 0) = 0 := by decide +kernel

theorem test_move : leads (.move 0 0 moveE) one (fun t => t.reqs.map (fun r => (r.src, r.dst, r.len)) == [(2 ^ 41, 2 ^ 41 + 4096, 64)]) = true := by
  decide +kernel

/-- A mark over cluster 0 with one KIND 0 range of 4096 bytes, the top level 1. -/
def markBytes (max : Nat) : Bytes := leBytes 8 (2 ^ 32 + max * 2 ^ 29 + 2 * 2 ^ 16 + 1) ++ leBytes 8 4096 ++ List.replicate 368 0
def markObj (max : Nat) : SetupObj := { typ := 6, gen := 0, idx := 0, bytes := markBytes max, st := .active }
def mark0 : W32 := BitVec.ofNat 32 (6 * 2 ^ 28)
/-- Its unit. -/
def unit0 : ReplayUnit := newUnit mark0 0 [(0, [0])] 0
def partU (max : Nat) (us : List ReplayUnit) : Partition := { part0 with objs := [markObj max], units := us, holdBase := 0x400000, holdSize := 131072 }
def units (max : Nat) (us : List ReplayUnit) : State := withPart (partU max us) Cluster.reset

theorem test_hyp_unitBegin : (units 1 []).parts[0].units.length < 8 ∧ Takes (units 1 []) (.data 0 0) (entry 0x48 (6 * 2 ^ 28) 0 0 0) 0x48 { w2 := 2 ^ 32 - 1 } ∧
    (match findObj (units 1 []) 0 6 mark0 with | .ok bs => bs == markBytes 1 | _ => false) = true ∧ (units 1 []).clusters[0].fenced = false ∧
    tcsOf (markClusters (markObj 1)) = [0] ∧ markCmds (markObj 1) ≤ (units 1 []).parts[0].data[0].size ∧ unitOf (units 1 []).parts[0] mark0 = none ∧
    (holdPlan (units 1 []).parts[0] (markBytes 1) 1).2 ≤ freeSpill (units 1 []).parts[0] := by decide +kernel

theorem test_unitBegin : leads (.unitBegin 0 0 (entry 0x48 (6 * 2 ^ 28) 0 0 0)) (units 1 [])
    (fun t => t.parts[0].units.map (fun u => (u.mark, u.reached, u.hold, u.threshold)) == [(mark0, 1, [(0, [0])], 655)]) = true := by decide +kernel

/-- R297, R314: the UNIT_BEGIN of a second data queue joins the open unit. -/
def joining : State := withPart { partU 1 [unit0] with dataQueues := 2, data := vmod part0.data 1 fun _ => oneEntry } Cluster.reset
theorem test_hyp_unitBegin_join : Takes joining (.data 0 1) (entry 0x48 (6 * 2 ^ 28) 0 0 0) 0x48 { w2 := 2 ^ 32 - 1 } ∧
    (match findObj joining 0 6 mark0 with | .ok bs => bs == markBytes 1 | _ => false) = true ∧ unitOf joining.parts[0] mark0 = some unit0 ∧
    unit0.qs.contains 1 = false ∧ unit0.completed = false ∧ unit0.rolling = false ∧ markCmds (markObj 1) ≤ joining.parts[0].data[1].size := by decide +kernel
theorem test_unitBegin_join : leads (.unitBegin 0 1 (entry 0x48 (6 * 2 ^ 28) 0 0 0)) joining
    (fun t => t.parts[0].units.map (·.qs) == [[0, 1]]) = true := by decide +kernel

theorem test_hyp_unitEnd : Takes (units 1 [unit0]) (.data 0 0) (entry 0x49 (6 * 2 ^ 28) 0 0 0) 0x49 { w2 := 2 ^ 32 - 1 } ∧
    (match findObj (units 1 [unit0]) 0 6 mark0 with | .ok bs => bs == markBytes 1 | _ => false) = true ∧
    openUnitOfQueue (units 1 [unit0]) 0 0 = some mark0 := by decide +kernel

theorem test_hyp_stepFence : Takes one (.data 0 0) (entry 0x4A 1 0 0 0) 0x4A { w2 := 0xFFFF } ∧ clustersStatus one 0 1 = 0 ∧
    one.parts[0].step.phase = .compute ∧ one.clusters[0].jobs = [] := by decide +kernel

theorem test_stepFence : leads (.stepFence 0 0 (entry 0x4A 1 0 0 0)) one (fun t => t.parts[0].step.fences == 1) = true := by decide +kernel

/-- The mover of cluster 0 carries a MOVE from byte 0 of the scratchpad, which holds 7, to byte 4096. -/
def movingJob : SqJob :=
  { id := 0, part := 0, qj := 0, e := moveE, kind := .move, unit := none, total := 0, left := 0, running := 0, waits := false, started := true,
    ended := false, held := false }
def movingReq : CellarReq :=
  { id := 0, part := 0, qj := 0, tag := 5, cluster := 0, src := 2 ^ 41, dst := 2 ^ 41 + 4096, len := 64, deadline := 3, cellar := false, pieces := [] }
def moving : State :=
  let s := withPart { part0 with inflight := [{ id := 0, q := .data 0 0, e := moveE, items := [], wait := .move }] }
    { Cluster.reset with jobs := [movingJob], spad := [(0, 7)] }
  { s with reqs := [movingReq], nextId := 1 }

theorem test_hyp_moveComplete : moving.reqs.find? (fun x => x.id == 0) = some movingReq ∧ moveRuns moving movingReq = true ∧
    fromCellar moving movingReq = false ∧ NoSpadFence moving ∧ moveBad moving 0 movingReq = none ∧ wouldStall moving (2 ^ 41 + 4096) 64 = false ∧
    mergeAt moving 0 (2 ^ 41) = none ∧ mergeAt moving 0 (2 ^ 41 + 4096) = none ∧ NoRollBack moving ∧ (readRange moving 0 (2 ^ 41) 64).st = 0 ∧
    (writeRange (readRange moving 0 (2 ^ 41) 64).s 0 (2 ^ 41 + 4096) (readRange moving 0 (2 ^ 41) 64).bs
      (allCode (readRange moving 0 (2 ^ 41) 64).s 0 (2 ^ 41) 64)).2 = 0 := by decide +kernel

theorem test_moveComplete : leads (.moveComplete 0 ⟨false, false⟩) moving
    (fun t => t.clusters[0].spad == [(0, 7), (4096, 7)] && t.parts[0].inflight.isEmpty && t.parts[0].data[0].lastSt == 0) = true := by decide +kernel

/-- A MOVE of a line that the cellar serves, in time over port 0. -/
def fromCel : State :=
  let s := cellarOn (stored { part0 with inflight := [{ id := 0, q := .data 0 0, e := moveE, items := [], wait := .move }] } [objD])
  { s.modCluster 0 fun c => { c with jobs := [movingJob] } with nextId := 1 }
def celReq : CellarReq := { movingReq with src := bankLoc cellarBank 0, cellar := true, pieces := [(0, some 0)] }
theorem test_hyp_moveComplete_cellar : moveRuns fromCel celReq = true ∧ fromCellar fromCel celReq = true ∧ fromCel.meridian.tick < celReq.deadline ∧
    cellarDown fromCel = false ∧ (∀ x ∈ celReq.pieces, x.2 ≠ none) ∧ moveBad fromCel 0 celReq = none ∧
    (readRange fromCel 0 celReq.src 64).st = 0 ∧ (writeRange (readRange fromCel 0 celReq.src 64).s 0 celReq.dst (readRange fromCel 0 celReq.src 64).bs
      (allCode (readRange fromCel 0 celReq.src 64).s 0 celReq.src 64)).2 = 0 := by decide +kernel

theorem test_hyp_unitCapture : Canonical (units 1 [{ unit0 with reached := 1 }]) ∧ NoSpadFence (units 1 [{ unit0 with reached := 1 }]) ∧
    (0x400000 : Nat) % 8 = 0 ∧ (∀ x ∈ unit0.hold, x.2.Nodup ∧ ∀ q ∈ x.2, 0x400000 + 4096 * (q + 1) ≤ 0x400000 + 131072) ∧
    (∀ a ∈ markPages (markBytes 1), a + 4096 ≤ 0x400000 ∨ 0x400000 + 131072 ≤ a) ∧ unitOf (units 1 [{ unit0 with reached := 1 }]).parts[0] mark0 = some { unit0 with reached := 1 } ∧
    objOf (units 1 [{ unit0 with reached := 1 }]).parts[0] mark0 = some (markObj 1) ∧ (1 : BitVec 16) &&& markClusters (markObj 1) = markClusters (markObj 1) := by
  decide +kernel

/-- The same of a mark without ranges: the capture ends UNIT_BEGIN. -/
def bareUnit : State := withPart { partU 1 [{ unit0 with reached := 1 }] with objs := [{ markObj 1 with bytes := 0 :: (markBytes 1).drop 1 }] } Cluster.reset
theorem test_unitCapture : leads (.unitCapture 0 mark0) bareUnit
    (fun t => t.parts[0].units.map (fun u => u.captured.isSome) == [true]) = true := by decide +kernel

/-- The unit captured, and all of it passed. -/
def unitE (flushed : Nat) : ReplayUnit :=
  { unit0 with reached := 1, captured := some [], ended := [(0, 1)], threshold := 655, nonzero := 10, flushed := flushed, wideOnly := false }

theorem test_hyp_unitComplete : unitOf (units 1 [unitE 0]).parts[0] mark0 = some (unitE 0) ∧ objOf (units 1 [unitE 0]).parts[0] mark0 = some (markObj 1) ∧
    unitBusy (units 1 [unitE 0]) 0 mark0 = false ∧ flushFails (unitE 0) = false ∧ (unitE 0).rerunWait = false ∧ (unitE 0).completed = false ∧
    (unitEnded (unitE 0) &&& markClusters (markObj 1)) = markClusters (markObj 1) ∧ (unitE 0).ceilings = [] ∧ (unitE 0).routes = [] := by decide +kernel

/-- Ten of ten values flushed is more than 655 / 65536: at level 0 of 1 the unit escalates, at level 0 of 0 the result stands. -/
theorem test_hyp_unitComplete_flush : flushFails (unitE 10) = true ∧ markMax (markObj 0) ≤ (levelFor (units 0 [unitE 10]).parts[0] (some mark0) 0).toNat ∧
    (levelFor (units 1 [unitE 10]).parts[0] (some mark0) 0).toNat < markMax (markObj 1) ∧ (unitE 10).wideOnly = false ∧
    (markState (units 1 [unitE 10]).parts[0] 0).replays.toNat < (units 1 [unitE 10]).parts[0].policy.replayLimit.toNat ∧
    unitBusy (units 0 [unitE 10]) 0 mark0 = false ∧ unitBusy (units 1 [unitE 10]) 0 mark0 = false := by decide +kernel

theorem test_unitComplete_escalates : leads (.unitComplete 0 mark0) (units 1 [unitE 10])
    (fun t => (markState t.parts[0] 0).level == 1 && t.parts[0].counters.escalations == 1) = true := by decide +kernel

theorem test_unitComplete_ceiling : leads (.unitComplete 0 mark0) (units 0 [unitE 10])
    (fun t => t.parts[0].units.map (·.completed) == [true] && t.parts[0].counters.ceilings == 1) = true := by decide +kernel

theorem test_hyp_unitRetire : (units 1 [{ unitE 0 with completed := true }]).parts[0].units = [{ unitE 0 with completed := true }] ∧
    (unitE 0).causes = 0 ∧ (unitE 0).rolling = false ∧ (units 1 [{ unitE 0 with completed := true }]).parts[0].inflight = [] := by decide +kernel

theorem test_unitRetire : leads (.unitRetire 0 mark0) (units 1 [{ unitE 0 with completed := true }]) (fun t => t.parts[0].units.isEmpty) = true := by
  decide +kernel

/-- A tentative send of the unit was acknowledged in tick 0; the module is in tick 2. -/
def lateRoute : RouteRun :=
  { part := 0, idx := 0, port := 0, stream := 0, bytes := 4, seqFirst := 0, seq := 1, unit := some mark0, commitTick := none, sendTick := 0,
    lastNum := 0, sentAll := true, acked := true, tokenSent := false, err := 0, buf := [] }
def late : State :=
  let s := units 1 [{ unitE 0 with routes := [0] }]
  { s with links := { s.links with routes := [lateRoute] }, meridian := { s.meridian with tick := 2 } }

theorem test_hyp_unitLateRevoke : late.parts[0].units = [{ unitE 0 with routes := [0] }] ∧ objOf late.parts[0] mark0 = some (markObj 1) ∧
    lateSends late 0 mark0 ≠ [] ∧ unitRunning late 0 mark0 = false ∧
    (markState late.parts[0] 0).replays.toNat < late.parts[0].policy.replayLimit.toNat := by decide +kernel

theorem test_unitLateRevoke : leads (.unitLateRevoke 0 mark0) late
    (fun t => (lateSends t 0 mark0).isEmpty && t.parts[0].counters.replays == 1 && (markState t.parts[0] 0).level == 0) = true := by decide +kernel

def fenced1 : State := one.modPart 0 fun p => { p with step := { p.step with fences := 1 } }

theorem test_hyp_computePhaseEnd : fenced1.parts[0].live = true ∧ fenced1.parts[0].step.phase = .compute ∧
    (fenced1.parts[0].step.fences ||| fencedOf fenced1 0) &&& fenced1.parts[0].clusters = fenced1.parts[0].clusters ∧
    fenced1.parts[0].units = [] ∧ fenced1.parts[0].conf = false := by decide +kernel

theorem test_computePhaseEnd : leads (.computePhaseEnd 0) fenced1 (fun t => t.parts[0].step.phase == .decide) = true := by decide +kernel

/-- Without the fence of cluster 0 the phase goes on (R320). -/
theorem test_computePhaseEnd_unfenced : leads (.computePhaseEnd 0) one (fun t => t.parts[0].step.phase == .compute) = true := by decide +kernel

def signalE (n o : Nat) : Entry := entry 0x58 (BitVec.ofNat 64 (n * 2 ^ 16 + o)) 0 0 0

theorem test_hyp_signal : Quiet grouped 0 ∧ Takes grouped (.data 0 0) (signalE 3 0) 0x58 { w2 := 0xFFFF3FFF } ∧ fld (signalE 3 0).w2 31 16 ≠ 0 ∧
    fld (signalE 3 0).w0 40 25 = 0 ∧ syncReach grouped.parts[0] 0 = true ∧ syncReach grouped.parts[0] 5 = false ∧
    Takes grouped (.data 0 0) (signalE 3 5) 0x58 { w2 := 0xFFFF3FFF } := by decide +kernel

theorem test_signal : leads (.signal (.queue 0 0 (signalE 3 0))) grouped (fun t => t.sync == [(0, 3)]) = true := by decide +kernel

/-- R75: a sum past 2^32 − 1 saturates and sets the flag of the group. -/
theorem test_signal_saturates : leads (.signal (.queue 0 0 (signalE 3 0))) { grouped with sync := [(0, 0xFFFFFFFE)] }
    (fun t => t.sync == [(0, 0xFFFFFFFF)] && t.parts[0].syncOvf == 1) = true := by decide +kernel

theorem test_signal_drop : leads (.signal (.queue 0 0 (signalE 3 5))) grouped (fun t => t.sync.isEmpty && t.parts[0].counters.rangeDrops == 1) = true := by
  decide +kernel

/-- The program of cluster 0 runs, with two commands to issue. -/
def runJob : SqJob := { movingJob with e := runE, kind := .run, total := 2, left := 2 }
def running (sync : Sparse W32) : State :=
  { withPart { part0 with objs := [groupObj] } { Cluster.reset with jobs := [runJob] } with sync := sync, nextId := 1 }

theorem test_hyp_signal_sq : (running []).waiters = [] ∧ sqRunning (running []) 0 = some (0, 0) ∧ syncReach (running []).parts[0] 0 = true ∧
    sqFetchBad (running []) 0 0 0 = false := by
  decide +kernel

theorem test_signal_sq : leads (.signal (.sq 0 0 0 4)) (running []) (fun t => t.sync == [(0, 4)] && t.clusters[0].jobs.map (·.left) == [1]) = true := by
  decide +kernel

def waitE (n timeout : Nat) : Entry := entry 0x59 (BitVec.ofNat 64 (timeout * 2 ^ 32 + n * 2 ^ 16)) 0 0 0

def synced : State := { grouped with sync := [(0, 2)] }

theorem test_hyp_wait : Canonical grouped ∧ IdsFresh grouped ∧ Quiet grouped 0 ∧
    Takes grouped (.data 0 0) (waitE 2 0) 0x59 { w2 := 2 ^ 63 + 0xFFFFFF * 2 ^ 32 + 0xFFFF3FFF } ∧ fld (waitE 2 0).w0 40 25 = 0 ∧
    waitBad (fld (waitE 2 0).w2 31 16) (bit (waitE 2 0).w2 63) (fld (waitE 2 0).w2 55 32) = false := by decide +kernel

theorem test_hyp_wait_clauses : syncReach grouped.parts[0] (fld (waitE 2 0).w2 13 0) = true ∧ (syncGet grouped 0).toNat < 2 ∧
    fld (waitE 2 0).w2 55 32 = 0 ∧ Takes grouped (.data 0 0) (waitE 2 9) 0x59 { w2 := 2 ^ 63 + 0xFFFFFF * 2 ^ 32 + 0xFFFF3FFF } ∧
    fld (waitE 2 9).w2 55 32 = 9 ∧ Canonical synced ∧ 2 ≤ (syncGet synced 0).toNat := by decide +kernel

theorem test_wait : leads (.wait ⟨.queue 0 0 (waitE 2 0), false⟩) { grouped with sync := [(0, 5)] } (fun t => t.sync == [(0, 3)] && t.waiters.isEmpty) = true := by
  decide +kernel

theorem test_wait_waits : leads (.wait ⟨.queue 0 0 (waitE 2 9), false⟩) grouped (fun t => t.waiters.map (fun w => (w.n, w.left)) == [(2, 9)]) = true := by
  decide +kernel

/-- R79: while the clock of a WAIT goes on, it is not served. -/
theorem test_wait_clock : leads (.wait ⟨.queue 0 0 (waitE 2 0), true⟩) { grouped with sync := [(0, 5)] }
    (fun t => t.sync == [(0, 5)] && t.waiters.map (·.arrived) == [true]) = true := by decide +kernel

theorem test_hyp_wait_sq : (running []).clusters[0].jobs = [runJob] ∧ (∀ c : Tc, c ≠ 0 → (running []).clusters[c].jobs = []) ∧
    waitBad 2 false 7 = false ∧ (syncGet (running []) 0).toNat < 2 ∧ (7 : BitVec 24) ≠ 0 := by decide +kernel

theorem test_wait_sq : leads (.wait ⟨.sq 0 0 0 2 7 false, false⟩) (running []) (fun t => t.waiters.map (fun w => (w.src, w.n)) == [(some 0, 2)]) = true := by
  decide +kernel

/-- A WAIT for 2 of object 0, of data queue 0 of partition 0 (or of the program of cluster 0). -/
def waiter (src : Option Tc) : Waiter := { newWaiter 0 0 src 0 5 0 2 false 9 with arrived := true }
def waitPend : Pending := { id := 0, q := .data 0 0, e := waitE 2 9, items := [], wait := .syncWait }
def waits : State := { withPart { part0 with objs := [groupObj], inflight := [waitPend] } Cluster.reset with waiters := [waiter none], nextId := 1 }

theorem test_hyp_waitTimeout : waits.waiters = [waiter none] ∧ (waiter none).ticks = false ∧ (syncGet waits 0).toNat < 2 ∧
    (∀ k : Pt, ∀ p ∈ waits.parts[k].inflight, fld p.e.w0 40 25 = 0) ∧ findPending waits 0 0 = some waitPend ∧ qPart waitPend.q = some 0 ∧
    waits.parts[0].conf = false ∧ (∀ c : Tc, waits.clusters[c].jobs = []) ∧ syncReach waits.parts[0] 0 = true ∧
    2 ≤ (syncGet waits 0).toNat + 2 := by decide +kernel

theorem test_waitTimeout : leads (.waitTimeout 0 ⟨[], false⟩) waits (fun t => t.waiters.isEmpty && t.parts[0].data[0].lastSt == 0x0E) = true := by decide +kernel

/-- R79, R80: a SIGNAL of the same clock serves the WAIT, which counts as coincident. -/
theorem test_waitTimeout_coincident : leads (.waitTimeout 0 ⟨[{ part := some 0, obj := 0, n := 2 }], false⟩) waits
    (fun t => t.waiters.isEmpty && t.sync.isEmpty && t.parts[0].counters.coincident == 1 && t.parts[0].data[0].lastSt == 0) = true := by decide +kernel

def waitsSq : State :=
  { withPart { part0 with objs := [groupObj] } { Cluster.reset with jobs := [{ runJob with waits := true }] } with waiters := [waiter (some 0)], nextId := 1 }

theorem test_waitTimeout_sq : (waiter (some 0)).src = some 0 ∧ leads (.waitTimeout 0 ⟨[], false⟩) waitsSq (fun t => t.clusters[0].waitOut == 0x0E) = true := by
  decide +kernel

/-! ## Work items and the matrix engine -/

/-- A descriptor of one tile of FP32 elements at byte 0, and its handle. -/
def tileBytes1 : Bytes := List.replicate 8 0 ++ leBytes 8 (2 ^ 48 + 2 ^ 32) ++ List.replicate 48 0
def tileObj : SetupObj := { typ := 1, gen := 0, idx := 0, bytes := tileBytes1, st := .active }
def tileH : Nat := 2 ^ 28

/-- The words of an MMA (or EST_RESET) with a budget of 1000 clocks: flags of word 0, the handle of C. -/
def mma1 (op flags cH : Nat) : MatWords :=
  ⟨BitVec.ofNat 64 (op * 2 ^ 56 + 1000 * 2 ^ 36 + flags), BitVec.ofNat 64 (tileH * 2 ^ 32 + tileH), BitVec.ofNat 64 (cH * 2 ^ 32), 0⟩
def clocks (n : Nat) : SqTime := ⟨n, 0, 0, 0⟩

/-- The program of cluster 0 runs in partition 0, which has 32 accumulator tiles at byte 0x800000 and the tile descriptor. -/
def partA : Partition := { part0 with accBase := 0x800000, accSize := 131072, objs := [tileObj] }
def matrix (c : Cluster) : State := { withPart partA { c with jobs := [runJob] } with nextId := 1 }
def idle : State := matrix Cluster.reset

theorem test_hyp_held : sqReady idle 0 = some (0, runJob) ∧ idle.clusters[0].heldWork = [] ∧ badBudget idle (mma1 0x10 512 0).budget = false ∧
    fitsClocks idle (mma1 0x10 512 0).budget (clocks 999).clocksLeft = false ∧ idle.clusters[0].meQueue.length < 16 ∧
    (mma1 0x10 512 0).opcode ≠ 0x18 ∧ (mma1 0x18 0 tileH).opcode = 0x18 ∧ idle.clusters[0].ve.queue.length < 16 ∧
    fitsClocks idle (mma1 0x18 0 tileH).budget (clocks 999).clocksLeft = false ∧ sqFetchBad idle 0 0 0 = false := by decide +kernel

theorem test_mma_held : leads (.mma 0 (mma1 0x10 512 0) (clocks 999)) idle
    (fun t => t.clusters[0].heldWork.map (·.job) == [0] && t.clusters[0].latches.isEmpty) = true := by decide +kernel

/-- Held with SEQ_MASK, under a sequence context that keeps no element. -/
def heldMma : HeldItem := { isVe := false, w := mma1 0x10 16896 0, budget := 1000, job := 0 }
def holding (h : HeldItem) : State := matrix { Cluster.reset with heldWork := [h] }

theorem test_hyp_dispatch : sqReady (holding heldMma) 0 = some (0, runJob) ∧ (holding heldMma).clusters[0].heldWork = [heldMma] ∧
    ((holding heldMma).clusters[0].jobs.any fun x => x.id == 0 && x.kind == .run) = true ∧ fitsClocks (holding heldMma) 1000 999 = false := by
  decide +kernel

theorem test_dispatch : leads (.workItemDispatch 0 (clocks 1000)) (holding heldMma)
    (fun t => t.clusters[0].heldWork.isEmpty && t.clusters[0].latches.length == 1) = true := by decide +kernel

/-- VEXEC at PC 0x100 with VL 3 and its argument block at byte 0. -/
def vexec1 : MatWords := ⟨BitVec.ofNat 64 (0x20 * 2 ^ 56 + 1000 * 2 ^ 36 + 3 * 2 ^ 27), 0x100, 0, 0⟩
def heldVe : HeldItem := { isVe := true, w := vexec1, budget := 1000, job := 0 }

theorem test_hyp_vexec : NoSpadFence idle ∧ NoSpadFence (holding heldVe) ∧ sqReady idle 0 = some (0, runJob) ∧ idle.clusters[0].ve.run = none ∧ idle.clusters[0].ve.queue = [] ∧
    badBudget idle vexec1.budget = false ∧ fitsClocks idle vexec1.budget 1000 = true ∧ vexecBad vexec1 = false ∧
    (holding heldVe).clusters[0].heldWork = [heldVe] ∧ fitsClocks (holding heldVe) 1000 1000 = true := by decide +kernel

theorem test_vexec : leads (.vexec 0 vexec1 (clocks 1000)) idle
    (fun t => t.clusters[0].ve.run.map (·.pc) == some 0x100 && t.clusters[0].ve.regs.vl == 3) = true := by decide +kernel

theorem test_hyp_mma : idle.clusters[0].meQueue = [] ∧ idle.clusters[0].latches = [] ∧ fitsClocks idle 1000 1000 = true ∧
    (mma1 0x10 512 0).opcode = 0x10 ∧ (mma1 0x10 512 0).reservedOk = true ∧ (mma1 0x10 512 0).mask = false ∧ (mma1 0x10 512 0).first = true ∧
    findObj idle 0 1 (tileHandle idle 0 none tileH) = .ok tileBytes1 ∧ (mma1 0x10 512 0).last = false ∧ (mma1 0x10 512 0).cHandle = 0 ∧
    (match TileDesc.ofBytes tileBytes1 with | some d => badMma idle.parts[0] (mma1 0x10 512 0) d d none | none => true) = false := by decide +kernel

theorem test_hyp_mma_last : (mma1 0x10 1536 tileH).last = true ∧ (mma1 0x10 1536 tileH).cHandle = tileH ∧ (mma1 0x10 1536 tileH).reservedOk = true ∧
    (match TileDesc.ofBytes tileBytes1 with | some d => badMma idle.parts[0] (mma1 0x10 1536 tileH) d d (some d) | none => true) = false := by
  decide +kernel

/-- R190, R202: with every element masked the pass performs no k-steps, but FIRST opens its tile. -/
theorem test_mma_masked : leads (.mma 0 (mma1 0x10 16896 0) (clocks 1000)) idle
    (fun t => t.clusters[0].latches.length == 1 && t.parts[0].counters.maskSkipped == 1 && bit (tileEntry t.clusters[0] 0) 31) = true := by decide +kernel

theorem test_hyp_estReset : Canonical idle ∧ NoRollBack idle ∧ (mma1 0x18 0 tileH).opcode = 0x18 ∧ (mma1 0x18 0 tileH).reservedOk = true ∧
    badBudget idle (mma1 0x18 0 tileH).budget = false ∧ findObj idle 0 1 (tileHandle idle 0 none (mma1 0x18 0 tileH).cHandle) = .ok tileBytes1 ∧
    (TileDesc.ofBytes tileBytes1).isSome = true := by decide +kernel

/-- A pass of zeros on tile 0 waits in a latch. -/
def passItem (flags cH : Nat) : MeItem :=
  { no := 1, w := mma1 0x10 flags cH, a := tileBytes1, b := tileBytes1, c := if cH = 0 then [] else tileBytes1,
    aH := BitVec.ofNat 32 tileH, bH := BitVec.ofNat 32 tileH, cH := BitVec.ofNat 32 cH, ctx := [],
    long := false, first := true, last := cH != 0, check := false, mask := false, tile := 0, wexp := 0, job := 0, unit := none }
def pass1 (flags cH : Nat) : Latch := { item := passItem flags cH, sums := List.replicate 1024 0, low := false, range := false, skip := false }
def draining (flags cH : Nat) : State := matrix { Cluster.reset with latches := [pass1 flags cH] }

theorem test_hyp_drain : Canonical (draining 512 0) ∧ NoSpadFence (draining 512 0) ∧ (pass1 512 0).skip = false ∧ (draining 512 0).clusters[0].window = [] ∧ (draining 512 0).clusters[0].part = some 0 ∧
    (draining 512 0).clusters[0].latches = [pass1 512 0] ∧ (draining 512 0).clusters[0].meQueue = [] ∧ NoRollBack (draining 512 0) ∧
    (pass1 512 0).item.last = false ∧ (draining 512 0).clusters[0].poison = [] := by decide +kernel

theorem test_hyp_drain_last : Canonical (draining 1536 tileH) ∧ (pass1 1536 tileH).item.last = true ∧ (pass1 1536 tileH).item.unit = none ∧
    (TileDesc.ofBytes (pass1 1536 tileH).item.c).isSome = true := by decide +kernel

theorem test_drain : leads (.drain 0) (draining 512 0) (fun t => t.clusters[0].latches.isEmpty && t.clusters[0].drains == 1) = true := by decide +kernel

def verdict : State := matrix { Cluster.reset with verdicts := [⟨none, 0⟩] }

theorem test_hyp_verdict : verdict.clusters[0].part = some 0 ∧ verdict.clusters[0].verdicts = [⟨none, 0⟩] ∧ NoRollBack verdict := by decide +kernel

theorem test_checkVerdict : leads (.checkVerdict 0 5) verdict
    (fun t => t.clusters[0].verdicts.isEmpty && t.parts[0].counters.checkMismatch == 1 && t.clusters[0].mismatch == [0]) = true := by decide +kernel

/-- An image of zeros in the mode of one element a tile, at the merge address of tile 0. -/
def image0 : Bytes := List.replicate 4224 0
def openAs (w : W32) : State := matrix { Cluster.reset with tiles := if w = 0 then [] else [(0, w)] }

theorem test_hyp_imageWrite : Canonical (openAs 0) ∧ admits (openAs 0) 0 = true ∧ mergeIndex (0x1800000 : BitVec 25).toNat = some 0 ∧ (openAs 0).clusters[0].fenced = false ∧
    image0.length = imageBytes (imageLong image0) ∧ headOf (imageLong image0) (tileOf (imageLong image0) 0) = 0 ∧
    tileOf (imageLong image0) 0 < accTiles (openAs 0).parts[0] (imageLong image0) ∧
    lastOnTile (openAs 0).clusters[0] (imageLong image0) (tileOf (imageLong image0) 0) = none ∧
    bit (tileEntry (openAs 0).clusters[0] 0) 31 = false ∧ (openAs 0).clusters[0].poison = [] := by decide +kernel

theorem test_hyp_imageWrite_open : Canonical (openAs 0x80000000) ∧ bit (tileEntry (openAs 0x80000000).clusters[0] 0) 31 = true ∧
    bit (tileEntry (openAs 0x80000000).clusters[0] 0) 30 = imageLong image0 ∧ fld (tileEntry (openAs 0x80000000).clusters[0] 0) 10 0 = 0 ∧
    bit (tileEntry (openAs 0xC0000000).clusters[0] 0) 30 ≠ imageLong image0 := by decide +kernel

theorem test_imageWrite_refused : leads (.imageWrite 0 0x1800000 image0) (openAs 0xC0000000) (fun t => t.parts[0].counters.mergeRefused == 1) = true := by
  decide +kernel

/-- The mover reads tile 0 to the scratchpad at byte 0, which it may write, and to a location outside the module. -/
theorem test_hyp_imageRead : NoSpadFence (openAs 0) ∧ admits (openAs 0) 0 = true ∧ (openAs 0).clusters[0].fenced = false ∧ lastOnTile (openAs 0).clusters[0] false 0 = none ∧ (getImage (openAs 0) 0 0 0).isSome = true ∧
    firstBad (openAs 0) 0 4 (2 ^ 41) 4224 true = none ∧ (firstBad (openAs 0) 0 4 (2 ^ 43) 4224 true).isSome = true := by decide +kernel

/-- R93: a quench holds what the mover moves. -/
def quenchedIdle : State := (openAs 0).modPart 0 fun p => { p with quenched := true }
theorem test_hyp_image_quenched : quenchedIdle.clusters[0].part = some 0 ∧ admits quenchedIdle 0 = false := by decide +kernel

theorem test_hyp_overrun_none : runningItem idle.clusters[0] .me = none := by decide +kernel
theorem test_hyp_overrun : (draining 512 0).clusters[0].part = some 0 ∧ runningItem (draining 512 0).clusters[0] .me = some (0, 1000) ∧
    (draining 512 0).clusters[0].fenced = false ∧ (draining 512 0).parts[0].conf = false := by decide +kernel

theorem test_overrun : leads (.budgetOverrun 0 .me) (draining 512 0)
    (fun t => t.parts[0].counters.budgetOverruns == 1 && (t.parts[0].log.recs.map fun r => (r.typ, r.detail)) == [(0x30, 1000)]) = true := by decide +kernel

def overrunSecret : State := (secret (session1 3 0xFF 1 0) [] []).modCluster 0 fun c => { c with latches := [pass1 512 0] }

theorem test_hyp_overrun_secret : overrunSecret.clusters[0].part = some 0 ∧ runningItem overrunSecret.clusters[0] .me = some (0, 1000) ∧
    overrunSecret.parts[0].conf = true := by decide +kernel

theorem test_overrun_secret : leads (.budgetOverrun 0 .me) overrunSecret (fun t => t.parts[0].halting && t.parts[0].counters.budgetOverruns == 0) = true := by
  decide +kernel

/-! ## Vector instructions -/

/-- A VE of cluster 0 that stands at instruction (op, f), at byte 0x100, with register values. -/
def veItem0 : VeItem :=
  { pc := 0x100, vl := 2, argBase := 0, icinv := false, signal := false, syncObj := 0, signalN := 0, budget := 1000, number := 7, job := 0, unit := none }
def standAt (r : VecRegs) (op : Nat) (f : BitVec 56) : State :=
  matrix { Cluster.reset with spad := Memory.writeBytes [] 0x100 (leBytes 8 (vWord op f).toNat), ve := { Cluster.reset.ve with regs := r, run := some veItem0 } }

/-- Two lanes: v1 holds 1.0 and 2.0, v2 holds 2.0 and 1.0; s3 holds 1, mask register 1 lane 1. -/
def vr0 : VecRegs :=
  { VecRegs.zero with
    v := [(256, 0x3F800000), (257, 0x40000000), (512, 0x40000000), (513, 0x3F800000)], m := VecRegs.zero.m.set 1 2, s := VecRegs.zero.s.set 3 1, vl := 2 }

/-- Fields of an arithmetic instruction: TY, MEN with MSEL 1, VD 3, VA 1, VB 2, VC 0, SX 3, MD 2. -/
def fA (ty men : Nat) : BitVec 56 :=
  BitVec.ofNat 56 (ty * 2 ^ 52 + men * 2 ^ 51 + 1 * 2 ^ 48 + 3 * 2 ^ 42 + 1 * 2 ^ 37 + 2 * 2 ^ 32 + 3 * 2 ^ 23 + 2 * 2 ^ 18)

/-- Fields of a scalar instruction: SD 4, SA 3, SB 3, N 1, IMM 5. -/
def fS : BitVec 56 := BitVec.ofNat 56 (4 * 2 ^ 52 + 3 * 2 ^ 48 + 3 * 2 ^ 44 + 1 * 2 ^ 32 + 5)

theorem test_hyp_canonical_ve : Canonical (standAt vr0 0x10 (fA 0 0)) := by decide +kernel

/-- Every instruction of R250 has a legal encoding, at which a VE can stand. -/
theorem test_hyp_lanes : ([0x09, 0x10, 0x11, 0x12, 0x13, 0x14, 0x15, 0x16, 0x17, 0x18, 0x19, 0x1A, 0x1B, 0x1C, 0x30, 0x31, 0x40, 0x41, 0x42, 0x43, 0x44,
    0x0A, 0x53, 0x54, 0x55, 0x56, 0x60, 0x61, 0x62, 0x63, 0x64, 0x65, 0x66, 0x67].all fun op => legalAt (standAt vr0 op (fA 0 0)) (.ve 0) op (fA 0 0)) = true := by
  decide +kernel
theorem test_hyp_lanes_int : ([0x10, 0x1D, 0x20, 0x21, 0x22, 0x23, 0x24, 0x25, 0x26, 0x60, 0x62, 0x63, 0x66].all fun op =>
    legalAt (standAt vr0 op (fA 10 0)) (.ve 0) op (fA 10 0) && tyInt (vTy (fA 10 0))) = true := by decide +kernel
theorem test_hyp_lanes_masked : ([0x10, 0x1E, 0x50, 0x51, 0x52].all fun op =>
    legalAt (standAt vr0 op (fA 10 1)) (.ve 0) op (fA 10 1)) = true ∧ legalAt (standAt vr0 0x32 (fA 1 0)) (.ve 0) 0x32 (fA 1 0) = true := by decide +kernel
theorem test_hyp_masks : ([0x45, 0x46, 0x47, 0x48, 0x49, 0x70, 0x71, 0x72, 0x73].all fun op =>
    legalAt (standAt vr0 op (fA 0 0)) (.ve 0) op (fA 0 0)) = true ∧ (standAt vr0 0x70 (fA 0 0)).clusters[0].ve.run = some veItem0 := by decide +kernel
theorem test_hyp_scalars : ([0x00, 0x01, 0x02, 0x03, 0x04, 0x05, 0x06, 0x07, 0x08].all fun op =>
    legalAt (standAt vr0 op fS) (.ve 0) op fS && (standAt vr0 op fS).clusters[0].ve.regs.loops.isEmpty && (standAt vr0 op fS).clusters[0].ve.queue.isEmpty) =
    true := by decide +kernel

/-- What a VE instruction leaves in the registers. -/
def veRegs (c : Instr) (s : State) (P : VecRegs → Bool) : Bool := leads c s fun t => P t.clusters[0].ve.regs

/-- R256: 1.0 + 2.0 is 3.0; R253: a masked lane stays. -/
theorem test_vadd : veRegs (.vadd (.ve 0) (fA 0 0)) (standAt vr0 0x10 (fA 0 0))
    (fun r => vGet r 3 0 == 0x40400000 && vGet r 3 1 == 0x40400000 && r.flags == 0) = true := by decide +kernel
theorem test_vsub : veRegs (.vsub (.ve 0) (fA 0 1)) (standAt vr0 0x11 (fA 0 1))
    (fun r => vGet r 3 0 == 0 && vGet r 3 1 == 0x3F800000) = true := by decide +kernel
theorem test_vfma : veRegs (.vfma (.ve 0) (fA 0 0)) (standAt vr0 0x13 (fA 0 0)) (fun r => vGet r 3 0 == 0x40000000) = true := by decide +kernel
theorem test_vdiv : veRegs (.vdiv (.ve 0) (fA 0 0)) (standAt vr0 0x19 (fA 0 0)) (fun r => vGet r 3 0 == 0x3F000000) = true := by decide +kernel

/-- R259: an integer sum wraps, a saturating one does not. -/
def vrBig : VecRegs := { vr0 with v := [(256, 0x7FFFFFFF), (512, 1)], vl := 1 }
theorem test_vadd_wraps : veRegs (.vadd (.ve 0) (fA 10 0)) (standAt vrBig 0x10 (fA 10 0)) (fun r => vGet r 3 0 == 0x80000000) = true := by decide +kernel
theorem test_vadds : veRegs (.vadds (.ve 0) (fA 10 0)) (standAt vrBig 0x1D (fA 10 0)) (fun r => vGet r 3 0 == 0x7FFFFFFF) = true := by decide +kernel
theorem test_vshl : veRegs (.vshl (.ve 0) (fA 10 0)) (standAt vrBig 0x23 (fA 10 0)) (fun r => vGet r 3 0 == 0xFFFFFFFE) = true := by decide +kernel

theorem test_vcmplt : veRegs (.vcmplt (.ve 0) (fA 0 0)) (standAt vr0 0x42 (fA 0 0)) (fun r => mGet r 2 == 1) = true := by decide +kernel
theorem test_vcompress : veRegs (.vcompress (.ve 0) (fA 10 1)) (standAt vr0 0x50 (fA 10 1))
    (fun r => vGet r 3 0 == 0x40000000 && vGet r 3 1 == 0 && sGet r 3 == 1) = true := by decide +kernel
theorem test_vsetvl : veRegs (.vsetvl (.ve 0) fS) (standAt vr0 0x02 fS) (fun r => r.vl == 1 && sGet r 4 == 1) = true := by decide +kernel
theorem test_vsadd : veRegs (.vsadd (.ve 0) fS) (standAt vr0 0x05 fS) (fun r => sGet r 4 == 7) = true := by decide +kernel
theorem test_vrsum : veRegs (.vrsum (.ve 0) (fA 0 0)) (standAt vr0 0x60 (fA 0 0)) (fun r => vGet r 3 0 == 0x40400000 && sGet r 3 == 0x40400000) = true := by
  decide +kernel

/-- R281: the pairwise tree of an integer VRSUM, and the empty one. -/
theorem test_vrsum_empty : veRegs (.vrsum (.ve 0) (fA 10 0)) (standAt { vr0 with vl := 0 } 0x60 (fA 10 0)) (fun r => sGet r 3 == 0 && r.flags == 2) = true := by
  decide +kernel

/-- A loop over one instruction, counted twice. -/
theorem test_hyp_vloop : (unitRegs (standAt vr0 0x03 fS) (.ve 0)).loops.length < 2 ∧ sGet (unitRegs (standAt vr0 0x03 fS) (.ve 0)) (sSa fS) ≠ 0 ∧
    sGet (unitRegs (standAt VecRegs.zero 0x03 fS) (.ve 0)) (sSa fS) = 0 := by decide +kernel
theorem test_vloop : leads (.vloop (.ve 0) fS) (standAt vr0 0x03 fS)
    (fun t => t.clusters[0].ve.regs.loops.length == 1 && t.clusters[0].ve.run.map (·.pc) == some 0x108) = true := by decide +kernel
theorem test_vloop_zero : leads (.vloop (.ve 0) fS) (standAt VecRegs.zero 0x03 fS) (fun t => t.clusters[0].ve.run.map (·.pc) == some 0x110) = true := by
  decide +kernel

/-- Summaries, with SUB[16] into the queue. -/
def fQ : BitVec 56 := fA 0 0 + 65536
def vrFull (s : State) : State := s.modCluster 0 fun c => { c with ve := { c.ve with summary := List.replicate 16 0 } }
theorem test_hyp_summary : bit (fA 0 0) 16 = false ∧ bit fQ 16 = true ∧ legalAt (standAt vr0 0x72 fQ) (.ve 0) 0x72 fQ = true ∧
    legalAt (vrFull (standAt vr0 0x72 fQ)) (.ve 0) 0x72 fQ = true ∧ 16 ≤ (vrFull (standAt vr0 0x72 fQ)).clusters[0].ve.summary.length := by decide +kernel
theorem test_hyp_summary_canonical : Canonical (vrFull (standAt vr0 0x72 fQ)) := by decide +kernel
theorem test_vcount : leads (.vcount (.ve 0) fQ) (standAt vr0 0x72 fQ)
    (fun t => t.clusters[0].ve.summary == [0xA000000700000001] && sGet t.clusters[0].ve.regs 3 == 1) = true := by decide +kernel
theorem test_vcount_full : leads (.vcount (.ve 0) fQ) (vrFull (standAt vr0 0x72 fQ)) (fun t => t.clusters[0].ve.run.map (·.pc) == some 0x100) = true := by
  decide +kernel
theorem test_vend : leads (.vend (.ve 0) fS) (standAt vr0 0x01 fS) (fun t => t.clusters[0].ve.run.isNone) = true := by decide +kernel

def summed : State := vrFull idle
theorem test_hyp_vsumq : sqReady summed 0 = some (0, runJob) ∧ summed.clusters[0].ve.summary = 0 :: List.replicate 15 0 ∧ sqReady idle 0 = some (0, runJob) ∧
    idle.clusters[0].ve.summary = [] ∧ idle.clusters[0].ve.run = none ∧ idle.clusters[0].ve.queue = [] ∧ sqFetchBad summed 0 0 0 = false := by decide +kernel
theorem test_vsumq : leads (.vsumq ⟨0, 0⟩) summed (fun t => t.clusters[0].ve.summary.length == 15) = true := by decide +kernel

/-! ### Loads, stores and faults -/

/-- Fields of a memory instruction: TY, VD 3, VA 1, SBASE 5, SSCALE 6, SCSTR 1 where block-scaled. -/
def fM (ty : Nat) : BitVec 56 :=
  BitVec.ofNat 56 (ty * 2 ^ 52 + 3 * 2 ^ 42 + 1 * 2 ^ 37 + 5 * 2 ^ 28 + (if 3 ≤ ty ∧ ty ≤ 9 then 6 * 2 ^ 20 + 2 ^ 16 + 2 ^ 8 else 0))
/-- s5 points at byte 0x1000, s6 at 0x2000; v1 holds byte offsets 0 and 4. -/
def vrM : VecRegs := { VecRegs.zero with v := [(257, 4), (768, 0x3F800000), (769, 0x40000000)], s := (VecRegs.zero.s.set 5 0x1000).set 6 0x2000, vl := 2 }
def vrBad (a : Nat) : VecRegs := { vrM with s := vrM.s.set 5 (BitVec.ofNat 64 a) }

theorem test_hyp_loads_fence : NoSpadFence (standAt vrM 0x80 (fM 0)) ∧ NoSpadFence (standAt (vrBad 0x1001) 0x80 (fM 0)) := by decide +kernel
theorem test_hyp_loads : ([(0x80, 0), (0x81, 1), (0x82, 9), (0x83, 0)].all fun x => let s := standAt vrM x.1 (fM x.2)
    legalAt s (.ve 0) x.1 (fM x.2) && decide (s.clusters[0].part = some 0) && (memFaults x.1 s.clusters[0] vrM (fM x.2)).isEmpty &&
    s.clusters[0].ve.loadWait.isNone && (drainsFor s.parts[0] s.clusters[0] (laneRanges x.1 vrM (fM x.2))).isNone) = true := by decide +kernel
theorem test_hyp_stores : ([(0x88, 0), (0x89, 1), (0x8A, 9), (0x8B, 0)].all fun x => let s := standAt vrM x.1 (fM x.2)
    legalAt s (.ve 0) x.1 (fM x.2) && s.clusters[0].ve.run == some veItem0 && (memFaults x.1 s.clusters[0] vrM (fM x.2)).isEmpty &&
    s.clusters[0].poison.isEmpty) = true ∧ veItem0.unit = none := by decide +kernel
theorem test_hyp_stores_block : (let s := standAt vrM 0x8C (fM 9)
    legalAt s (.ve 0) 0x8C (fM 9) && blockScaled 0x8C (fM 9) && (memFaults 0x8C s.clusters[0] vrM (fM 9)).isEmpty && s.clusters[0].poison.isEmpty) = true := by
  decide +kernel
theorem test_hyp_canonical_mem : Canonical (standAt vrM 0x88 (fM 0)) := by decide +kernel

theorem test_vld : veRegs (.vld (.ve 0) (fM 0)) ((standAt vrM 0x80 (fM 0)).modCluster 0 fun c => { c with spad := c.spad.writeBytes 0x1000 (leBytes 4 0x40A00000) })
    (fun r => vGet r 3 0 == 0x40A00000 && vGet r 3 1 == 0) = true := by decide +kernel
theorem test_vst : leads (.vst (.ve 0) (fM 0)) (standAt vrM 0x88 (fM 0))
    (fun t => t.clusters[0].spad.readBytes 0x1000 9 == leBytes 4 0x3F800000 ++ leBytes 4 0x40000000 ++ [0]) = true := by decide +kernel

/-- Lanes that are misaligned, and lanes beyond the end of the scratchpad. -/
theorem test_hyp_faults : legalAt (standAt (vrBad 0x1001) 0x80 (fM 0)) (.ve 0) 0x80 (fM 0) = true ∧
    memFaults 0x80 (standAt (vrBad 0x1001) 0x80 (fM 0)).clusters[0] (vrBad 0x1001) (fM 0) = [(0, 2, 0x1001, 4), (1, 2, 0x1005, 4)] ∧
    (standAt (vrBad 0x1001) 0x80 (fM 0)).clusters[0].part = some 0 ∧ legalAt (standAt (vrBad 0x1001) 0x88 (fM 0)) (.ve 0) 0x88 (fM 0) = true ∧
    (memFaults 0x88 (standAt (vrBad 0x1001) 0x88 (fM 0)).clusters[0] (vrBad 0x1001) (fM 0)).length = 2 ∧
    (standAt vr0 0x10 (fA 3 0)).clusters[0].ve.queue = [] ∧ NoRollBack (standAt vr0 0x10 (fA 3 0)) ∧
    unitAt (standAt vr0 0x10 (fA 3 0)) (.ve 0) 0x10 (fA 3 0) = true ∧ veLegal 0x10 (fA 3 0) = false ∧
    unitAt (standAt vr0 0x90 0) (.ve 0) 0x90 0 = true := by decide +kernel
theorem test_vld_fault : leads (.vld (.ve 0) (fM 0)) (standAt (vrBad 0x1001) 0x80 (fM 0))
    (fun t => t.clusters[0].ve.run.isNone && t.clusters[0].ve.faultKind == 2 && t.clusters[0].ve.faultPc == 0x100 &&
      t.parts[0].counters.veFaults == 1) = true := by decide +kernel
theorem test_vadd_illegal : leads (.vadd (.ve 0) (fA 3 0)) (standAt vr0 0x10 (fA 3 0)) (fun t => t.clusters[0].ve.faultKind == 4) = true := by decide +kernel
theorem test_vfirst_press : leads (.vfirst (.ps 0) 0) up (fun t => t.presses == up.presses) = true := by decide +kernel

/-! ## Press instructions -/

/-- A region of FP32 streams: stream 0 at byte 0 is read, stream 1 at byte 0x1000 is written; KIND 0 has 8192 elements, KIND 1 rows of
2 groups with their metadata at 0x2000, KIND 2 matrices of 8 rows. -/
def region0 (kind : Nat) : List W64 :=
  [BitVec.ofNat 64 (kind * 2 ^ 62 + (if kind = 1 then 1 else 0) * 2 ^ 60 + 2 * 2 ^ 56 +
      (if kind = 0 then 8192 else if kind = 1 then 2 * 2 ^ 32 + 4 else 8 * 2 ^ 32 + 1)), 0, if kind = 1 then 0x2000 else 0, 0,
    if kind = 2 then 2 ^ 54 else 0, 0, BitVec.ofNat 64 (2 ^ 55 + (if kind = 2 then 2 ^ 54 else 0) + 0x1000), 0, 0, 0, 0, 0, 0, 0, 0, 0]

/-- The program PBODY, X, VEND. -/
def image1 (kind op : Nat) (f : BitVec 56) : Image :=
  { instrs := [vWord 0x9C 0, vWord op f, vWord 0x01 0], regions := [region0 kind], bytes := [] }
def run0 (pc : Nat) (body : Bool) : PressRun :=
  { part := 0, pass := 2, slotOf := 0, region := 0, grain := 0, group := 0, pc := pc, body := body, base := VecRegs.zero,
    rows := Vector.replicate 6 0, writes := [], bad := 0 }
def pressing (kind op : Nat) (f : BitVec 56) (pc : Nat) (body : Bool) : State :=
  let s := stored part0 [obj1]
  { s with presses := vmod s.presses 0 fun x =>
      { x with slots := vmod x.slots 0 fun _ => { active := some (image1 kind op f), pending := none }, run := some (run0 pc body), regs := vr0 } }

/-- Fields of a stream instruction: VD 3, VA 1, STR and STR2 as given, MD 2, SUB 0. -/
def fP (str str2 : Nat) : BitVec 56 := BitVec.ofNat 56 (3 * 2 ^ 42 + 1 * 2 ^ 37 + str * 2 ^ 28 + str2 * 2 ^ 24 + 2 * 2 ^ 13)

/-- Where no line holds an error, no read fences a stack. -/
theorem no_stack_fence {s : State} (h : ∀ x : Hb, s.hbs[x].lines = []) : NoStackFence s := .inr fun x l => by rw [h x]; rfl

/-- A matrix whose first element is a NaN. -/
def broken : State :=
  let s := pressing 2 0x9E (fP 0 1) 1 true
  { s with hbs := vmod s.hbs 0 fun h => { h with mem := [(0, 0xFF), (1, 0xFF), (2, 0xFF), (3, 0x7F)] } }

theorem test_hyp_pst : ([0x98, 0x8D, 0x90, 0x91].all fun op =>
    legalAt (pressing 0 op (fP 1 0) 1 true) (.ps 0) op (fP 1 0)) = true ∧
    (pressing 0 0x98 (fP 1 0) 1 true).presses[0].run = some (run0 1 true) ∧
    regKind (runRegion (pressing 0 0x98 (fP 1 0) 1 true) (run0 1 true)) ≠ 2 := by decide +kernel
theorem test_hyp_canonical_press : Canonical (pressing 0 0x98 (fP 1 0) 1 true) := by decide +kernel
theorem test_hyp_canonical_broken : Canonical broken := by decide +kernel
theorem test_pst : leads (.pst (.ps 0) (fP 1 0)) (pressing 0 0x98 (fP 1 0) 1 true)
    (fun t => (t.presses[0].run.map fun r => (r.pc, r.writes.map fun w => (w.stream, w.lanes))) == some (2, [(1, [0x3F800000, 0x40000000])])) = true := by
  decide +kernel

theorem test_hyp_pld : (let s := pressing 0 0x90 (fP 0 0) 1 true
    legalAt s (.ps 0) 0x90 (fP 0 0)) = true ∧ NoStackFence (pressing 0 0x90 (fP 0 0) 1 true) := by
  exact ⟨by decide +kernel, no_stack_fence (by decide +kernel)⟩
theorem test_pld : leads (.pld (.ps 0) (fP 0 0)) (pressing 0 0x90 (fP 0 0) 1 true)
    (fun t => vGet t.presses[0].regs 3 0 == 0 && vGet t.presses[0].regs 1 0 == 0x3F800000) = true := by decide +kernel

theorem test_hyp_pmeta : (let s := pressing 1 0x91 (fP 0 0) 1 true
    legalAt s (.ps 0) 0x91 (fP 0 0)) = true ∧ NoStackFence (pressing 1 0x91 (fP 0 0) 1 true) := by
  exact ⟨by decide +kernel, no_stack_fence (by decide +kernel)⟩
/-- R366: the row's count with this update. -/
theorem test_pmeta : leads (.pmeta (.ps 0) (fP 0 0 + 1024)) (pressing 1 0x91 (fP 0 0 + 1024) 1 true)
    (fun t => vGet t.presses[0].regs 3 0 == 1) = true := by decide +kernel

theorem test_hyp_pbody : (let s := pressing 0 0x00 0 0 false
    legalAt s (.ps 0) 0x9C 0 && !s.presses[0].fenceReq && (nextGrain 0 (runRegion s (run0 0 false)) false (regGrains (region0 0) + 1) 0 s).2 == some (0, false) &&
    ((runImage s (run0 0 false)).bind fun im => regProgram im.instrs (region0 0)).isSome) = true ∧ NoStackFence (pressing 0 0x00 0 0 false) := by
  exact ⟨by decide +kernel, no_stack_fence (by decide +kernel)⟩
theorem test_pbody : leads (.pbody (.ps 0) 0) (pressing 0 0x00 0 0 false)
    (fun t => t.presses[0].run.map (fun r => (r.pc, r.body)) == some (1, true)) = true := by decide +kernel
theorem test_hyp_group : (let s := pressing 1 0x00 0 2 true
    legalAt s (.ps 0) 0x01 0 && decide (1 < grainGroups (runRegion s (run0 2 true))) && (runImage s (run0 2 true)).isSome && !s.stalled.contains (.grain 0)) = true := by
  decide +kernel
theorem test_group : leads (.vend (.ps 0) 0) (pressing 1 0x00 0 2 true)
    (fun t => t.presses[0].run.map (fun r => (r.pc, r.group)) == some (1, 1)) = true := by decide +kernel

theorem test_hyp_vfact : (let s := broken
    legalAt s (.ps 0) 0x9E (fP 0 1) && decide (regShape (runRegion s (run0 1 true)) ≤ 64)) = true := by decide +kernel
theorem test_hyp_vfact_fences : NoStackFence broken := no_stack_fence (by decide +kernel)
/-- R370: a matrix with a non-finite element is singular. -/
theorem test_vfact_singular : leads (.vfact (.ps 0) (fP 0 1)) broken
    (fun t => mGet t.presses[0].regs 2 == 0 && t.parts[0].counters.vfactSingular == 1) = true := by decide +kernel

/-! ## Links -/

/-- A port in service toward device 3, with room for 8 flits in each virtual channel; slot 1 is partition 0's. -/
def portUp : Port :=
  { Port.reset with state := .up, width := 8, peerId := 3, credits := Vector.replicate 4 8, free := Vector.replicate 4 8, plug := 1,
                    slotMap := 0x0F :: List.replicate 31 0x88 }
def withPort (x : Port) (s : State) : State := { s with ports := vmod s.ports 0 fun _ => x }

/-- A route of operation op over port 0 to route 0 of device 3, as object 0. -/
def routeBytes (op unit : Nat) : Bytes :=
  leBytes 8 (op * 2 ^ 60 + 3 * 2 ^ 24) ++ List.replicate 16 0 ++ leBytes 8 (unit * 2 ^ 32) ++ List.replicate 32 0
def routeObj (op : Nat) : SetupObj := { typ := 2, gen := 0, idx := 0, bytes := routeBytes op 0, st := .active }
def linked (p : Partition) : State := withPort portUp (withPart p Cluster.reset)
def routed (op : Nat) : State := linked { part0 with objs := [routeObj op] }
def goE : Entry := entry 0x50 (2 ^ 29) 0 0 0

theorem test_hyp_linkGo : (routed 1).links.norms = [] ∧ nextReady (routed 1) = none ∧ resendDue (routed 1) 0 0 = false ∧ Takes (routed 1) (.data 0 0) goE 0x50 { w2 := 2 ^ 32 - 1 } ∧
    findObj (routed 1) 0 2 (BitVec.ofNat 32 (fld goE.w2 31 0)) = .ok (routeBytes 1 0) ∧ rtObj (routed 1) 0 0 = some (routeObj 1) ∧
    rtOp (routeBytes 1 0) = 1 ∧ rtPort (routeBytes 1 0) = 0 ∧ peerJoined (routed 1) 0 3 = true ∧ (routed 1).links.routes = [] ∧
    Takes (routed 5) (.data 0 0) goE 0x50 { w2 := 2 ^ 32 - 1 } ∧ findObj (routed 5) 0 2 (2 ^ 29) = .ok (routeBytes 5 0) ∧ rtOp (routeBytes 5 0) = 5 := by
  decide +kernel
/-- R453: the route is active, so that the next LINK_GO waits. -/
def goingOn : State := let s := routed 1; { s with links := { s.links with routes := [{ lateRoute with unit := none, sentAll := false }] } }
theorem test_hyp_linkGo_waits : goingOn.links.norms = [] ∧ nextReady goingOn = none ∧ IdsFresh goingOn ∧ Takes goingOn (.data 0 0) goE 0x50 { w2 := 2 ^ 32 - 1 } ∧
    goingOn.links.routes.any (fun r => r.part == 0 && r.idx == 0) = true := by decide +kernel
theorem test_linkGo_waits : leads (.linkGo 0 0 goE) goingOn (fun t => t.links.routes == goingOn.links.routes && t.parts[0].inflight.map (·.wait) == [.routeNext 0]) =
    true := by decide +kernel
theorem test_linkGo : leads (.linkGo 0 0 goE) (routed 1) (fun t => t.links.routes.map (fun r => (r.port, r.bytes, r.sentAll)) == [(0, 0, false)]) = true := by
  decide +kernel
theorem test_linkGo_norm : leads (.linkGo 0 0 goE) (routed 5) (fun t => t.links.routes.map (fun r => (r.port, r.sentAll)) == [(0, false)]) = true := by decide +kernel

theorem test_hyp_linkSlotStart : lpPresent (linked part0) 0 = true ∧ (linked part0).ports[0].isUp = true ∧ (linked part0).links.locked = true ∧
    slotCode (linked { part0 with state := 2 }).ports[0].slotMap 1 = 0 ∧ (linked { part0 with state := 2 }).parts[0].conf = true ∧
    (withPort { portUp with quenched := true } one).ports[0].quenched = true := by decide +kernel
theorem test_hyp_slot0 : (linked part0).pins.perst = false ∧ (linked part0).power.pwrgd = true := by decide +kernel
/-- R458: slot 0 of the tick opens at its boundary, with a TIME flit on the port in service. -/
theorem test_timeSent : leads (.tickBoundary quiet) (linked part0) (fun t => t.links.sent.map (fun x => (x.port, x.typ)) == [(0, 2)] && t.ports[0].txNum == 1) = true := by
  decide +kernel
theorem test_quenched : leads (.linkSlotStart 0 1) (withPort { portUp with quenched := true } one) (fun t => t.links.sent.isEmpty) = true := by decide +kernel

/-- A flit of type t on channel vc in a slot, TENTATIVE where te is 1. -/
def flit1 (t vc te : Nat) (slot : Fin 64) (bs : Bytes) : Flit :=
  { port := 0, slot := slot, inWindow := true, first := true, h0 := BitVec.ofNat 32 (t * 2 ^ 28 + vc * 2 ^ 26 + te * 2 ^ 23 + bs.length), h1 := 0, seq := 0,
    payload := bs, again := false }

theorem test_hyp_idleFlit : Arrives (linked part0) (flit1 0 0 0 1 []) 0 := by decide +kernel
theorem test_idleFlit : leads (.idleFlit { flit1 0 0 0 1 [] with h0 := 2 * 2 ^ 20 + 3 * 2 ^ 8 }) (linked part0)
    (fun t => t.ports[0].rxNum == 1 && t.ports[0].credits == #v[8, 8, 11, 8]) = true := by decide +kernel

theorem test_hyp_dataFlit : Arrives (routed 2) (flit1 1 2 1 1 [7]) 1 ∧ flVc (flit1 1 2 1 1 [7]) = 2 ∧ flTent (flit1 1 2 1 1 [7]) = true ∧
    flLen (flit1 1 2 1 1 [7]) = 1 ∧ rtObj (routed 2) (flPart (flit1 1 2 1 1 [7])) (flStream (flit1 1 2 1 1 [7])) = some (routeObj 2) ∧
    isRecv (routeObj 2) = true ∧ rtPort (routeObj 2).bytes = 0 ∧ rtPeer (routeObj 2).bytes = 3 ∧ peerJoined (routed 2) 0 3 = true ∧
    slotTakes (routed 2) (flit1 1 2 1 1 [7]) true = true ∧ (flit1 1 2 1 1 [7]).slot ≠ 0 := by decide +kernel
theorem test_dataFlit : leads (.dataFlit (flit1 1 2 1 1 [7])) (routed 2)
    (fun t => t.ports[0].held.map (fun h => (h.tent, h.data)) == [(true, [7])] && t.ports[0].free == #v[8, 8, 7, 8]) = true := by decide +kernel

/-- The report of job 1, round 2, with a non-finite value. -/
def treeUpBs : Bytes := List.replicate 4 0 ++ leBytes 4 (2 ^ 24 + 2 * 2 ^ 20 + 2 ^ 19 + 5)
theorem test_hyp_treeUp : Arrives (linked part0) (flit1 3 0 0 0 treeUpBs) 3 ∧ flVc (flit1 3 0 0 0 treeUpBs) = 0 ∧ (linked part0).ports[0].state = .up := by
  decide +kernel
theorem test_treeUp : leads (.treeUp ⟨(flit1 3 0 0 0 treeUpBs), 2⟩) (linked part0)
    (fun t => t.ports[0].treeChild && t.ports[0].upDeep == 2 && t.links.reports.map (fun r => (r.job, r.round, r.nf, r.nrep)) == [(1, 2, true, 5)]) = true := by decide +kernel

/-- A decision APPLY of job 1 in round 0 and step 1, with the size of another job. -/
def treeDownBs : Bytes := leBytes 4 (2 ^ 24 + 2 ^ 18 + 1) ++ [2, 0, 0, 0] ++ leBytes 4 6
def deciding : State :=
  withPort { portUp with treeParent := true } (withPart { part0 with jobId := 1, step := { part0.step with phase := .decide } } Cluster.reset)
theorem test_hyp_treeDown : Arrives deciding (flit1 4 0 0 0 treeDownBs) 4 ∧ flLen (flit1 4 0 0 0 treeDownBs) = 12 ∧ deciding.ports[0].treeParent = true ∧
    deciding.parts[0].live = true ∧ deciding.parts[0].jobId = 1 ∧ deciding.parts[0].step.phase = .decide ∧ deciding.parts[0].step.round = 0 ∧
    deciding.parts[0].step.number = 1 := by decide +kernel
theorem test_treeDown : leads (.treeDown (flit1 4 0 0 0 treeDownBs)) deciding
    (fun t => t.parts[0].step.phase == .armed && t.parts[0].step.round == 1 && t.links.jobSizeNew == [(2, 6)]) = true := by decide +kernel

def normBs : Bytes := [1, 0, 1, 0] ++ leBytes 20 77 ++ [4, 0, 0, 0] ++ leBytes 4 9
/-- Partition 0 is in its norm exchange, and its NORM route, toward a parent or toward a child, has been activated. -/
def normingBy (bs : Bytes) : State :=
  let s := linked { part0 with jobId := 1, objs := [{ routeObj 5 with bytes := bs }], step := { part0.step with phase := .norm } }
  { s with links := { s.links with routes := [{ lateRoute with unit := none, sentAll := false }] } }
def norming : State := normingBy (routeBytes 5 0)
/-- The route of the root, with the child on port 0. -/
def rootBytes : Bytes := (routeBytes 5 0).take 40 ++ leBytes 8 (2 ^ 46 + 0x1F * 2 ^ 41) ++ List.replicate 16 0
def rooted : State := normingBy rootBytes
theorem test_hyp_normFlit : Arrives norming (flit1 9 2 0 1 normBs) 9 ∧ normRoute norming 0 = some (routeObj 5) ∧ rtParent (routeObj 5).bytes = 0 ∧
    byteAt normBs 0 = norming.parts[0].jobId ∧ numAt normBs 2 2 = norming.parts[0].step.number.toNat % 65536 ∧ slotCode portUp.slotMap 1 = 0 ∧
    normBs.length = 32 ∧ slotTakes norming (flit1 9 2 0 1 normBs) true = true ∧ (normRun (header norming (flit1 9 2 0 1 normBs)) 0).isSome = true := by
  decide +kernel
theorem test_hyp_normFlit_child : Arrives rooted (flit1 9 2 0 1 normBs) 9 ∧ (normRoute rooted 0).map (·.bytes) = some rootBytes ∧ rtParent rootBytes ≠ 0 ∧
    rtChildren rootBytes / 2 ^ 0 % 2 = 1 ∧ rooted.links.norms = [] ∧ slotTakes rooted (flit1 9 2 0 1 normBs) true = true := by decide +kernel
theorem test_normFlit_child : leads (.normFlit (flit1 9 2 0 1 normBs)) rooted
    (fun t => t.links.norms.map (fun n => (n.own, n.heard.toNat, n.sum.value.toNat)) == [(false, 1, 77)]) = true := by decide +kernel
theorem test_normFlit : leads (.normFlit (flit1 9 2 0 1 normBs)) norming
    (fun t => t.parts[0].step.combined.map (fun v => (v.value.toNat, v.nf, v.owners)) == some (77, true, 9)) = true := by decide +kernel

theorem test_hyp_widthFlit : Arrives (linked part0) (flit1 0xA 0 0 0 [1]) 0xA := by decide +kernel
def signalled : State := withPort portUp grouped
theorem test_hyp_signalFlit : Arrives signalled (flit1 0xB 1 0 1 []) 0xB ∧ flVc (flit1 0xB 1 0 1 []) = 1 ∧ signalled.waiters = [] ∧
    (List.range 1024).any (fun o => syncReach signalled.parts[0] o) = true ∧ slotSignals signalled (flit1 0xB 1 0 1 []) = true := by decide +kernel

theorem test_hyp_crc : lpPresent (linked part0) 0 = true ∧ (linked part0).ports[0].isUp = true ∧ (linked part0).ports[0].resends < 8 ∧
    8 ≤ (withPort { portUp with resends := 8 } up).ports[0].resends ∧ (withPort { portUp with resends := 8 } up).ports[0].isUp = true := by decide +kernel
theorem test_crc_last : leads (.flitCrcFail (.link 0) false) (withPort { portUp with resends := 8 } up) (fun t => t.ports[0].state == .down) = true := by
  decide +kernel
/-- R436, R440: a DATA flit without a buffer is a strike, and one behind a NAK does nothing. -/
def behind (n : Bool) : State := withPort { portUp with nak := n, free := Vector.replicate 4 0 } up
theorem test_hyp_dataDropped : behindNak (behind false) (flit1 1 2 0 1 [7]) = false ∧ noBuffer (behind false) (flit1 1 2 0 1 [7]) = true ∧
    behindNak (behind true) (flit1 1 2 0 1 [7]) = true ∧ bit (flit1 1 2 0 1 [7]).h1 19 = false ∧ flTyp (flit1 1 2 0 1 [7]) = 1 ∧ flLen (flit1 1 2 0 1 [7]) = 1 := by
  decide +kernel
theorem test_data_noBuffer : leads (.dataFlit (flit1 1 2 0 1 [7])) (behind false) (fun t => t.ports[0].protoTotal == 1) = true := by decide +kernel
theorem test_data_behindNak : leads (.dataFlit (flit1 1 2 0 1 [7])) (behind true) (fun t => t.ports[0].protoTotal == 0 && t.ports[0].rxNum == 0) = true := by
  decide +kernel
/-- R434, R440: a DATA flit before the port is UP is a protocol strike. -/
theorem test_data_handshake : leads (.dataFlit (flit1 1 2 0 1 [7])) (withPort { Port.reset with state := .handshake } up)
    (fun t => t.ports[0].protoTotal == 1 && t.ports[0].state == .handshake) = true := by decide +kernel

/-- A command of the lodestar (device 0 here) for this device. -/
def qf (kind scope target : Byte) : QfFrom := ⟨flit1 5 0 0 0 ([kind, scope, target, 0xFF, 0xFF, 0, 0] ++ List.replicate 25 0), 0⟩
theorem test_hyp_qf : ([1, 2, 3, 4] : List Byte).all (fun k => decide (Arrives (linked part0) (qf k 1 0).flit 5) && qfKind (qf k 1 0).flit == k.toNat &&
    BitVec.ofNat 16 (numAt (qf k 1 0).flit.payload 5 2) == (linked part0).links.lodestar &&
    BitVec.ofNat 16 (numAt (qf k 1 0).flit.payload 3 2) == (linked part0).links.deviceId && decide ((qf k 1 0).flit.slot = 0)) = true := by
  decide +kernel

/-- Port 1 is fenced by a command, or on a threshold. -/
def fencedBy (cause : BitVec 3) : State :=
  withPort { portUp with state := .up } { up with ports := vmod up.ports 1 fun x => { x with state := .fenced, fence := true, fenceCause := cause } }
def fencedPort : State := fencedBy 1

theorem test_hyp_qf_fence : qfScope (qf 3 0 1).flit = 0 ∧ qfTarget (qf 3 0 1).flit = 1 ∧ (linked part0).ports[1].state ≠ .fenced ∧
    lpPresent (linked part0) 1 = true ∧ Arrives fencedPort (qf 4 0 1).flit 5 ∧ fencedPort.ports[1].state = .fenced ∧ qfScope (qf 1 1 0).flit = 1 := by
  decide +kernel
theorem test_quench : leads (.quench (qf 1 1 0) false) (linked part0) (fun t => t.parts[0].quenched) = true := by decide +kernel
theorem test_fence : leads (.fence (qf 3 0 1)) (linked part0) (fun t => t.ports[1].state == .fenced && t.ports[1].fenceCause == 1) = true := by decide +kernel
/-- R484: a threshold fence stays. -/
theorem test_unfence_threshold : (fencedBy 2).ports[1].fenceCause = 2 ∧ leads (.unfence (qf 4 0 1)) (fencedBy 2) (fun t => t.ports[1].state == .fenced) = true := by
  decide +kernel
theorem test_unfence : leads (.unfence (qf 4 0 1)) fencedPort (fun t => t.ports[1].state == .down) = true := by decide +kernel

def heldOne (n : W32) (tick : W64) : HeldFlit := { part := 0, stream := 0, seq := n, tent := true, last := false, data := [], vc := 2, tick := tick }
def holdingTwo : State := withPort { portUp with held := [heldOne 4 0, { heldOne 5 0 with last := true }] } (withPart { part0 with objs := [routeObj 2] } Cluster.reset)
def token1 (a b : W32) : Token := { part := 0, stream := 0, seqFirst := a, seqLast := b, sendTick := 0 }
theorem test_hyp_tokens : holdsAll holdingTwo.ports[0] (token1 4 5) = true ∧ holdsAll holdingTwo.ports[0] (token1 4 6) = false ∧
    holdingTwo.ports[0].isUp = true ∧ holdingTwo.links.locked = true := by decide +kernel
theorem test_revoke : leads (.revokeToken 0 ⟨(token1 4 5), false⟩) holdingTwo (fun t => t.ports[0].held.isEmpty && t.ports[0].discards == 2) = true := by decide +kernel
theorem test_revoke_missing : leads (.revokeToken 0 ⟨(token1 4 6), false⟩) holdingTwo (fun t => t.ports[0].held.length == 2 && t.ports[0].protoTotal == 1) = true := by
  decide +kernel
/-- R464, R466: a commit token releases; where a fence comes in the same clock, it does nothing. -/
theorem test_commit : leads (.commitToken 0 ⟨(token1 4 5), false⟩ false) holdingTwo (fun t => t.ports[0].held.all (fun h => !h.tent) && t.ports[0].discards == 0) = true := by
  decide +kernel
theorem test_commit_fenced : leads (.commitToken 0 ⟨(token1 4 5), true⟩ false) holdingTwo (fun t => t.ports[0].held.length == 2) = true := by decide +kernel
def late3 : State := { holdingTwo with meridian := { holdingTwo.meridian with tick := 3 } }
theorem test_hyp_heldExpiry : late3.ports[0].held.any (fun l => l.tent && l.last && decide (l.tick.toNat + 3 ≤ late3.meridian.tick.toNat)) = true := by decide +kernel
theorem test_heldExpiry : leads (.heldExpiry 0) late3 (fun t => t.ports[0].held.isEmpty && t.ports[0].lost == 2) = true := by decide +kernel

/-! ### Handshakes and port states -/

def shaking (got : Nat) : State := withPort { Port.reset with state := .handshake, shake := { Handshake.reset with got := got } } up
def hello1 (v : Byte) (c : W32) (d : BitVec 16) : HelloMsg :=
  { version := v, constId := c, deviceId := d, lcState := 4, peerPort := 2, nonce := List.replicate 48 0, slotMap := defaultSlotMap }
def evidence1 (fw : Bytes) (ok : Bool) : EvidenceMsg :=
  { romDigest := List.replicate 48 0, sfwDigest := List.replicate 48 0, dfwDigest := fw, pubKey := List.replicate 96 0, sig := List.replicate 96 0, sigOk := ok }

theorem test_hyp_awaits : awaits (shaking 0) 0 1 = true ∧ awaits (shaking 1) 0 2 = true ∧ awaits (shaking 2) 0 3 = true ∧ awaits (shaking 3) 0 4 = true ∧
    (shaking 0).ports[0].state = .handshake ∧ lpPresent (shaking 0) 0 = true := by decide +kernel
theorem test_hyp_hello : (hello1 Config.linkVersion 0 3).version = Config.linkVersion ∧ (hello1 Config.linkVersion 0 3).constId = (shaking 0).ports[0].constId ∧
    (hello1 Config.linkVersion 0 3).deviceId ≠ (shaking 0).ports[0].devId ∧ (hello1 Config.linkVersion 1 3).constId ≠ (shaking 0).ports[0].constId ∧
    (hello1 Config.linkVersion 0 0xFFFF).deviceId = (shaking 0).ports[0].devId :=
  ⟨rfl, by decide +kernel, by decide +kernel, by decide +kernel, by decide +kernel⟩
theorem test_hyp_hello_version : (hello1 (Config.linkVersion + 1) 0 3).version ≠ Config.linkVersion := by
  show Config.linkVersion + 1 ≠ Config.linkVersion
  generalize Config.linkVersion = v
  revert v; decide
theorem test_hyp_evidence : fwAccepted (shaking 2) ((shaking 2).sc.dfwDigest) = true ∧ fwAccepted (shaking 2) [1] = false ∧
    (evidence1 [1] true).sigOk = true ∧ (evidence1 [1] false).sigOk = false := by decide +kernel
theorem test_evidence_firmware : leads (.evidence 0 (evidence1 [1] true)) (shaking 2) (fun t => t.ports[0].state == .refused && t.ports[0].shake.refuse == 5) =
    true := by decide +kernel
theorem test_hyp_cert : (shaking 1).sc.esState = 0 ∧ Canonical (shaking 3) := by decide +kernel
/-- The HMAC that is expected, and one that is not (R482). -/
theorem test_hyp_finish (s : State) (p : Lp) (h : Handshake) : finishMac s p h = finishMac s p h ∧ 0 :: finishMac s p h ≠ finishMac s p h :=
  ⟨rfl, fun h => absurd (congrArg List.length h) (by simp)⟩
/-- The three messages of the peer have come before its FINISH. -/
def shaken : State := (shaking 3).modPort 0 fun x => { x with shake := { x.shake with peers := [[1], [2], [3]] } }
theorem test_hyp_finish_keys : awaits shaken 0 4 = true ∧ Canonical shaken ∧ 3 ≤ shaken.ports[0].shake.peers.length := by decide +kernel
/-- A re-key of the receive direction, whose EVIDENCE has been exchanged (R483). -/
def linkRekey1 : LinkRekey := { out := false, shake := { Handshake.reset with sent := 4, got := 3 }, at_ := 4 }
def rekeyingLink : State := withPort { portUp with rekey := some linkRekey1 } up
theorem test_hyp_linkRekey : (linked part0).ports[0].isUp = true ∧ (linked part0).ports[0].rekey = none ∧ (linked part0).sc.esState = 0 ∧
    rekeyingLink.ports[0].isUp = true ∧ rekeyingLink.ports[0].rekey = some linkRekey1 ∧ linkRekey1.shake.got = 3 ∧ linkRekey1.shake.sent = 4 := by decide +kernel
theorem test_hello_stray : leads (.hello 0 (hello1 0 0 3)) (linked part0) (fun t => t.ports[0].protoTotal == 1 && t.ports[0].state == .up) = true := by
  decide +kernel
theorem test_timeout : leads (.messageTimeout 0) (shaking 1) (fun t => t.ports[0].state == .refused && t.ports[0].shake.refuse == 9) = true := by decide +kernel

def inState (x : PortState) : State := withPort { Port.reset with state := x, plug := 1 } up
theorem test_hyp_port : (inState .down).ports[0].plug = 1 ∧ mayTrain (inState .down) 0 = true ∧ up.ports[0].plug ≠ 1 ∧ (inState .training).sc.esState = 0 ∧
    (linked part0).ports[0].isUp = true ∧ bit (linked part0).ports[0].lanesFenced 0 = false ∧ (inState .training).ports[0].slotMap.length = 32 ∧
    ({ inState .training with sc := { up.sc with esState := 1 } } : State).sc.esState ≠ 0 ∧ (∀ x ∈ [PortState.training, .handshake, .refused], (inState x).ports[0].state = x) ∧
    fenceDue (withPort { portUp with window := [(0, 16, 0, 0)] } up) 0 = 2 ∧ lpPresent up 0 = true := by decide +kernel
theorem test_signalDetect : leads (.signalDetect 0) (inState .down) (fun t => t.ports[0].state == .training) = true := by decide +kernel
theorem test_trainingLock : leads (.trainingLock ⟨0, 4⟩) (inState .training) (fun t => t.ports[0].state == .handshake) = true := by decide +kernel
theorem test_backoff : leads (.backoffExpiry 0) (inState .refused) (fun t => t.ports[0].state == .training && t.ports[0].backoff == 2) = true := by decide +kernel
theorem test_thresholdFence : leads (.portThresholdFence 0) (withPort { portUp with window := [(0, 16, 0, 0)] } up)
    (fun t => t.ports[0].state == .fenced && t.ports[0].fenceCause == 2) = true := by decide +kernel

/-! ### Tick lock -/

def timed (f : Links → Links) : State := { up with links := f up.links }
def electing1 : State := timed fun l => { l with locked := false, candPref := 1, candId := l.deviceId, selfCount := 64 }
def standing : State := timed fun l => { l with standby := l.deviceId, lodestar := 4, noTime := 16 }
def alone : State :=
  { up with links := { up.links with locked := false, pref := 1 }, sc := { up.sc with stage := 6 } }
theorem test_hyp_lodestar : electing1.links.candId = electing1.links.deviceId ∧ electing1.links.locked = false ∧ standing.links.locked = true ∧
    standing.links.standby = standing.links.deviceId ∧ standing.links.lodestar ≠ standing.links.deviceId ∧ 16 ≤ standing.links.noTime ∧
    6 ≤ alone.sc.stage.toNat ∧ alone.pins.perst = false ∧ alone.links.pref ≠ 0 ∧ (∀ p : Lp, alone.ports[p].isUp = false) := by decide +kernel
theorem test_elected : leads .lodestarElected electing1 (fun t => t.links.locked && t.links.epoch == 2 && t.links.depth == 0) = true := by decide +kernel
theorem test_takeover : leads .standbyTakeover standing (fun t => t.links.lodestar == 0xFFFF && t.links.epoch == 2) = true := by decide +kernel
theorem test_self : leads .selfLodestar alone (fun t => t.links.locked && t.links.epoch == 1) = true := by decide +kernel
theorem test_unlock : leads .timeLossUnlock standing (fun t => !t.links.locked && t.links.depth == 0xFF) = true := by decide +kernel

/-- A TIME flit of a lodestar 9 at tick 7 and epoch 5, period 100 µs. -/
def timeBs : Bytes := leBytes 8 7 ++ leBytes 2 9 ++ leBytes 2 0 ++ leBytes 4 5 ++ [0, 16, 100, 0] ++ List.replicate 20 0
def unlocked : State := withPort portUp (timed fun l => { l with locked := false })
/-- The same flit names a period that takes effect later (R469). -/
def timeEffBs : Bytes := timeBs.take 20 ++ leBytes 8 9 ++ timeBs.drop 28
theorem test_hyp_time_refused : (timeMsg timeEffBs).eff ≠ 0 ∧ (timeMsg timeEffBs).depth = 0 ∧ Arrives unlocked (flit1 2 0 0 0 timeEffBs) 2 := by decide +kernel
theorem test_time_refused : leads (.timeFlit (flit1 2 0 0 0 timeEffBs) ⟨0, 0⟩) unlocked (fun t => !t.links.locked) = true := by decide +kernel
theorem test_hyp_time : (let m := timeMsg timeBs
    decide (Arrives unlocked (flit1 2 0 0 0 timeBs) 2) && m.depth == 0 && unlocked.ports[0].width == 8 &&
      decide (m.depth.toNat + 1 ≤ depthLimitAt m.period.toNat) && m.eff == 0) = true := by
  decide +kernel
theorem test_time : leads (.timeFlit (flit1 2 0 0 0 timeBs) ⟨0, 0⟩) unlocked
    (fun t => t.links.locked && t.links.depth == 1 && t.links.lodestar == 9 && t.meridian.tick == 7) = true := by decide +kernel

/-- R43: a device with lock takes the tick number of the flit. -/
def following : State := withPort portUp (timed fun l => { l with lodestar := 9, epoch := 5 })
theorem test_hyp_follow : (let m := timeMsg timeBs
    decide (Arrives following (flit1 2 0 0 0 timeBs) 2) && following.links.locked && m.depth != 0xFF &&
      !outdated following.links m 0 && following.links.lodestar != following.links.deviceId) = true := by decide +kernel
theorem test_follow : leads (.timeFlit (flit1 2 0 0 0 timeBs) ⟨0, 0⟩) following (fun t => t.meridian.tick == 7 && t.links.lodestar == 9) = true := by decide +kernel
/-- R493: a flit of an older epoch leaves a device as it is, and a lodestar that sees a better one yields. -/
theorem test_hyp_outdated : outdated (timed fun l => { l with lodestar := 9, epoch := 6 }).links (timeMsg timeBs) 0 = true := by decide +kernel
def yielding : State := withPort portUp (timed fun l => { l with lodestar := l.deviceId, epoch := 4 })
theorem test_hyp_yield : Arrives yielding (flit1 2 0 0 0 timeBs) 2 ∧ outdated yielding.links (timeMsg timeBs) 0 = false ∧ yielding.links.locked = true ∧
    yielding.links.lodestar = yielding.links.deviceId ∧ (timeMsg timeBs).lode ≠ yielding.links.deviceId ∧ yielding.ports[0].width = 8 ∧
    (timeMsg timeBs).depth.toNat + 1 ≤ depthLimitAt (periodOf yielding (timeMsg timeBs)).periodUs.toNat := by decide +kernel
theorem test_yield : leads (.timeFlit (flit1 2 0 0 0 timeBs) ⟨0, 0⟩) yielding (fun t => t.links.lodestar == 9 && t.links.depth == 1) = true := by decide +kernel

/-! ## The passes of a step, the cellar and the scrubbers -/

def inPhase (ph : StepPhase) (units : BitVec 9) (s : State) : State :=
  s.modPart 0 fun p => { p with step := { p.step with phase := ph, unitsDone := units } }

theorem test_hyp_pass1 : (inPhase .armed 0 one).parts[0].step.phase = .armed ∧ transferOpen (inPhase .armed 0 one) 0 = false ∧
    (∀ u : Ps, (inPhase .armed 0 one).presses[u].slots[(0 : Pt)].active = none) ∧ (∀ p : Ps, (inPhase .armed 0 one).presses[p].ready = []) ∧
    (∀ h : Hb, (inPhase .armed 0 one).hbs[h].fenced = false) ∧ one.parts[0].step.phase ≠ .armed := by decide +kernel
theorem test_pass1Start : leads (.pressPass1Start ⟨0, false⟩) (inPhase .armed 0 one) (fun t => t.parts[0].step.phase == .pass1) = true := by decide +kernel

/-- Unit 0 runs pass 1 over its region; the other units are done. -/
def inPass1 : State :=
  let s := inPhase .pass1 0x1FE (pressing 0 0x00 0 0 false)
  s.modPress 0 fun x => { x with run := some { run0 0 false with pass := 1 } }
theorem test_hyp_pass1End : inPass1.parts[0].step.phase = .pass1 ∧ (∀ u ∈ openUnits inPass1 0, pass1Runs inPass1 0 u = true) ∧ openUnits inPass1 0 = [0] ∧
    normRoute inPass1 0 = none := by decide +kernel
theorem test_hyp_pass1End_fences : ((openUnits inPass1 0).foldl (fun a u => match a.1.presses[u].slots[(0 : Pt)].active with
      | some im => im.regions.foldl (normRegion 0 inPass1.parts[0].step.normWexp.toInt) a
      | none => a) (inPass1, NormPartial.zero)).1.hbs.toList.all (fun h => !h.fenced) = true := by decide +kernel
theorem test_pass1End : leads (.pressPass1End 0) (inPhase .pass1 0x1FF one)
    (fun t => t.parts[0].step.phase == .norm && t.parts[0].step.combined.isSome) = true := by decide +kernel

theorem test_hyp_pass2 : (inPhase .normHere 0 one).parts[0].step.phase = .normHere ∧ (inPhase .pass2 0x1FF one).parts[0].step.unitsDone = BitVec.allOnes 9 ∧
    bit (inPhase .pass2 0x1FF one).cellar.lastWrite 0 = false ∧ one.parts[0].step.unitsDone ≠ BitVec.allOnes 9 := by decide +kernel
theorem test_pass2Start : leads (.pressPass2Start ⟨0, false⟩) (inPhase .normHere 0 one) (fun t => t.parts[0].step.phase == .pass2) = true := by decide +kernel
theorem test_updatePhaseEnd : leads (.updatePhaseEnd 0) (inPhase .pass2 0x1FF one) (fun t => t.parts[0].step.phase == .applied) = true := by decide +kernel

/-- Press 0 has stopped in pass 2; the cellar press can serve, or cannot. -/
def stopped (up : Bool) : State :=
  let s := inPhase .pass2 0x1FE ((pressing 0 0x00 0 1 true).modPress 0 fun x => { x with faulted := true })
  { s with cellar := { s.cellar with cpUp := if up then 1 else 0 } }
theorem test_hyp_takeover : (stopped true).presses[0].faulted = true ∧ (stopped true).presses[8].ready = [] ∧ (stopped true).presses[8].run = none ∧
    leftPasses (stopped true).presses[0] = [(0, 2, 0)] ∧ cellarServesPart (stopped true) 0 = true ∧ cellarServesPart (stopped false) 0 = false ∧
    leftPasses (stopped false).presses[0] = [(0, 2, 0)] ∧ inUpdate (stopped false).parts[0] = true := by decide +kernel
theorem test_takeover_cellar : leads (.takeover 0) (stopped true) (fun t => t.presses[8].run.map (·.slotOf) == some 0) = true := by decide +kernel
theorem test_takeover_torn : leads (.takeover 0) (stopped false) (fun t => t.parts[0].step.phase == .torn) = true := by decide +kernel

theorem test_hyp_pressFault : (pressing 0 0x00 0 1 true).presses[0].faulted = false ∧ hbPresent (pressing 0 0x00 0 1 true) 0 = true ∧
    up.presses[8].faulted = false ∧ (pressing 0 0x00 0 1 true).presses[8].run = none := by decide +kernel
/-- The cellar press runs pass 2 of its own slot. -/
def cellarRuns : State := (inPhase .pass2 0 one).modPress 8 fun x => { x with run := some { run0 1 true with slotOf := 8 } }
theorem test_hyp_pressFault_cellar : cellarRuns.presses[8].run.map (·.part) = some 0 ∧ inUpdate cellarRuns.parts[0] = true := by decide +kernel
theorem test_pressFault_cellar : leads (.pressFault 8) cellarRuns (fun t => t.presses[8].faulted && t.parts[0].step.phase == .torn) = true := by decide +kernel

def lateMove : State := { moving with reqs := [{ movingReq with cellar := true, deadline := 0 }] }
theorem test_hyp_deadline : lateMove.reqs.find? (fun x => x.id == 0) = some { movingReq with cellar := true, deadline := 0 } ∧
    moveRuns lateMove { movingReq with cellar := true, deadline := 0 } = true ∧ NoRollBack lateMove := by decide +kernel
theorem test_hyp_deadline_tick : (0 : W64) ≤ lateMove.meridian.tick := by decide +kernel
theorem test_deadline : leads (.cellarDeadlineExpiry 0 false) lateMove (fun t => t.parts[0].counters.cellarLate == 1) = true := by decide +kernel

def cpUp1 : State := { up with cellar := { up.cellar with cpUp := 1 } }
theorem test_hyp_cpPortFail : bit cpUp1.cellar.cpFenced 0 = false ∧ bit cpUp1.cellar.cpUp 0 = true := by decide +kernel
/-- R414: a flit of a cellar port that fails its CRC is sent again, and the resend is counted. -/
theorem test_cpCrc : cpCarries cpUp1 0 = true ∧ leads (.flitCrcFail (.cellar 0 false) false) cpUp1
    (fun t => t.cellar.resends == 1 && !bit t.cellar.cpFenced 0) = true := by decide +kernel
theorem test_cpPortFail : leads (.cpPortFail 0) cpUp1 (fun t => t.cellar.resends == 8 && bit t.cellar.cpFenced 0) = true := by decide +kernel

def noticed : State := { one with cellar := { one.cellar with notices := [⟨0, 1, some 3⟩] } }
theorem test_noticeBatchCut : leads (.noticeBatchCut false) noticed
    (fun t => t.cellar.batch == some [⟨0, 1, some 3⟩] && t.cellar.notices.isEmpty && t.cellar.late) = true := by decide +kernel

theorem test_hyp_scrubRead : Canonical one ∧ 64 * 5 < bankBytes one (hbBank 0) ∧ (Sparse.get LineMeta.zero one.hbs[0].lines 5).ue = false ∧
    (Sparse.get LineMeta.zero one.hbs[0].lines 5).poison = false := by decide +kernel
theorem test_scrubRead : leads (.scrubRead (hbBank 0) 5 .uncorrectable false) one
    (fun t => (Sparse.get LineMeta.zero t.hbs[0].lines 5).poison && t.hbs[0].ue == 1) = true := by decide +kernel

/-- R419: an error that a read can correct is found by the scrubber, and counted. -/
theorem test_scrubRead_ce : leads (.scrubRead (hbBank 0) 5 .clean false) (one.modStack 0 fun h => { h with lines := [(5, { LineMeta.zero with ce := true })] })
    (fun t => t.hbs[0].ce == 1 && t.hbs[0].lines.isEmpty && t.hbs[0].scrub.ceSecond == 1) = true := by decide +kernel

def rekey1 (w : Bool) : Rekey :=
  { region := 0, keyId := 0, part := 0, oldGen := 0, newGen := 1, ptr := 32767, waiting := w, failed := false, bounds := 2 }
def rekeying (w : Bool) : State := one.modStack 0 fun h => { h with rekeys := [rekey1 w] }
theorem test_hyp_rekey : Canonical (rekeying false) ∧ NothingHeld (rekeying false) ∧ NothingHeld (rekeying true) ∧
    (((bank (rekeying false) (hbBank 0)).rekeys.filter fun x => !x.waiting).take 4).find? (fun x => x.region == 0) = some (rekey1 false) ∧
    (bank (rekeying true) (hbBank 0)).rekeys.find? (fun x => x.region == 0) = some (rekey1 true) := by decide +kernel
/-- A line of the region that was written under the old generation, on no counter path. -/
def rekeyLine : State :=
  (stored part0 [obj1]).modStack 0 fun h => { h with rekeys := [rekey1 false], lines := [(32767, { LineMeta.zero with written := true })] }
theorem test_hyp_rekey_line : objInBank rekeyLine.parts[0] (hbBank 0) (64 * 32767) = some obj1 ∧ Canonical rekeyLine ∧ NothingHeld rekeyLine ∧
    (usePath (findErrors rekeyLine (hbBank 0) 32767) (hbBank 0) obj1 32767 true).2 = none := by
  decide +kernel
theorem test_rekeyEngine_line : leads (.rekeyEngine (hbBank 0) 0) rekeyLine
    (fun t => (Sparse.get LineMeta.zero t.hbs[0].lines 32767).gen == 1) = true := by decide +kernel
theorem test_rekeyEngine : leads (.rekeyEngine (hbBank 0) 0) (rekeying false)
    (fun t => regionGen (bank t (hbBank 0)) 0 == 1 && (bank t (hbBank 0)).rekeys.isEmpty) = true := by decide +kernel
theorem test_rekeyWait : leads (.rekeyWaitExpiry (hbBank 0) 0 false) (rekeying true) (fun t => (bank t (hbBank 0)).rekeys.map (·.failed) == [true]) = true := by
  decide +kernel

/-! ## The object dictionary -/

/-- A request frame of session 1 with sequence number 9. -/
def frameOf (op : Byte) (idx : Nat) (sub : Byte) (off : Nat) (data : Bytes) : Bytes :=
  let h := [1, op] ++ leBytes 2 9 ++ leBytes 2 1 ++ [0, 0] ++ leBytes 2 idx ++ [sub, 0] ++ leBytes 4 data.length ++ leBytes 4 off ++ data
  h ++ leBytes 4 (crc32c h).toNat
def requestOf (op idx sub off : Nat) (data : Bytes) : Frame := ⟨op, 9, 1, idx, sub, 0, off, data⟩

/-- A source on the management port, a secure one, and sessions of theirs. -/
def src0 : OdpSrc := .mgmt 1 2
def srcS : OdpSrc := .mgmtSpdm 0
def ses (o : OdpSrc) (part : Option Pt) : OdpSession :=
  { id := 1, src := o, party := false, part := part, lastSeq := none, lastResp := [], staging := [], snaps := [] }
def ready (s : State) (xs : List OdpSession) : State :=
  { s with sc := { s.sc with stage := 8 }, dict := { s.dict with sessions := xs },
           spdm := [{ conn := 0, overUdp := true, addr := 0, stage := 5, requester := List.replicate 96 0, secure := true, updates := 0 }] }
def asked (part : Option Pt) : State := ready one [ses src0 part]

/-- The frames parse. -/
def parses (op idx sub off : Nat) (data : Bytes) : Bool :=
  match parseFrame (frameOf (BitVec.ofNat 8 op) idx (BitVec.ofNat 8 sub) off data) with
  | some f => f.op == op && f.seq == 9 && f.session == 1 && f.index == idx && f.sub == sub && f.typ == 0 && f.offset == off && f.data == data
  | none => false

/-- The hypotheses of Asks and AsksWrite, as a test. -/
def comes (s : State) (o : OdpSrc) (op idx sub off : Nat) (data : Bytes) (x : OdpSession) : Bool :=
  arrives s o && !overOdpLimit s o && sessionOf s o (requestOf op idx sub off data) == some x && x.lastSeq != some 9
def asks (s : State) (o : OdpSrc) (op idx sub off : Nat) (data : Bytes) (x : OdpSession) : Bool :=
  parses op idx sub off data && comes s o op idx sub off data x
def mayRead (s : State) (x : OdpSession) (f : Frame) : Bool := match entryCheck s x f .read with | .ok _ => true | _ => false
def mayWrite (s : State) (x : OdpSession) (f : Frame) : Bool :=
  match entryCheck s x f .write with | .ok (_, r) => r.typ.lengthOk f.data.length | _ => false
def comesW (s : State) (o : OdpSrc) (idx sub : Nat) (data : Bytes) (x : OdpSession) : Bool :=
  comes s o 4 idx sub 0 data x && decide (data.length ≤ largestOf o) && mayWrite s x (requestOf 4 idx sub 0 data)
def asksW (s : State) (o : OdpSrc) (idx sub : Nat) (data : Bytes) (x : OdpSession) : Bool := parses 4 idx sub 0 data && comesW s o idx sub data x

theorem test_hyp_open : arrives (ready one []) src0 = true ∧ overOdpLimit (ready one []) src0 = false ∧ parses 1 0 0 0 [0, 0xFF] = true ∧ (ready one []).dict.sessions.length < 32 ∧
    32 ≤ (ready one (List.replicate 32 (ses src0 none))).dict.sessions.length := by decide +kernel
theorem test_hyp_open_party : arrives (ready (secret (session1 2 0xFF 1 0) [] []) []) srcS = true ∧ parses 1 0 0 0 [1, 0] = true ∧
    partyMayOpen (ready (secret (session1 2 0xFF 1 0) [] []) []) srcS 0 = true := by decide +kernel
theorem test_open : leads (.odpOpen src0 (frameOf 1 0 0 0 [0, 0xFF])) (ready one [])
    (fun t => t.dict.sessions.map (fun x => (x.src, x.part)) == [(src0, none)] && t.dict.out.length == 1) = true := by decide +kernel

theorem test_hyp_noSession : ([2, 3, 5, 6, 8, 9].all fun op => parses op 0x2000 4 0 []) = true ∧
    (sessionOf (ready one []) src0 (requestOf 3 0x2000 4 0 [])).isNone = true ∧
    (sessionOf (ready one [{ ses src0 none with lastSeq := some 9 }]) src0 (requestOf 3 0x2000 4 0 [])).isSome = true := by decide +kernel
theorem test_again : leads (.odpRead src0 (frameOf 3 0x2000 4 0 [])) (ready one [{ ses src0 none with lastSeq := some 9, lastResp := [7] }])
    (fun t => t.dict.out == [[7]]) = true := by decide +kernel
theorem test_hyp_badFrame : arrives (asked none) src0 = true ∧ (parseFrame [1, 3]).isNone = true := by decide +kernel
theorem test_badFrame : leads (.odpRead src0 [1, 3]) (asked none) (fun t => t.dict.dropped == 1 && t.dict.out.isEmpty) = true := by decide +kernel

theorem test_hyp_close_session : asks (asked none) src0 2 0 0 0 [] (ses src0 none) = true := by decide +kernel
theorem test_hyp_read : asks (asked none) src0 3 0x2000 4 0 [] (ses src0 none) = true ∧ mayRead (asked none) (ses src0 none) (requestOf 3 0x2000 4 0 []) = true ∧
    (takeValue (asked none) (ses src0 none) .power 4).isSome = true ∧ mayRead (asked none) (ses src0 none) (requestOf 3 0x2001 4 0 []) = false ∧
    asks (asked none) src0 3 0x2001 4 0 [] (ses src0 none) = true := by decide +kernel
theorem test_hyp_readSeg : asks (asked none) src0 5 0x2000 4 0 [] (ses src0 none) = true ∧ mayRead (asked none) (ses src0 none) (requestOf 5 0x2000 4 0 []) = true ∧
    asks (asked none) src0 5 0x2000 4 1 [] (ses src0 none) = true ∧
    snapOf { ses src0 none with snaps := [(0x2000, 4, [1, 2])] } (requestOf 5 0x2000 4 1 []) = some [1, 2] := by decide +kernel
theorem test_hyp_writeSeg : asks (asked none) src0 6 0x2000 4 0 [5] (ses src0 none) = true ∧ asks (asked none) src0 6 0x2000 4 1 [5] (ses src0 none) = true ∧
    (match entryCheck (asked none) (ses src0 none) (requestOf 6 0x2000 4 0 [5]) .stage with | .ok (_, r) => decide (2 ≤ r.typ.largest) | _ => false) = true ∧
    stagedOf { ses src0 none with staging := [(0x2000, 4, [1])] } (requestOf 6 0x2000 4 1 [5]) = some [1] := by decide +kernel
theorem test_writeSeg : leads (.writeSeg src0 (frameOf 6 0x2000 4 0 [5])) (asked none)
    (fun t => t.dict.sessions.map (·.staging) == [[(0x2000, 4, [5])]]) = true := by decide +kernel

def stagedId : OdpSession := { ses src0 none with staging := [(0x3100, 1, [3, 0])] }
theorem test_hyp_writeEnd : asks (ready one [stagedId]) src0 7 0x3100 1 0 (leBytes 4 2) stagedId = true ∧ ownRow (requestOf 7 0x3100 1 0 []) = false ∧
    (match entryCheck (ready one [stagedId]) stagedId (requestOf 7 0x3100 1 0 []) .write with
      | .ok (a, r) => a == .links && r.typ.lengthOk 2 && (writeEntry (ready one [stagedId]) {} stagedId a 1 [3, 0]).2 == 0
      | _ => false) = true := by decide +kernel
theorem test_writeEnd : leads (.writeEnd src0 (frameOf 7 0x3100 1 0 (leBytes 4 2))) (ready one [stagedId]) (fun t => t.links.deviceIdW == 3) = true := by
  decide +kernel

theorem test_hyp_powerLimit : asksW (asked none) src0 0x2000 4 (leBytes 2 600) (ses src0 none) = true ∧ asksW (asked none) src0 0x2000 4 (leBytes 2 599) (ses src0 none) = true ∧
    600 ≤ (tdpWatts (asked none).full).toNat := by decide +kernel
theorem test_powerLimit : leads (.odpWrite src0 (frameOf 4 0x2000 4 0 (leBytes 2 600))) (asked none) (fun t => t.power.limitW == 600) = true := by decide +kernel

/-- The slot map of port 0 is an ARM entry. -/
theorem test_hyp_armEntry : asks (asked none) src0 4 0x3000 6 0 [] (ses src0 none) = true ∧ ownRow (requestOf 4 0x3000 6 0 []) = false ∧
    (match entryCheck (asked none) (ses src0 none) (requestOf 4 0x3000 6 0 []) .write with | .error e => e == 5 | _ => false) = true := by decide +kernel
theorem test_hyp_describe : asks (asked none) src0 8 0x3000 6 0 [] (ses src0 none) = true ∧
    (match entryCheck (asked none) (ses src0 none) (requestOf 8 0x3000 6 0 []) .describe with | .ok _ => true | _ => false) = true ∧
    asks (asked none) src0 9 0 0 0 [1, 2] (ses src0 none) = true := by decide +kernel
theorem test_echo : leads (.echo src0 (frameOf 9 0 0 0 [1, 2])) (asked none) (fun t => t.dict.out.map (fun b => slice b 20 2) == [[1, 2]]) = true := by
  decide +kernel

/-- An ODP flit to device 5 over one hop, port 1; and one to all devices below. -/
def odpFlit (hops : Byte) : Bytes := [1, 0, 0, 5, 0, 9, 0, hops, 1] ++ List.replicate 215 0
def twoPorts : State := { withPort portUp one with ports := vmod (withPort portUp one).ports 1 fun _ => { portUp with treeChild := true } }
theorem test_hyp_odpForward : twoPorts.links.locked = true ∧ twoPorts.ports[0].isUp = true ∧ twoPorts.ports[0].odpCount < 8 ∧ odpDir (odpFlit 0xFF) = 1 ∧
    odpHops (odpFlit 1) = 1 ∧ odpDest (odpFlit 1) ≠ twoPorts.links.deviceId.toNat ∧ byteAt (odpFlit 1) 8 = 1 ∧ twoPorts.ports[1].isUp = true ∧
    (∀ q : Lp, twoPorts.ports[q].treeChild = true → twoPorts.ports[q].isUp = true) := by decide +kernel
/-- A request over a link is answered on the port on which it came (R622, R623); the ninth ODP flit of a control slot is a strike (R434). -/
def srcL : OdpSrc := .link 0 1 1 (List.replicate 12 0)
def linkAsked (n : Nat) : State := (ready twoPorts [ses (boundSrc srcL) none]).modPort 1 fun x => { x with odpCount := n }
theorem test_hyp_echo_link : asks (linkAsked 0) srcL 9 0 0 0 [1, 2] (ses (boundSrc srcL) none) = true ∧ arrives (linkAsked 8) srcL = true ∧
    8 ≤ (linkAsked 8).ports[1].odpCount := by decide +kernel
theorem test_echo_link : leads (.echo srcL (frameOf 9 0 0 0 [1, 2])) (linkAsked 0) (fun t => t.dict.odpOut.map (·.1) == [1]) = true := by decide +kernel
theorem test_odp_ninth : leads (.odpRead srcL (frameOf 3 0x2000 4 0 [])) (linkAsked 8) (fun t => t.dict.out.isEmpty && t.ports[1].protoTotal == 1) = true := by
  decide +kernel

/-- One that goes up to all devices. -/
def odpUpFlit : Bytes := 2 :: (odpFlit 0xFF).drop 1
def childOf1 : State := twoPorts.modPort 1 fun x => { x with treeChild := false, treeParent := true }
theorem test_hyp_odpForward_up : odpDir odpUpFlit = 2 ∧ odpHops odpUpFlit = 0xFF ∧ childOf1.ports[0].isUp = true ∧
    (∀ q : Lp, childOf1.ports[q].treeParent = true → childOf1.ports[q].isUp = true) := by decide +kernel
theorem test_odpForward : leads (.odpForward 0 0 (odpFlit 1)) twoPorts (fun t => t.dict.odpOut.map (·.1) == [1]) = true := by decide +kernel
theorem test_odpForward_end : leads (.odpForward 0 1 (odpFlit 1)) twoPorts (fun t => t.dict.odpOut.isEmpty && t.dict.routeDrops == 1) = true := by decide +kernel

/-! ### Writes with rows of their own -/

def lodestar1 : State :=
  let s := asked none
  { s with links := { s.links with lodestar := s.links.deviceId }, meridian := { s.meridian with effective := 16 } }
theorem test_hyp_tickPeriod : lodestar1.links.depthMax.toNat ≤ depthLimitAt 200 ∧ asksW lodestar1 src0 0x2100 1 [200] (ses src0 none) = true ∧
    isLodestar lodestar1 = true ∧ anyConf lodestar1 = false ∧ lodestar1.meridian.tick.toNat + 16 ≤ lodestar1.meridian.effective.toNat := by decide +kernel
theorem test_tickPeriod : leads (.tickPeriodUs src0 ⟨(frameOf 4 0x2100 1 0 [100]), false⟩) lodestar1 (fun t => t.meridian.periodNew == some (100, 16)) = true := by
  decide +kernel
/-- R47: with a confidential partition elsewhere in the constellation, the period stays. -/
theorem test_tickPeriod_conf : leads (.tickPeriodUs src0 ⟨(frameOf 4 0x2100 1 0 [100]), true⟩) lodestar1 (fun t => t.meridian.periodNew.isNone) = true := by
  decide +kernel
theorem test_hyp_configSave : asksW (asked none) src0 0x1000 10 [1] (ses src0 none) = true ∧ asksW (asked none) src0 0x1000 10 [2] (ses src0 none) = true := by
  decide +kernel
theorem test_configErase : leads (.configSaveErase src0 (frameOf 4 0x1000 10 0 [2])) (asked none) (fun t => t.sc.flash.saved.isEmpty) = true := by decide +kernel

/-- Party 0 of an unstarted session, the owner, and the custodian's kind. -/
def party0 : OdpSession := { ses srcS (some 0) with party := true }
def delivering : State := ready (secret (session1 2 0xFF 1 0) [] []) [party0]
theorem test_hyp_keyDeliver : asksW delivering srcS 0x6000 7 (1 :: List.replicate 32 3) party0 = true := by decide +kernel
theorem test_hyp_keyDeliver_party : delivering.parts[0].live = true ∧ isAnchor delivering 0 = true ∧ delivering.parts[0].session.state = 2 ∧
    partyIndex delivering.parts[0].session.manifest (requesterOf delivering srcS) = some 0 ∧ bit delivering.parts[0].session.delivered 0 = false ∧
    manRole delivering.parts[0].session.manifest 0 ≠ 3 ∧ (storeKey delivering 0 0 (List.replicate 32 3)).isSome = true := by decide +kernel
theorem test_keyDeliver : leads (.keyDeliver srcS (frameOf 4 0x6000 7 0 (1 :: List.replicate 32 3))) delivering
    (fun t => bit t.parts[0].session.delivered 0) = true := by decide +kernel

theorem test_hyp_step : asksW (asked (some 0)) src0 0x5200 2 (leBytes 8 7) (ses src0 (some 0)) = true ∧
    asksW (asked (some 0)) src0 0x5200 6 (List.replicate 32 1) (ses src0 (some 0)) = true ∧ (asked (some 0)).parts[0].live = true ∧
    inUpdate (asked (some 0)).parts[0] = false ∧ sessionStarted (asked (some 0)).parts[0] = false ∧ (asked (some 0)).parts[0].conf = false := by decide +kernel
theorem test_stepNumber : leads (.stepNumber src0 (frameOf 4 0x5200 2 0 (leBytes 8 7))) (asked (some 0)) (fun t => t.parts[0].step.numberW == some 7) = true := by
  decide +kernel

/-- Long frames parse by the lemma, whatever their check. -/
theorem test_hyp_parse_jobSize : (parseFrame (frameOf 4 0x3100 17 0 (List.replicate 1024 0))).map (fun f => (f.op, f.index, f.sub, f.data.length)) =
    some (4, 0x3100, 17, 1024) := by
  unfold frameOf
  rw [parseFrame_whole _ (by decide +kernel) (by decide +kernel)]
  decide +kernel
theorem test_hyp_parse_token : (parseFrame (frameOf 4 0x7F00 7 0 (List.replicate 192 1))).map (fun f => (f.op, f.index, f.sub, f.data.length)) =
    some (4, 0x7F00, 7, 192) := by
  unfold frameOf
  rw [parseFrame_whole _ (by decide +kernel) (by decide +kernel)]
  decide +kernel
theorem test_hyp_parse_approval : (parseFrame (frameOf 4 0x7F00 8 0 (List.replicate 104 0))).map (fun f => (f.op, f.index, f.sub, f.data.length)) =
    some (4, 0x7F00, 8, 104) := by
  unfold frameOf
  rw [parseFrame_whole _ (by decide +kernel) (by decide +kernel)]
  decide +kernel
theorem test_hyp_jobSize : comesW lodestar1 src0 0x3100 17 (List.replicate 1024 0) (ses src0 none) = true := by decide +kernel
theorem test_hyp_poolQuota : asksW (asked none) src0 0x4100 17 (List.replicate 16 0) (ses src0 none) = true ∧
    (∀ k : Pt, (asked none).parts[k].conf = false) ∧ (∀ h : Hb, quotaSum (asked none) (poolAt 17) (List.replicate 16 0) h ≤ 22888) := by decide +kernel

def recovering : State := let s := asked none; { s with sc := { s.sc with recovery := true } }
theorem test_hyp_recoveryImage : asksW recovering src0 0x1100 15 [] (ses src0 none) = true ∧ recovering.sc.recovery = true := by decide +kernel

/-! ### Change control -/

/-- A set of one record: the limits of key slot 33. -/
def set1 (v : Byte) : Bytes :=
  leBytes 2 1 ++ [0, 0] ++ leBytes 4 40 ++ List.replicate 8 0 ++
  (leBytes 2 0x6100 ++ [4, 0xFF, 0, 0, 0, 0] ++ leBytes 4 4 ++ leBytes 4 0) ++ [33, 0, v, 0, 0, 0, 0, 0]

/-- The session of a party with a key slot whose limits the set narrows, and a life-cycle state in which it may. -/
def changing (st : BitVec 2) (bs : Bytes) : State :=
  let s := ready (secret (session1 2 0xFF 1 0) [] []) [ses src0 none]
  { s with change := { s.change with state := st, set := bs } }
theorem test_hyp_changeSet : asksW (changing 0 []) src0 0x7F00 1 (set1 4) (ses src0 none) = true := by decide +kernel
theorem test_hyp_changeSet_ok : (parseSet (set1 4)).map (fun rs => setOk (changing 0 []) none rs) = some true ∧
    (parseSet (set1 0xFF)).map (fun rs => setOk (changing 0 []) none rs) = some false := by decide +kernel
theorem test_changeSet_refused : leads (.changeSet src0 (frameOf 4 0x7F00 1 0 (set1 0xFF))) (changing 0 []) (fun t => t.change.state == 0 && t.change.set.isEmpty) =
    true := by decide +kernel

theorem test_hyp_tokens_change : comesW (changing 1 (set1 4)) src0 0x7F00 7 (List.replicate 192 1) (ses src0 none) = true ∧
    comesW (changing 1 (set1 4)) src0 0x7F00 9 (List.replicate 96 1) (ses src0 none) = true ∧ (changing 1 (set1 4)).change.state = 1 := by decide +kernel
theorem test_hyp_approval : comesW (changing 1 (set1 4)) src0 0x7F00 8 (List.replicate 104 0) (ses src0 none) = true ∧
    (changing 1 (set1 4)).parts[0].conf = true ∧ ((0 : Pt), (0 : Byte)) ∉ (changing 1 (set1 4)).change.approvers := by decide +kernel
theorem test_hyp_abort : asksW (changing 1 (set1 4)) src0 0x7F00 10 [1] (ses src0 none) = true ∧ asksW (changing 0 []) src0 0x7F00 10 [1] (ses src0 none) = true ∧
    (changing 1 (set1 4)).change.state ≠ 0 ∧ (changing 0 []).change.state = 0 := by decide +kernel
theorem test_abort : leads (.changeAbort src0 (frameOf 4 0x7F00 10 0 [1])) (changing 1 (set1 4))
    (fun t => t.change.state == 0 && t.change.set == set1 4 && t.change.lastResult == 2) = true := by decide +kernel
theorem test_expired : leads (.changeExpired false) (changing 1 (set1 4)) (fun t => t.change.state == 0 && t.change.lastResult == 3) = true := by decide +kernel

/-! ### SPDM and the management port -/

def msg1 (v : Bool) (req : Bytes) : SpdmMsg := { conn := 0, overUdp := true, addr := 0, payload := [], requester := req, verdict := v }
/-- The connection of a confidential session's device at a stage. -/
def conn1 (n : Nat) : State :=
  let s := secret (session1 2 0xFF 1 0) [] []
  { s with sc := { s.sc with stage := 8 }, spdm := [{ conn := 0, overUdp := true, addr := 0, stage := n, requester := [], secure := false, updates := 0 }] }
theorem test_hyp_spdm : spdmUp (conn1 5) (msg1 true []) = true ∧ connOf (conn1 5) (msg1 true []) = some { conn := 0, overUdp := true, addr := 0, stage := 5, requester := [], secure := false, updates := 0 } ∧
    (connOf (conn1 4) (msg1 true [])).map (·.stage) = some 4 ∧ isPartyKey (conn1 4) (List.replicate 96 0) = true ∧ isPartyKey (conn1 4) [] = false ∧
    entropyStopped (conn1 3) = false := by decide +kernel
theorem test_getVersion : leads (.getVersion (msg1 false [])) (conn1 5) (fun t => t.spdm.map (·.stage) == [1]) = true := by decide +kernel
theorem test_spdmFinish : leads (.spdmFinish (msg1 true (List.replicate 96 0))) (conn1 4) (fun t => t.spdm.map (fun c => (c.stage, c.secure)) == [(5, true)]) = true := by
  decide +kernel
theorem test_endSession : leads (.endSession (msg1 false [])) (conn1 5) (fun t => t.spdm.isEmpty) = true := by decide +kernel
theorem test_hyp_arp : odpUp (conn1 5) = true ∧ mgmtAddr (conn1 5) + 1 ≠ mgmtAddr (conn1 5) :=
  ⟨by decide +kernel, by generalize mgmtAddr (conn1 5) = a; bv_omega⟩
theorem test_mctp : leads (.mctpControl (some 9)) (conn1 5) (fun t => t.dict.eid == some 9) = true := by decide +kernel

/-! ## Host registers and doorbells -/

/-- The module after start-up, with every block of the register map unlocked. -/
def hosted (s : State) : State :=
  { s with sc := { s.sc with stage := 8 }, host := { s.host with unlocked := true, event := 0x3FF, eventEn := 6 },
           clusters := vmap s.clusters fun c => { c with unlocked := true }, ports := vmap s.ports fun x => { x with unlocked := true },
           hbs := vmap s.hbs fun h => { h with unlocked := true }, presses := vmap s.presses fun x => { x with unlocked := true } }

/-- A write of 8 bytes by the physical function. -/
def put (off : Nat) (d : W64) : Mmio := { fn := 0, bar := 0, off := off, len := 8, data := d, hwSet := 0 }
def writes (s : State) (off : Nat) (b : Block) (view : Fin 4) (r : Nat) : Bool :=
  let a := put off 0
  hostUp s && a.len == 8 && a.off % 8 == 0 && a.hwSet == 0 && blockThere s b && decide (placeOf s a.fn a.bar a.off = .reg b view r) && r % 8 == 0
def opened (s : State) (off : Nat) (b : Block) (r : Nat) : Bool := writes s off b 0 r && unlockedOf s b

theorem test_hyp_writes : writes (hosted one) 0xFFF8 .glob 0 0xFFF8 = true ∧ reaches (hosted one) 0 .glob = true ∧
    writes (hosted one) 0x10018 .glob 1 0x18 = true ∧ writes (hosted one) 0x20018 .glob 2 0x18 = true ∧ writes (hosted one) 0x30018 .glob 3 0x18 = true ∧
    writes (hosted one) 0x18 .glob 0 0x18 = true ∧ writes (hosted one) 0x10 .glob 0 0x10 = true ∧ (hosted one).waiters = [] ∧
    (∀ c : Tc, (hosted one).clusters[c].jobs = []) := by decide +kernel
theorem test_hyp_opened : opened (hosted one) 0x100 .glob 0x100 = true ∧ opened (hosted one) 0x108 .glob 0x108 = true ∧
    opened (hosted one) 0x1000008 (.tc 0) 0x8 = true ∧ opened (hosted one) 0x1000010 (.tc 0) 0x10 = true ∧ opened (hosted one) 0x2000008 (.lp 0) 0x8 = true ∧
    opened (hosted one) 0x2000010 (.lp 0) 0x10 = true ∧ opened (hosted one) 0x3000010 (.mc 0) 0x10 = true ∧ opened (hosted one) 0x3200010 (.ps 0) 0x10 = true ∧
    (hosted one).test.state = 0 ∧ testReason (hosted one) 1 0 = 0 ∧ testReason (hosted (secret (session1 2 0xFF 1 0) [] [])) 1 0 ≠ 0 := by decide +kernel
theorem test_hyp_opened_units : (∀ k, (hosted one).clusters[(0 : Tc)].part = some k → (hosted one).parts[k].conf = false) ∧ portConf (hosted one) 0 = false ∧
    (hosted one).ports[0].state ≠ .fenced ∧ (hosted fencedPort).ports[1].state = .fenced ∧ opened (hosted fencedPort) 0x2040008 (.lp 1) 0x8 = true ∧
    (hosted one).presses[hbBank 0].fenced = false ∧ pressInUpdate (hosted one) (hbBank 0) = false ∧
    ((hosted one).modPress (hbBank 0) fun x => { x with faulted := true }).presses[hbBank 0].faulted = true ∧
    (∀ k : Pt, (hosted one).parts[k].conf = false) := by decide +kernel
theorem test_hyp_prsFence_runs : opened (hosted (pressing 0 0x00 0 0 true)) 0x3200010 (.ps 0) 0x10 = true ∧
    ((hosted (pressing 0 0x00 0 0 true)).presses[hbBank 0].run.any fun r => decide (2 ≤ r.pass)) = true := by decide +kernel
theorem test_lockKey : leads (.lockKey (put 0xFFF8 0)) (hosted one) (fun t => !t.host.unlocked) = true ∧
    leads (.lockKey (put 0xFFF8 0x6D644C4B)) { hosted one with host := { (hosted one).host with unlocked := false } } (fun t => t.host.unlocked) = true := by
  decide +kernel
theorem test_setAlias : leads (.setAliasWrite (put 0x10018 9)) (hosted one) (fun t => t.host.eventEn == 15) = true := by decide +kernel
theorem test_clearAlias : leads (.clearAliasWrite (put 0x20018 2)) (hosted one) (fun t => t.host.eventEn == 4) = true := by decide +kernel
theorem test_toggleAlias : leads (.toggleAliasWrite (put 0x30018 3)) (hosted one) (fun t => t.host.eventEn == 5) = true := by decide +kernel
theorem test_clkOverride : leads (.glbClkOverride (put 0x100 (1600 * 2 ^ 32 + 2))) (hosted one) (fun t => t.host.clkNew == some (1600, true, false) && !t.host.unlocked) = true ∧
    leads (.glbClkOverride (put 0x100 (1610 * 2 ^ 32 + 2))) (hosted one) (fun t => t.host.clkNew.isNone) = true := by decide +kernel
theorem test_tcFence : leads (.tcFence (put 0x1000008 1)) (hosted one) (fun t => t.clusters[0].fenced && t.clusters[0].fenceCause == 1) = true := by decide +kernel
theorem test_lpUnfence : leads (.lpFence (put 0x2040008 0)) (hosted fencedPort) (fun t => t.ports[1].state == .down && !t.ports[1].fence) = true := by decide +kernel
theorem test_mcScrub : leads (.mcScrub (put 0x3000010 11)) (hosted one) (fun t => t.hbs[0].scrub.freeze && t.hbs[0].scrub.level == 3) = true := by decide +kernel

theorem test_hyp_stepSize : writes (hosted one) 0x4000100 (.pt 0) 0 0x100 = true ∧ reaches (hosted one) 0 (.pt 0) = true ∧ (f32 0x3F800000).isFinite = true ∧
    0 ≤ (f32 0x3F800000).toRat ∧ (f32 0xBF800000).toRat < 0 ∧ (f32 0x7F800000).isFinite = false := by decide +kernel
theorem test_stepSize : leads (.stepSize (put 0x4000100 0x3F800000)) (hosted one) (fun t => t.parts[0].step.eta == 0x3F800000) = true := by decide +kernel

theorem test_hyp_syncWindow : decide (placeOf (hosted one) 0 0 0x5000018 = .sync (8 * 3)) = true ∧ syncClosed (hosted one) 3 = false := by decide +kernel
def closedSync : State := hosted ((secret (session1 2 0xFF 1 0) [] []).modPart 0 fun p => { p with syncFirst := 0, syncCount := 4 })
theorem test_hyp_syncWindow_closed : syncClosed closedSync 3 = true ∧ placeOf closedSync 0 0 0x5000018 = .sync (8 * 3) := by decide +kernel
theorem test_syncWindow : leads (.syncWindowSignal (put 0x5000018 7)) (hosted one) (fun t => syncGet t 3 == 7) = true := by decide +kernel

def get (off : Nat) : MmioRead := { fn := 0, bar := 0, off := off, len := 8, hwSet := 0 }
theorem test_hyp_counts : placeOf (hosted one) 0 0 0x3000008 = .reg (.mc 0) 0 0x8 ∧ placeOf (hosted one) 0 0 0x2000018 = .reg (.lp 0) 0 0x18 ∧
    hbPresent (hosted one) 0 = true ∧ lpPresent (hosted one) 0 = true ∧ hostUp (hosted one) = true := by decide +kernel
theorem test_eccCount : leads (.mcEccCount (get 0x3000008)) ((hosted one).modStack 0 fun h => { h with ce := 5, ue := 2 })
    (fun t => t.host.readOut == 0x200000005 && t.hbs[0].ce == 0 && t.hbs[0].ue == 0) = true := by decide +kernel

theorem test_hyp_guarded : writes (hosted one) 0x1000008 (.tc 0) 0 0x8 = true ∧ guarded (.tc 0) 0x8 = true ∧ writes one 0x1000008 (.tc 0) 0 0x8 = false ∧
    unlockedOf (hosted one) (.tc 0) = true ∧ guarded .glob 0x18 = false := by decide +kernel
def locked1 : State := { one with sc := { one.sc with stage := 8 } }
theorem test_hyp_guarded_locked : writes locked1 0x1000008 (.tc 0) 0 0x8 = true ∧ unlockedOf locked1 (.tc 0) = false := by decide +kernel
theorem test_guarded : leads (.registerWrite (put 0x1000008 1)) locked1
    (fun t => !t.clusters[0].fenced && t.log.recs.map (fun r => (r.typ, r.cluster, r.detail)) == [(0x44, 1, 8)]) = true := by decide +kernel

/-! ### Doorbells -/

def bell (page o len : Nat) (d : W64) : Mmio := { fn := 0, bar := 2, off := 4096 * page + o, len := len, data := d, hwSet := 0 }
def ringing (q : Queue → Queue) : State :=
  hosted (withPart { part0 with data := vmod part0.data 0 fun u => q { u with tail := 0, cqHead := 0, cqTail := 0 } } Cluster.reset)
def ringsAt (s : State) (a : Mmio) (q : QRef) (o : Nat) : Bool :=
  hostUp s && accessOk a.off a.len && decide (placeOf s a.fn a.bar a.off = .bell q o) && bellLive s a.fn q
theorem test_hyp_bells : ringsAt (ringing id) (bell 0 0 4 15) (.data 0 0) 0 = true ∧ ringsAt (ringing id) (bell 0 4 4 (2 ^ 31)) (.data 0 0) 4 = true ∧
    ringsAt (ringing id) (bell 0 8 4 3) (.data 0 0) 8 = true ∧ Quiet (ringing id) 0 ∧ bit (2 ^ 31 : W64) 31 = true ∧ bit (2 ^ 31 : W64) 30 = false ∧
    (ringing id).parts[0].data[0].size = 16 := by decide +kernel
theorem test_tail : leads (.doorbellTail (bell 0 0 4 16)) (ringing id) (fun t => t.parts[0].data[0].tail == 0) = true ∧
    leads (.doorbellTail (bell 0 0 4 15)) (ringing fun u => { u with enable := true, halted := true }) (fun t => t.parts[0].data[0].tail == 15) = true := by
  decide +kernel
theorem test_resume : leads (.resume (bell 0 4 4 (2 ^ 31))) (ringing fun u => { u with halted := true }) (fun t => !t.parts[0].data[0].halted) = true := by
  decide +kernel
def flushing : State := ringing fun u => { u with halted := true, tail := 1 }
theorem test_hyp_flush : ringsAt flushing (bell 0 4 4 (2 ^ 30)) (.data 0 0) 4 = true ∧ Quiet flushing 0 ∧ flushing.parts[0].conf = false ∧
    flushing.parts[0].data[0].halted = true ∧ flushing.parts[0].data[0].head.toNat < 16 ∧
    flushing.parts[0].data[0].taken + flushing.parts[0].data[0].waiting < 16 := by decide +kernel
theorem test_flush : leads (.flush (bell 0 4 4 (2 ^ 30)) [entry 0x58 0 0 0 0]) flushing
    (fun t => t.parts[0].data[0].head == 1 && !t.parts[0].data[0].halted && t.parts[0].data[0].cqTail == 1) = true := by decide +kernel
theorem test_hyp_qcfg : writes (hosted one) 0x4001050 (.pt 0) 0 0x1050 = true ∧ queueReg (hosted one) 0 0x1050 = some (.data 0 0, 0x10) ∧
    (ringing fun u => { u with enable := false }).parts[0].data[0].enable = false ∧ Quiet (hosted one) 0 := by decide +kernel
theorem test_qcfg : leads (.qcfg (put 0x4001050 (2 ^ 63 + 5 * 2 ^ 40 + 3 * 2 ^ 16))) (ringing fun u => { u with enable := false })
    (fun t => t.parts[0].data[0].enable && t.parts[0].data[0].log2 == 5 && t.parts[0].data[0].vector == 3 && t.parts[0].data[0].phase) = true := by decide +kernel

/-- R58: the completion entry of a SIGNAL. -/
def sigE : Entry := entry 0x58 (2 ^ 16 + 16) 0 0 0
theorem test_hyp_signalled : Canonical one ∧ Takes one (.data 0 0) sigE 0x58 { w2 := 0xFFFF3FFF } ∧ fld sigE.w2 31 16 ≠ 0 ∧ fld sigE.w0 40 25 = 0 := by
  decide +kernel
theorem test_completion : leads (.signal (.queue 0 0 sigE)) one (fun t => t.host.hostMem.readBytes 0 6 == [5, 0, 1, 0, 0, 1]) = true := by decide +kernel

/-! ## Field tests, power, start-up and pins -/

theorem test_hyp_testRequest : asksW (asked none) src0 0x7100 1 [1, 0, 0, 0] (ses src0 none) = true ∧
    testReason { asked none with test := { (asked none).test with contentOk := true } } 1 0 = 0 ∧
    testReason { asked none with test := { (asked none).test with contentOk := false } } 1 0 = 4 := by decide +kernel
theorem test_testRequest : leads (.testRequest src0 (frameOf 4 0x7100 1 0 [1, 0, 0, 0]) true) (asked none)
    (fun t => t.test.state == 1 && t.test.tcTarget == 1 && t.test.runs == 1) = true := by decide +kernel

def testing (st : Byte) : State :=
  { up with meridian := { up.meridian with tick := 1 }, clusters := vmod up.clusters 0 fun c => { c with spad := [(3, 7)] },
            test := { up.test with state := st, tcTarget := 1, ldTarget := 0, drainLimit := 0 } }
/-- Partition 0 still runs a program on the target. -/
def undrained : State := { idle with test := { idle.test with state := 1, tcTarget := 1, drainLimit := 0 } }
theorem test_hyp_drained : drainDone (testing 1) = true ∧ (testing 1).test.ldTarget = 0 ∧ (testing 3).test.state = 3 ∧ undrained.test.state = 1 ∧
    drainDone undrained = false ∧ undrained.test.began.toNat + undrained.test.drainLimit.toNat ≤ undrained.meridian.tick.toNat := by decide +kernel
theorem test_drained : leads .testDrained (testing 1) (fun t => t.test.state == 3 && t.clusters[0].spad.isEmpty) = true := by decide +kernel
theorem test_drainTimeout : leads .drainTimeout undrained (fun t => t.test.state == 0) = true := by decide +kernel
theorem test_testComplete : leads (.testComplete 0 0) (testing 3) (fun t => t.test.state == 4 && fld t.test.tcResult 1 0 == 2 && t.clusters[0].fenced) = true := by
  decide +kernel
def aborting : State := let s := asked none; { s with test := { s.test with state := 1, tcTarget := 1 } }
theorem test_hyp_testAbort : asksW aborting src0 0x7100 2 [1] (ses src0 none) = true ∧ aborting.test.state ≠ 0 ∧ aborting.test.state ≠ 4 := by decide +kernel
theorem test_testAbort : leads (.testAbort src0 ⟨(frameOf 4 0x7100 2 0 [1]), ⟨0, 0, 0⟩⟩) aborting (fun t => t.test.state == 4 && fld t.test.tcResult 1 0 == 3) = true := by
  decide +kernel

/-- R729: an abort keeps the verdict of the cluster that has been tested. -/
def abortingLate : State := let s := asked none; { s with test := { s.test with state := 3, tcTarget := 3 } }
theorem test_hyp_testAbort_late : asksW abortingLate src0 0x7100 2 [1] (ses src0 none) = true ∧ (testClusters abortingLate).take 1 = [0] := by decide +kernel
theorem test_testAbort_late : leads (.testAbort src0 ⟨(frameOf 4 0x7100 2 0 [1]), ⟨1, 1, 0⟩⟩) abortingLate
    (fun t => t.test.state == 4 && fld t.test.tcResult 1 0 == 1 && fld t.test.tcResult 3 2 == 3) = true := by decide +kernel

theorem test_inputSample : leads (.inputSample 0 0 0) up (fun t => t.power.excessUs == 0 && !t.power.limiter) = true := by decide +kernel
def drooping : State := { up with power := { up.power with droop := true } }
theorem test_hyp_droop : drooping.power.droop = true ∧ up.power.rails = true := by decide +kernel
theorem test_droopRestore : leads (.droopRestore 64 16) drooping (fun t => !t.power.droop && t.power.stretch == 64) = true := by decide +kernel
theorem test_powerFault : leads (.powerFault .undervoltage) up (fun t => !t.power.rails && t.power.lastOff == 1 && t.pins.perst) = true := by decide +kernel
theorem test_thermalTrip : leads .thermalTrip up (fun t => t.power.lastOff == 4 && t.power.trips == 1 && t.power.thermtrip) = true := by decide +kernel

/-- Firmware copies that verify, in the life-cycle state DEPLOYED or in recovery. -/
def flash1 : FlashImage := ⟨64, List.replicate 48 2, true, false⟩
def restarting (rec : Bool) : State :=
  { State.reset with
    power := { State.reset.power with wantRails := true, perstSeen := true },
    sc := { State.reset.sc with recovery := rec, lc := 4, otp := { State.reset.sc.otp with svnSfw := 0, svnDfw := 0 },
                                flash := { State.reset.sc.flash with sfwA := flash1, dfwA := flash1, sfwB := flash1, dfwB := flash1 } } }
theorem test_hyp_railRestart : (restarting true).power.wantRails = true ∧ (restarting true).power.perstSeen = true ∧ (restarting true).sc.recovery = true ∧
    (restarting false).sc.recovery = false ∧ pendingLc (restarting false).sc.otp = none ∧ (restarting false).sc.lc ≠ 7 ∧
    (pickCopy (restarting false).sc.lc.toNat (svnOf (restarting false).sc.otp.svnDfw) (restarting false).sc.flash.dfwA (restarting false).sc.flash.dfwB).isSome =
      true := by decide +kernel
theorem test_railRestart : leads (.railRestart true) (restarting false) (fun t => t.power.rails && t.sc.stage == 3 && t.sc.dfwDigest == List.replicate 48 2) = true := by
  decide +kernel

def lode1 : State := { up with links := { up.links with lodestar := up.links.deviceId, timeRef := 1 } }
theorem test_hyp_refclk : up.power.refLost = false ∧ up.pins.perst = false ∧ lpPresent up 0 = true ∧ up.ports[0].state ≠ .fenced ∧ isLodestar lode1 = true ∧
    lode1.links.timeRef ≠ 0 := by decide +kernel
theorem test_refclkLost : leads .refclkLost one (fun t => t.power.refLost && t.parts[0].data[0].halted) = true := by decide +kernel
theorem test_timerefLost : leads .timerefLost lode1 (fun t => t.links.timeRef == 0) = true := by decide +kernel

/-- Standby power comes up with good firmware, and in a life-cycle state that loads none. -/
def powering : State :=
  { restarting false with power := { State.reset.power with rails := false, wantRails := false }, sc := { (restarting false).sc with stage := 0, restart := false } }
def boot1 : BootIn := { strapId := 5, strapLs := 0, strapPlca := 0, lref := true, cut := none }
def raw1 : State := { powering with sc := { powering.sc with otp := { powering.sc.otp with mile := Vector.replicate 8 0, ent := Vector.replicate 8 0, testCycle := 0 } } }
theorem test_hyp_standby : powering.sc.stage = 0 ∧ powering.power.rails = false ∧ powering.power.wantRails = false ∧ powering.sc.restart = false ∧
    boot1.cut = none ∧ pendingLc powering.sc.otp = none ∧ decodeLc powering.sc.otp = 5 ∧
    (pickCopy 3 (svnOf powering.sc.otp.svnSfw) powering.sc.flash.sfwA powering.sc.flash.sfwB).isSome = true ∧
    (pickCopy 5 (svnOf powering.sc.otp.svnDfw) powering.sc.flash.dfwA powering.sc.flash.dfwB).isSome = true := by decide +kernel
theorem test_hyp_standby_raw : decodeLc raw1.sc.otp = 0 ∧ pendingLc raw1.sc.otp = none ∧ raw1.sc.stage = 0 := by decide +kernel
theorem test_standby : leads (.standbyPowerUp boot1) powering (fun t => t.sc.stage == 3 && t.power.pwrgd && t.links.deviceId == 5) = true := by decide +kernel
theorem test_standby_raw : leads (.standbyPowerUp boot1) raw1 (fun t => !t.power.rails) = true := by decide +kernel

def bringUp : BringUpIn := { stacksTrained := 0x7F, cpTrained := 1, cellarOk := true, ccAttested := true }
def held1 (pw rec : Bool) : State :=
  { State.reset with pins := { State.reset.pins with perst := true, extest := false }, power := { State.reset.power with rails := pw, pwrgd := pw },
                     sc := { State.reset.sc with recovery := rec } }
theorem test_hyp_perstRelease : (held1 true false).pins.perst = true ∧ (held1 true false).pins.extest = false ∧ (held1 true false).power.pwrgd = true ∧
    (held1 true false).sc.recovery = false ∧ (held1 true true).sc.recovery = true ∧ (held1 false false).power.pwrgd = false ∧
    hbPresent (held1 true false) 0 = true ∧ bit bringUp.stacksTrained 0 = true ∧ (firmwarePort bringUp.cpTrained).isSome = true := by decide +kernel
theorem test_perstRelease : leads (.perstNRelease bringUp) (held1 true false) (fun t => t.sc.stage == 8 && t.hbs[0].trained && t.cellar.up && t.cellar.cpUp == 1) =
    true := by decide +kernel
theorem test_perst : leads .perstNAssert one (fun t => t.pins.perst && t.parts[0].state == 0 && t.power.rails) = true := by decide +kernel
theorem test_hyp_lref : ({ up with power := { up.power with pwrgd := false } } : State).power.rails = true ∧ up.sc.esState = 0 := by decide +kernel
theorem test_entropyFail : leads .entropyTestFail up (fun t => t.sc.esFails == 1 && t.sc.esState == 1) = true := by decide +kernel

/-! ### Pins -/

def edged : State := { up with pins := { up.pins with tickMode := 2 } }
theorem test_hyp_pins : edged.pins.perst = false ∧ bit edged.pins.tickMode 1 = true ∧ one.parts[0].live = true := by decide +kernel
theorem test_hyp_extest : boundaryAllowed { up with sc := { up.sc with lc := 1 } } = true ∧ boundaryAllowed { up with sc := { up.sc with lc := 5 } } = false := by
  decide +kernel
theorem test_edge : leads (.tickIoEdge 3 false false) edged (fun t => t.pins.capOffset == 2400 && t.pins.capCount == 1) = true := by decide +kernel
theorem test_extest : leads .extest { up with sc := { up.sc with lc := 1 } } (fun t => t.pins.extest && t.pins.jtagIr == 3 && t.pins.perst) = true := by decide +kernel
theorem test_tdisp : leads (.tdispAssign 0 true) one (fun t => t.parts[0].vfAssigned) = true := by decide +kernel

/-! ## Well-formed commands: one term that each check of `Instr.wf` refuses, and one that it takes -/

theorem test_wf_boundary : (Instr.tickBoundary { quiet with meanVolts := 0x7F800000 }).wf = false ∧ (Instr.tickBoundary { quiet with meanAmps := 0x7FC00000 }).wf = false ∧
    (Instr.tickBoundary { quiet with meanWatts := 0x7F800000 }).wf = false ∧ (Instr.tickBoundary { quiet with hotDie := 0xFF800000 }).wf = false ∧
    (Instr.tickBoundary { quiet with hotHbm := 0x7F800000 }).wf = false ∧ (Instr.tickBoundary { quiet with railStatus := [0] }).wf = false ∧
    (Instr.tickBoundary quiet).wf = true := by decide +kernel
theorem test_wf_sample : (Instr.inputSample 0x7F800000 0 0).wf = false ∧ (Instr.inputSample 0 0x7F800000 0).wf = false ∧
    (Instr.inputSample 0 0 0x7F800000).wf = false ∧ (Instr.inputSample 0x42400000 0 0).wf = true := by decide +kernel
theorem test_wf_clocks : (Instr.workItemDispatch 0 (clocks 420001)).wf = false ∧ (Instr.mma 0 (mma1 0x10 0 0) (clocks 420001)).wf = false ∧
    (Instr.estReset 0 (mma1 0x18 0 0) (clocks 420001)).wf = false ∧ (Instr.vexec 0 vexec1 (clocks 420001)).wf = false ∧
    (Instr.vexec 0 vexec1 (clocks 420000)).wf = true := by decide +kernel
theorem test_wf_partitions : (Instr.partCreate sigE (List.replicate 127 0)).wf = false ∧ (Instr.partDestroyComplete 0 [(.admin, sigE)]).wf = false ∧
    (Instr.partDestroyComplete 0 [(.data 1 0, sigE)]).wf = false ∧ (Instr.create 0 (createE 16) [0]).wf = false ∧
    (Instr.seqCtxWrite 0 sigE (List.replicate 31 0)).wf = false ∧ (Instr.partCreate sigE record1).wf = true := by decide +kernel
theorem test_wf_memory : (Instr.cachePageRefill 0 0x10000 ⟨0, false⟩).wf = false ∧ (Instr.cachePageRefill 0 0 ⟨(2 ^ 28), false⟩).wf = false ∧
    (Instr.imageWrite 0 0 (List.replicate 4223 0)).wf = false ∧ (Instr.scrubRead 0 (32768 * 22888) .clean false).wf = false ∧
    (Instr.scrubRead 8 (32768 * 22888) .clean false).wf = true ∧ (Instr.rekeyEngine 0 22888).wf = false ∧ (Instr.rekeyWaitExpiry 8 488281 false).wf = false := by
  decide +kernel
theorem test_wf_handshake : (Instr.hello 0 { hello1 0 0 3 with nonce := [] }).wf = false ∧
    (Instr.hello 0 { hello1 0 0 3 with nonce := List.replicate 48 0, slotMap := [] }).wf = false ∧
    (Instr.hello 0 { hello1 0 0 3 with nonce := List.replicate 48 0 }).wf = true ∧ (Instr.cert 0 (List.replicate 8193 0) true).wf = false ∧
    (Instr.evidence 0 (evidence1 [] true)).wf = false ∧ (Instr.evidence 0 { evidence1 (List.replicate 48 0) true with romDigest := [] }).wf = false ∧
    (Instr.evidence 0 { evidence1 (List.replicate 48 0) true with sfwDigest := [] }).wf = false ∧
    (Instr.evidence 0 { evidence1 (List.replicate 48 0) true with pubKey := [] }).wf = false ∧ (Instr.finish 0 [] 0).wf = false := by decide +kernel
theorem test_wf_flits : (Instr.idleFlit (flit1 0 0 0 0 [])).wf = false ∧ (Instr.quench (qf 1 1 0) false).wf = false ∧
    (Instr.dataFlit { flit1 1 2 0 1 (List.replicate 224 0) with h0 := 225 }).wf = false ∧ (Instr.dataFlit (flit1 1 2 0 1 (List.replicate 224 0))).wf = true ∧
    (Instr.odpForward 0 0 (List.replicate 225 0)).wf = false := by decide +kernel
theorem test_wf_join : (Instr.join { joinMsg with sessionId := [] }).wf = false ∧ (Instr.join { joinMsg with pm := [] }).wf = false ∧
    (Instr.join { joinMsg with pubKey := [] }).wf = false ∧ (Instr.join joinMsg).wf = true := by decide +kernel
theorem test_wf_dictionary : (Instr.odpRead (.mgmt 0 0) (List.replicate 1473 0)).wf = false ∧ (Instr.odpRead (.link 0 0 0 (List.replicate 12 0)) (List.replicate 205 0)).wf = false ∧
    (Instr.odpRead (.link 0 0 0 []) []).wf = false ∧
    (Instr.odpRead (.mctp 0) (List.replicate 1025 0)).wf = false ∧ (Instr.odpRead (.mgmt 0 0) (List.replicate 1472 0)).wf = true ∧
    (Instr.getVersion { msg1 true [] with payload := List.replicate 4097 0 }).wf = false ∧ (Instr.getVersion (msg1 true [1])).wf = false ∧
    (Instr.getVersion (msg1 true [])).wf = true ∧ (Instr.icmpEcho 0 (List.replicate 1473 0)).wf = false := by decide +kernel
theorem test_wf_host : (Instr.registerWrite { put 0 0 with len := 0 }).wf = false ∧ (Instr.registerWrite { put 0 0 with len := 9 }).wf = false ∧
    (Instr.registerWrite { put 0 (2 ^ 32) with len := 4 }).wf = false ∧ (Instr.registerWrite (put 0 (2 ^ 32))).wf = true ∧
    (Instr.mcEccCount { get 0 with len := 9 }).wf = false ∧ (Instr.mcEccCount (get 0)).wf = true := by decide +kernel
def image2 (svn n : Nat) : ImageInfo := { isSfw := true, svn := svn, digest := List.replicate n 0, verifies := true, test := false }
theorem test_wf_answers : (Instr.joinAnswer ⟨[], none⟩).wf = false ∧ (Instr.joinAnswer ⟨List.replicate 16 0, some ([], [])⟩).wf = false ∧
    (Instr.joinAnswer ⟨List.replicate 16 0, some (List.replicate 32 0, [(0, 0, [])])⟩).wf = false ∧
    (Instr.joinAnswer ⟨List.replicate 16 0, some (List.replicate 32 0, [(0, 0, List.replicate 32 0)])⟩).wf = true ∧
    (Instr.recoveryImage (.mgmt 0 0) [] (image2 65 48)).wf = false ∧ (Instr.recoveryImage (.mgmt 0 0) [] (image2 64 47)).wf = false ∧
    (Instr.recoveryImage (.mgmt 0 0) (List.replicate 1473 0) (image2 64 48)).wf = false ∧ (Instr.recoveryImage (.mgmt 0 0) [] (image2 64 48)).wf = true := by
  decide +kernel

end Sys2Proof.Tests
end

section
/-! PROOF of O21. A WAIT that stands alone in the sync-object file and times out leaves it, and what then goes on in the streams
writes neither the file nor the result of an SQ, where no command in flight signals an object at its completion. -/

namespace Sys2Proof.Machine

open Sys2Proof

/-! ## Streams without signals -/

/-- No data or control command in flight signals an object at its completion (the N of R675 is 0). -/
def Unsignalled (s : State) : Prop := ∀ k : Pt, ∀ p ∈ s.parts[k].inflight, fld p.e.w0 40 25 = 0

/-- s has the sync objects, the waiters and the SQ results of r, and none of its commands in flight will signal. -/
structure Silent (r s : State) : Prop where
  sync        : s.sync = r.sync
  waiters     : s.waiters = r.waiters
  waitOut     : ∀ c : Tc, s.clusters[c].waitOut = r.clusters[c].waitOut
  unsignalled : Unsignalled s

theorem findPending_unsignalled {s : State} {k : Pt} {id : Nat} {p : Pending} (hs : Unsignalled s) (hp : findPending s k id = some p) :
    fld p.e.w0 40 25 = 0 :=
  hs k p (List.mem_of_find?_eq_some hp)

namespace Silent

variable {r s : State}

theorem refl (h : Unsignalled s) : Silent s s := ⟨rfl, rfl, fun _ => rfl, h⟩

/-- Outside the file, the clusters and the partitions anything may change. -/
theorem of_same {t : State} (h : Silent r s) (hs : t.sync = s.sync) (hw : t.waiters = s.waiters) (hc : t.clusters = s.clusters)
    (hp : t.parts = s.parts) : Silent r t :=
  ⟨hs.trans h.sync, hw.trans h.waiters, fun c => by rw [hc]; exact h.waitOut c, fun k => by rw [hp]; exact h.unsignalled k⟩

theorem setHost (h : Silent r s) (x : HostIf) : Silent r { s with host := x } := h.of_same rfl rfl rfl rfl

theorem foldl {α : Type} {g : State → α → State} (hg : ∀ t x, Silent r t → Silent r (g t x)) (l : List α) (h : Silent r s) :
    Silent r (l.foldl g s) := by
  induction l generalizing s with
  | nil => exact h
  | cons a l ih => exact ih (hg s a h)

/-- A partition may change where no entry comes in flight that was not. -/
theorem modPart (h : Silent r s) (k : Pt) (f : Partition → Partition)
    (hf : ∀ p : Partition, ∀ x ∈ (f p).inflight, ∃ y ∈ p.inflight, x.e = y.e) : Silent r (s.modPart k f) := by
  refine ⟨h.sync, h.waiters, h.waitOut, fun j x hx => ?_⟩
  rw [State.modPart_parts, vmod_get] at hx
  split at hx
  · obtain ⟨y, hy, he⟩ := hf _ x hx
    rw [he]
    exact h.unsignalled j y hy
  · exact h.unsignalled j x hx

theorem modPart_inflight (h : Silent r s) (k : Pt) (f : Partition → Partition) (hf : ∀ p : Partition, (f p).inflight = p.inflight) :
    Silent r (s.modPart k f) :=
  h.modPart k f fun p x hx => ⟨x, hf p ▸ hx, rfl⟩

theorem modCluster (h : Silent r s) (c : Tc) (f : Cluster → Cluster) (hf : ∀ x : Cluster, (f x).waitOut = x.waitOut) :
    Silent r (s.modCluster c f) := by
  refine ⟨h.sync, h.waiters, fun j => ?_, h.unsignalled⟩
  rw [State.modCluster_clusters, vmod_get]
  split
  · exact (hf _).trans (h.waitOut j)
  · exact h.waitOut j

/-! ### Completions -/

theorem msixSend (h : Silent r s) (fn : Fin 5) (v : BitVec 11) : Silent r (msixSend s fn v) := by
  unfold Machine.msixSend
  dsimp only
  split
  · unfold msixSet
    split <;> exact h.of_same rfl rfl rfl rfl
  · exact h.of_same rfl rfl rfl rfl

theorem partVector (h : Silent r s) (k : Pt) (vf : Bool) (v : BitVec 11) : Silent r (partVector s k vf v) := by
  unfold Machine.partVector
  split
  · exact h.modPart_inflight _ _ fun _ => rfl
  · exact h.msixSend _ _

theorem modQueue (h : Silent r s) (q : QRef) (f : Queue → Queue) : Silent r (s.modQueue q f) := by
  cases q with
  | admin => exact h.of_same rfl rfl rfl rfl
  | ctrl k => exact h.modPart_inflight _ _ fun _ => rfl
  | data k j => exact h.modPart_inflight _ _ fun _ => rfl

theorem writeCompletion (h : Silent r s) (q : QRef) (c : Completion) : Silent r (writeCompletion s q c) := by
  unfold Machine.writeCompletion
  dsimp only
  split
  · exact ((h.setHost _).modQueue _ _).msixSend _ _
  · exact ((h.setHost _).modQueue _ _).partVector _ _ _

theorem postCompletion (h : Silent r s) (q : QRef) (c : Completion) : Silent r (postCompletion s q c) := by
  unfold Machine.postCompletion
  split
  · split
    · exact h.modPart_inflight _ _ fun _ => rfl
    · exact h.writeCompletion _ _
  · exact h.writeCompletion _ _

theorem dropPending (h : Silent r s) (p : Pending) : Silent r (dropPending s p) := by
  unfold Machine.dropPending
  split
  · exact h.of_same rfl rfl rfl rfl
  · exact h.modPart _ _ fun t x hx => ⟨x, List.mem_of_mem_filter hx, rfl⟩

theorem setWait (h : Silent r s) (p : Pending) (w : Wait) : Silent r (setWait s p w) := by
  unfold Machine.setWait
  dsimp only
  split
  · exact h.of_same rfl rfl rfl rfl
  · refine h.modPart _ _ fun t x hx => ?_
    obtain ⟨y, hy, rfl⟩ := List.mem_map.mp hx
    exact ⟨y, hy, by split <;> rfl⟩

end Silent

/-- A command that signals nothing ends, with a status that halts no queue, in its completion alone. -/
theorem endCmd_eq_postCompletion (s : State) (p : Pending) (st r0 r1 r2 : Nat) (hn : fld p.e.w0 40 25 = 0) (hst : haltsQueue st = false) :
    endCmd s p st r0 r1 r2 = postCompletion s p.q
      { tag := BitVec.ofNat 16 (fld p.e.w0 15 0), status := BitVec.ofNat 8 st, res0 := BitVec.ofNat 64 r0, res1 := BitVec.ofNat 64 r1,
        res2 := BitVec.ofNat 64 r2 } := by
  have hsig : completionSignal s p.q p.e st = s := by simp [completionSignal, hn]
  unfold endCmd
  rw [hsig, hst]
  dsimp only
  split <;> rfl

namespace Silent

variable {r s : State}

theorem endPending (h : Silent r s) (p : Pending) (st r0 r1 r2 : Nat) (hn : fld p.e.w0 40 25 = 0) (hst : haltsQueue st = false) :
    Silent r (endPending s p st r0 r1 r2) := by
  rw [Machine.endPending, endCmd_eq_postCompletion _ _ _ _ _ _ hn hst]
  exact (h.dropPending p).postCompletion _ _

/-! ### Streams -/

theorem streamDone (h : Silent r s) (k : Pt) (id : Nat) (c : Tc) : Silent r (streamDone s k id c) := by
  unfold Machine.streamDone
  split
  next p hp =>
    split
    · dsimp only
      split
      · exact h.endPending p _ _ _ _ (findPending_unsignalled h.unsignalled hp) rfl
      · exact h.setWait _ _
    · exact h
  next => exact h

theorem modJob (h : Silent r s) (c : Tc) (id : Nat) (f : SqJob → SqJob) : Silent r (modJob s c id f) :=
  h.modCluster _ _ fun _ => rfl

theorem endRun (h : Silent r s) (c : Tc) (id : Nat) : Silent r (endRun s c id) := by
  unfold Machine.endRun
  split
  · split
    · exact (h.modJob _ _ _).streamDone _ _ _
    · exact h
  · exact h

theorem endSqWait (h : Silent r s) (c : Tc) : Silent r (endSqWait s c) := by
  unfold Machine.endSqWait
  split
  · exact (h.modJob _ _ _).endRun _ _
  · exact h

theorem modUnit (h : Silent r s) (k : Pt) (mark : W32) (f : ReplayUnit → ReplayUnit) : Silent r (modUnit s k mark f) :=
  h.modPart_inflight _ _ fun _ => rfl

theorem jobStarted (h : Silent r s) (c : Tc) (b : SqJob) : Silent r (jobStarted s c b) := by
  cases hk : b.kind with
  | unitBegin =>
    cases hu : b.unit with
    | none => simpa only [Machine.jobStarted, hk, hu] using h
    | some m =>
      have hm := h.modUnit b.part m fun u => { u with reached := setBit u.reached c.1 true }
      simp only [Machine.jobStarted, hk, hu]
      split
      · exact hm.streamDone _ _ _
      · exact hm
  | unitEnd =>
    cases hu : b.unit with
    | none => simpa only [Machine.jobStarted, hk, hu] using h.streamDone b.part b.id c
    | some m => simpa only [Machine.jobStarted, hk, hu] using (h.modUnit b.part m fun u => passEnd u b.qj c).streamDone b.part b.id c
  | fence =>
    simp only [Machine.jobStarted, hk]
    exact (h.modPart_inflight _ _ fun p => by split <;> rfl).streamDone _ _ _
  | move =>
    simp only [Machine.jobStarted, hk]
    exact h.of_same rfl rfl rfl rfl
  | run =>
    simp only [Machine.jobStarted, hk]
    split
    · exact h.streamDone _ _ _
    · exact h

theorem pump (h : Silent r s) (c : Tc) : Silent r (pump s c) := by
  unfold Machine.pump
  split
  · exact h
  · cases scanJobs s.parts (admits s) false s.clusters[c].jobs with
    | mk jobs started =>
      have hj : Silent r (s.modCluster c fun t => { t with jobs := jobs }) := h.modCluster _ _ fun _ => rfl
      have hb := hj.foldl (fun t b ht => ht.jobStarted c b) started
      exact hb.modCluster _ _ fun _ => rfl

theorem pumpAll (h : Silent r s) : Silent r (pumpAll s) := h.foldl (fun _ c ht => ht.pump c) allTcs

end Silent

/-! ## Streams without commands -/

theorem queue_of_parts {s t : State} {q : QRef} {k : Pt} (hq : qPart q = some k) (h : t.parts = s.parts) : t.queue q = s.queue q := by
  cases q with
  | admin => cases hq
  | ctrl j => simp only [State.queue, h]
  | data j i => simp only [State.queue, h]

theorem pump_parts_of_no_jobs (s : State) (c : Tc) (h : ∀ j : Tc, s.clusters[j].jobs = []) :
    (pump s c).parts = s.parts ∧ ∀ j : Tc, (pump s c).clusters[j].jobs = [] := by
  unfold pump
  split
  · exact ⟨rfl, h⟩
  · rw [h c]
    refine ⟨rfl, fun j => ?_⟩
    simp only [scanJobs, List.foldl_nil, pruneJobs, State.modCluster_clusters, vmod_get]
    split
    · rfl
    · exact h j

theorem pumpAll_parts_of_no_jobs (s : State) (h : ∀ j : Tc, s.clusters[j].jobs = []) : (pumpAll s).parts = s.parts := by
  unfold pumpAll
  generalize allTcs = l
  induction l generalizing s with
  | nil => rfl
  | cons c l ih =>
    obtain ⟨hp, hj⟩ := pump_parts_of_no_jobs s c h
    exact (ih _ hj).trans hp

/-! ## A lone waiter that times out -/

/-- The waiter as it stands in the file at the end of the clock of its WAIT_TIMEOUT. -/
def Waiter.expired (w : Waiter) : Waiter := { w with arrived := false, due := true, coin := true, open_ := false }

theorem arrive_singleton (w : Waiter) : arrive [w] = [{ w with arrived := false }] := by
  cases h : w.arrived with
  | false =>
    have hw : { w with arrived := false } = w := by rw [← h]
    simp [arrive, clockOrder, h, hw]
  | true => simp [arrive, clockOrder, insertByKey, h]

theorem settleLoop_of_none_served (n : Nat) (s : State) (h : nextServed s [] s.waiters = none) : settleLoop n s = s := by
  cases n with
  | zero => rfl
  | succ n => simp only [settleLoop, h]

/-- A waiter that stands alone and finds too little in its object is not served: it leaves with the timeout status (R76, R77). -/
theorem expireWaiters_alone (n : Nat) (s : State) (w : Waiter) (hw : s.waiters = [w.expired])
    (hn : (syncGet s w.obj.toNat).toNat < w.n.toNat) : expireWaiters (settleLoop n s) = endWaiter s w.expired 0x0E := by
  have hnone : nextServed s [] s.waiters = none := by
    have hlt : ¬ w.n.toNat ≤ (syncGet s w.obj.toNat).toNat := by omega
    simp [hw, nextServed, Waiter.expired, hlt]
  rw [settleLoop_of_none_served _ _ hnone, expireWaiters, hw]
  rfl

/-- The state that a waiter standing alone leaves behind as it goes with the timeout status. -/
def timedOut (s : State) (w : Waiter) : State := endWaiter { s with waiters := [] } w 0x0E

theorem endWaiter_expired (s : State) (w : Waiter) : endWaiter { s with waiters := [w.expired] } w.expired 0x0E = timedOut s w := by
  have hf : [w.expired].filter (fun x => x.id != w.expired.id) = [] := by simp
  unfold timedOut endWaiter
  rw [hf]
  rfl

theorem serveWaiters_alone (s : State) (w : Waiter) (hn : (syncGet s w.obj.toNat).toNat < w.n.toNat) :
    serveWaiters { s with waiters := [{ w with due := true, coin := true, open_ := false }] } = timedOut s w := by
  have h := expireWaiters_alone 1 { s with waiters := [w.expired] } w rfl (by simpa only [syncGet] using hn)
  rw [endWaiter_expired] at h
  rw [serveWaiters, arrive_singleton]
  exact h

/-- A round after which nobody waits is the last one. -/
theorem settleRounds_of_no_waiters (n : Nat) (s : State) (h : (pumpAll (serveWaiters s)).waiters = []) :
    settleRounds (n + 1) s = pumpAll (serveWaiters s) := by
  simp [settleRounds, h, nextServed]

/-- WAIT_TIMEOUT in a clock without SIGNALs ends that clock for a waiter that stands alone. -/
theorem exec_waitTimeout_alone (s : State) (w : Waiter) (hw : s.waiters = [w]) (ht : w.ticks = true → w.left = 0) :
    exec (.waitTimeout w.id ⟨[], false⟩) s =
      .next (settleRounds 2 { s with waiters := [{ w with due := true, coin := true, open_ := false }] }) := by
  have hfind : s.waiters.find? (fun x => x.id == w.id) = some w := by simp [hw]
  have hticks : ¬ (w.ticks = true ∧ w.left ≠ 0) := fun h => h.2 (ht h.1)
  have hexec : exec (.waitTimeout w.id ⟨[], false⟩) s = execWaitTimeout w.id ⟨[], false⟩ s := rfl
  rw [hexec, execWaitTimeout, hfind]
  simp only [if_neg hticks, hw, List.foldl_nil, List.map_cons, List.map_nil]
  simp [settle, clockGoesOn]

/-- R77: the waiter leaves, the streams go on, and where that brings no other waiter the clock has ended. -/
theorem waitTimeout_leads {s : State} {w : Waiter} {P : State → Prop} (hw : s.waiters = [w]) (ht : w.ticks = true → w.left = 0)
    (hn : (syncGet s w.obj.toNat).toNat < w.n.toNat) (hout : (pumpAll (timedOut s w)).waiters = []) (hP : P (pumpAll (timedOut s w))) :
    Leads (.waitTimeout w.id ⟨[], false⟩) s P := by
  have hs := serveWaiters_alone s w hn
  refine ⟨_, ?_, hP⟩
  rw [exec_waitTimeout_alone s w hw ht, settleRounds_of_no_waiters 1 _ (by rw [hs]; exact hout), hs]

/-! ### The WAIT of an SQ -/

/-- An empty file, and the timeout status as the result of a cluster's WAIT. -/
def sqTimedOut (s : State) (c : Tc) : State := ({ s with waiters := [] } : State).modCluster c fun t => { t with waitOut := 0x0E }

theorem timedOut_sq {s : State} {w : Waiter} {c : Tc} (hc : w.src = some c) : timedOut s w = endSqWait (sqTimedOut s c) c := by
  simp [timedOut, endWaiter, hc, sqTimedOut]

theorem silent_timedOut_sq {s : State} {w : Waiter} {c : Tc} (hu : Unsignalled s) (hc : w.src = some c) :
    Silent (sqTimedOut s c) (timedOut s w) := by
  have hu' : Unsignalled (sqTimedOut s c) := hu
  rw [timedOut_sq hc]
  exact (Silent.refl hu').endSqWait c

/-! ### The WAIT of a queue -/

theorem timedOut_queue {s : State} {w : Waiter} {p : Pending} (hsrc : w.src = none) (hp : findPending s w.part w.id = some p) :
    timedOut s w = endPending { s with waiters := [] } p 0x0E 0 0 0 := by
  have hp' : findPending { s with waiters := [] } w.part w.id = some p := hp
  simp [timedOut, endWaiter, hsrc, hp']

theorem silent_timedOut_queue {s : State} {w : Waiter} {p : Pending} (hu : Unsignalled s) (hsrc : w.src = none)
    (hp : findPending s w.part w.id = some p) : Silent { s with waiters := [] } (timedOut s w) := by
  have hu' : Unsignalled { s with waiters := [] } := hu
  rw [timedOut_queue hsrc hp]
  exact (Silent.refl hu').endPending p _ _ _ _ (findPending_unsignalled hu hp) rfl

/-- The queue q, the commands of partitions in flight and the clusters of s are those of r. -/
structure QueueKept (q : QRef) (r s : State) : Prop where
  queue    : s.queue q = r.queue q
  inflight : ∀ k : Pt, s.parts[k].inflight = r.parts[k].inflight
  clusters : s.clusters = r.clusters

theorem msixSend_kept (s : State) (q : QRef) (fn : Fin 5) (v : BitVec 11) : QueueKept q s (msixSend s fn v) := by
  unfold msixSend
  dsimp only
  split
  · unfold msixSet
    split <;> exact ⟨by cases q <;> rfl, fun _ => rfl, rfl⟩
  · exact ⟨by cases q <;> rfl, fun _ => rfl, rfl⟩

/-- What a change of a partition leaves in it, it leaves in every partition. -/
theorem modPart_leaves {α : Type} (g : Partition → α) (s : State) (k : Pt) (f : Partition → Partition) (hg : ∀ p, g (f p) = g p) (j : Pt) :
    g (s.modPart k f).parts[j] = g s.parts[j] := by
  rw [State.modPart_parts, vmod_get]
  split
  · exact hg _
  · rfl

theorem modPart_kept (s : State) (q : QRef) (k : Pt) (f : Partition → Partition)
    (hf : ∀ p, ((f p).ctrl, (f p).data, (f p).inflight) = (p.ctrl, p.data, p.inflight)) : QueueKept q s (s.modPart k f) := by
  simp only [Prod.mk.injEq] at hf
  refine ⟨?_, modPart_leaves (·.inflight) s k f fun p => (hf p).2.2, rfl⟩
  cases q with
  | admin => rfl
  | ctrl j => exact modPart_leaves (·.ctrl) s k f (fun p => (hf p).1) j
  | data j i => exact congrArg (·[i]) (modPart_leaves (·.data) s k f (fun p => (hf p).2.1) j)

theorem partVector_kept (s : State) (q : QRef) (k : Pt) (vf : Bool) (v : BitVec 11) : QueueKept q s (partVector s k vf v) := by
  unfold partVector
  split
  · exact modPart_kept _ _ _ _ fun _ => rfl
  · exact msixSend_kept _ _ _ _

@[simp] theorem modQueue_queue (s : State) (q : QRef) (f : Queue → Queue) : (s.modQueue q f).queue q = f (s.queue q) := by
  cases q <;> simp [State.modQueue, State.queue]

@[simp] theorem modQueue_inflight (s : State) (q : QRef) (f : Queue → Queue) (k : Pt) :
    (s.modQueue q f).parts[k].inflight = s.parts[k].inflight := by
  cases q with
  | admin => rfl
  | ctrl j => exact modPart_leaves (·.inflight) s j (fun p => { p with ctrl := f p.ctrl }) (fun _ => rfl) k
  | data j i => exact modPart_leaves (·.inflight) s j (fun p => { p with data := vmod p.data i f }) (fun _ => rfl) k

@[simp] theorem modQueue_clusters (s : State) (q : QRef) (f : Queue → Queue) : (s.modQueue q f).clusters = s.clusters := by
  cases q <;> rfl

/-- A completion gives its queue the status, ends no other command and leaves the clusters alone (R677). -/
theorem writeCompletion_effect (s : State) (q : QRef) (c : Completion) :
    ((writeCompletion s q c).queue q).lastSt = c.status ∧ (∀ k : Pt, (writeCompletion s q c).parts[k].inflight = s.parts[k].inflight) ∧
    (writeCompletion s q c).clusters = s.clusters := by
  unfold writeCompletion
  dsimp only
  split
  next =>
    obtain ⟨hq, hi, hc⟩ := msixSend_kept (State.modQueue _ q _) q 0 (s.queue q).vector
    exact ⟨by rw [hq, modQueue_queue], fun k => by rw [hi, modQueue_inflight], by rw [hc, modQueue_clusters]⟩
  next k _ =>
    obtain ⟨hq, hi, hc⟩ := partVector_kept (State.modQueue _ q _) q k (s.queue q).vf (s.queue q).vector
    exact ⟨by rw [hq, modQueue_queue], fun k => by rw [hi, modQueue_inflight], by rw [hc, modQueue_clusters]⟩

theorem postCompletion_of_ordinary (s : State) (q : QRef) (k : Pt) (c : Completion) (hq : qPart q = some k)
    (hk : s.parts[k].conf = false) : postCompletion s q c = writeCompletion s q c := by
  cases q with
  | admin => rfl
  | ctrl j => rfl
  | data j i =>
    obtain rfl : j = k := by simpa [qPart] using hq
    simp only [postCompletion, hk, Bool.false_eq_true, if_false]

theorem dropPending_clusters (s : State) (p : Pending) : (dropPending s p).clusters = s.clusters := by
  unfold dropPending
  split <;> rfl

theorem dropPending_part {s : State} {p : Pending} {k : Pt} (hq : qPart p.q = some k) :
    (dropPending s p).parts[k] = { s.parts[k] with inflight := s.parts[k].inflight.filter fun x => x.id != p.id } := by
  simp [dropPending, hq]

/-- A command of an ordinary partition that signals nothing ends: its queue has the status, it is in flight no more, and the clusters are
what they were. -/
theorem endPending_ordinary {s : State} {p : Pending} {k : Pt} (st : Nat) (hq : qPart p.q = some k) (hk : s.parts[k].conf = false)
    (hn : fld p.e.w0 40 25 = 0) (hst : haltsQueue st = false) :
    ((endPending s p st 0 0 0).queue p.q).lastSt = BitVec.ofNat 8 st ∧ findPending (endPending s p st 0 0 0) k p.id = none ∧
    (endPending s p st 0 0 0).clusters = s.clusters := by
  have hpart := dropPending_part (s := s) hq
  have hconf : (dropPending s p).parts[k].conf = false := by rw [hpart]; exact hk
  rw [endPending, endCmd_eq_postCompletion _ _ _ _ _ _ hn hst, postCompletion_of_ordinary _ _ _ _ hq hconf]
  obtain ⟨hl, hi, hc⟩ := writeCompletion_effect (dropPending s p) p.q _
  refine ⟨hl, ?_, by rw [hc, dropPending_clusters]⟩
  rw [findPending, hi, hpart]
  simp

/-! ## O21 -/

/-- R77 for a WAIT of a queue of an ordinary partition. -/
theorem waitTimeout_queue {s : State} {w : Waiter} {p : Pending} (hw : s.waiters = [w]) (ht : w.ticks = true → w.left = 0)
    (hn : (syncGet s w.obj.toNat).toNat < w.n.toNat) (hu : Unsignalled s) (hsrc : w.src = none)
    (hp : findPending s w.part w.id = some p) (hq : qPart p.q = some w.part) (hk : s.parts[w.part].conf = false)
    (hj : ∀ c : Tc, s.clusters[c].jobs = []) :
    Leads (.waitTimeout w.id ⟨[], false⟩) s fun t =>
      t.sync = s.sync ∧ t.waiters = [] ∧ (t.queue p.q).lastSt = 0x0E ∧ findPending t w.part w.id = none := by
  have hid : p.id = w.id := by simpa using List.find?_some hp
  have hpump := (silent_timedOut_queue hu hsrc hp).pumpAll
  have hend := endPending_ordinary (s := { s with waiters := [] }) 0x0E hq hk (findPending_unsignalled hu hp) rfl
  rw [← timedOut_queue hsrc hp, hid] at hend
  obtain ⟨hlast, hgone, hclusters⟩ := hend
  have hparts : (pumpAll (timedOut s w)).parts = (timedOut s w).parts :=
    pumpAll_parts_of_no_jobs _ fun c => by rw [hclusters]; exact hj c
  refine waitTimeout_leads hw ht hn hpump.waiters ⟨hpump.sync, hpump.waiters, ?_, ?_⟩
  · rw [queue_of_parts hq hparts]
    exact hlast
  · rw [findPending, hparts]
    exact hgone

/-- R77 for the WAIT of an SQ. -/
theorem waitTimeout_sq {s : State} {w : Waiter} {c : Tc} (hw : s.waiters = [w]) (ht : w.ticks = true → w.left = 0)
    (hn : (syncGet s w.obj.toNat).toNat < w.n.toNat) (hu : Unsignalled s) (hc : w.src = some c) :
    Leads (.waitTimeout w.id ⟨[], false⟩) s fun t => t.sync = s.sync ∧ t.waiters = [] ∧ t.clusters[c].waitOut = 0x0E := by
  have hpump := (silent_timedOut_sq hu hc).pumpAll
  refine waitTimeout_leads hw ht hn hpump.waiters ⟨hpump.sync, hpump.waiters, ?_⟩
  rw [hpump.waitOut c, sqTimedOut, State.modCluster_clusters, vmod_get_self]

/-- Settles O21: the waiter leaves the file with the timeout status, and nothing that follows in its clock signals an object. -/
theorem waitTimesOut : Obligations.WaitTimesOut := by
  unfold Obligations.WaitTimesOut
  intro s w ⟨hw, ht, hn, hu⟩
  exact ⟨fun p hsrc hp hq hk hj => waitTimeout_queue hw ht hn hu hsrc hp hq hk hj, fun c hc => waitTimeout_sq hw ht hn hu hc⟩

end Sys2Proof.Machine
end

section
/-! PROOF of O56. Events, completions, waiters and streams leave what the host finds in its own registers, the locks of the
clusters and the operator's log; everything that a register write can set off leaves the locks of all blocks. -/

namespace Sys2Proof.Machine

open Sys2Proof

/-! ## The locks of a kind of block -/

/-- The locks of all units of a kind. -/
def lockBits {α : Type} {n : Nat} (u : α → Bool) (v : Vector α n) : Fin n → Bool := fun i => u v[i]

@[simp] theorem lockBits_vmod {α : Type} {n : Nat} (u : α → Bool) (v : Vector α n) (i : Fin n) (f : α → α) (h : ∀ x, u (f x) = u x) :
    lockBits u (vmod v i f) = lockBits u v := by
  funext j
  simp only [lockBits, vmod_get]
  split
  · exact h _
  · rfl

@[simp] theorem lockBits_vmap {α : Type} {n : Nat} (u : α → Bool) (v : Vector α n) (f : α → α) (h : ∀ x, u (f x) = u x) :
    lockBits u (vmap v f) = lockBits u v := by
  funext j
  simp only [lockBits, vmap_get, h]

/-! ## What events, completions and streams leave -/

/-- From s to t the locks of the host's registers and of the clusters, the values of the global block's guarded registers and the
operator's log are kept. -/
@[simp] abbrev GuardsKept (s t : State) : Prop :=
  t.host.unlocked = s.host.unlocked ∧ t.host.partLocks = s.host.partLocks ∧ t.host.clkNew = s.host.clkNew ∧
  t.host.clkFreq = s.host.clkFreq ∧ t.host.fixFreq = s.host.fixFreq ∧ t.host.avsFreeze = s.host.avsFreeze ∧
  t.host.scanTc = s.host.scanTc ∧ t.host.scanLd = s.host.scanLd ∧ t.log = s.log ∧
  lockBits Cluster.unlocked t.clusters = lockBits Cluster.unlocked s.clusters

theorem GuardsKept.refl (s : State) : GuardsKept s s := by simp

theorem GuardsKept.trans {s t u : State} (h : GuardsKept s t) (h' : GuardsKept t u) : GuardsKept s u := by
  obtain ⟨_, _⟩ := h; obtain ⟨_, _⟩ := h'; simp_all

theorem GuardsKept.foldl {α : Type} (g : State → α → State) (l : List α) (s : State) (h : ∀ t x, GuardsKept t (g t x)) :
    GuardsKept s (l.foldl g s) := by
  induction l generalizing s with
  | nil => exact .refl s
  | cons a l ih => exact (h s a).trans (ih (g s a))

@[simp] theorem msixSet_guards (s : State) (fn : Fin 5) (v : Nat) (x : MsixVec) : GuardsKept s (msixSet s fn v x) := by
  unfold msixSet
  split <;> simp

@[simp] theorem msixSend_guards (s : State) (fn : Fin 5) (v : BitVec 11) : GuardsKept s (msixSend s fn v) := by
  unfold msixSend
  dsimp only
  split <;> simp

@[simp] theorem raiseGlb_guards (s : State) (b : Nat) : GuardsKept s (raiseGlb s b) := by
  unfold raiseGlb
  dsimp only
  split <;> simp

@[simp] theorem partVector_guards (s : State) (k : Pt) (vf : Bool) (v : BitVec 11) : GuardsKept s (partVector s k vf v) := by
  unfold partVector
  split <;> simp

@[simp] theorem raisePart_guards (s : State) (k : Pt) (b : Nat) : GuardsKept s (raisePart s k b) := by
  unfold raisePart
  dsimp only
  split <;> simp

@[simp] theorem raiseChanges_guards (s t : State) : GuardsKept t (raiseChanges s t) := by
  unfold raiseChanges
  dsimp only
  (repeat' split) <;> simp

@[simp] theorem logPart_guards (s : State) (k : Pt) (r : LogRec) : GuardsKept s (logPart s k r) := by
  simp [logPart]

@[simp] theorem notePart_guards (s : State) (k : Pt) (typ cluster unitId detail : Nat) :
    GuardsKept s (notePart s k typ cluster unitId detail) := by
  simp [notePart]

@[simp] theorem count_guards (s : State) (k : Pt) (f : Counters → Counters) : GuardsKept s (s.count k f) := by
  simp [State.count]

@[simp] theorem addSync_guards (s : State) (part : Option Pt) (o n : Nat) : GuardsKept s (addSync s part o n) := by
  unfold addSync
  dsimp only
  (repeat' split) <;> simp

@[simp] theorem signalSync_guards (s : State) (part : Option Pt) (cluster : Nat) (o n : Nat) :
    GuardsKept s (signalSync s part cluster o n) := by
  unfold signalSync
  (repeat' split) <;> simp [syncDrop]

/-! ### Completions -/

@[simp] theorem modQueue_guards (s : State) (q : QRef) (f : Queue → Queue) : GuardsKept s (s.modQueue q f) := by
  unfold State.modQueue
  split <;> simp

@[simp] theorem writeCompletion_guards (s : State) (q : QRef) (c : Completion) : GuardsKept s (writeCompletion s q c) := by
  unfold writeCompletion
  dsimp only
  split <;> simp

@[simp] theorem postCompletion_guards (s : State) (q : QRef) (c : Completion) : GuardsKept s (postCompletion s q c) := by
  unfold postCompletion
  (repeat' split) <;> simp

@[simp] theorem completionSignal_guards (s : State) (q : QRef) (e : Entry) (st : Nat) : GuardsKept s (completionSignal s q e st) := by
  unfold completionSignal
  dsimp only
  (repeat' split) <;> simp

@[simp] theorem haltQueue_guards (s : State) (k : Pt) (j : Fin 16) (st : Nat) : GuardsKept s (haltQueue s k j st) := by
  unfold haltQueue
  split <;> simp

@[simp] theorem endCmd_guards (s : State) (p : Pending) (st r0 r1 r2 : Nat) : GuardsKept s (endCmd s p st r0 r1 r2) := by
  unfold endCmd
  (repeat' split) <;> simp

@[simp] theorem dropPending_guards (s : State) (p : Pending) : GuardsKept s (dropPending s p) := by
  unfold dropPending
  split <;> simp

@[simp] theorem endPending_guards (s : State) (p : Pending) (st r0 r1 r2 : Nat) : GuardsKept s (endPending s p st r0 r1 r2) := by
  simp [endPending]

@[simp] theorem setWait_guards (s : State) (p : Pending) (w : Wait) : GuardsKept s (setWait s p w) := by
  unfold setWait
  dsimp only
  split <;> simp

/-! ### Streams -/

@[simp] theorem streamDone_guards (s : State) (k : Pt) (id : Nat) (c : Tc) : GuardsKept s (streamDone s k id c) := by
  unfold streamDone
  dsimp only
  (repeat' split) <;> simp

@[simp] theorem modJob_guards (s : State) (c : Tc) (id : Nat) (f : SqJob → SqJob) : GuardsKept s (modJob s c id f) := by
  simp [modJob]

@[simp] theorem endRun_guards (s : State) (c : Tc) (id : Nat) : GuardsKept s (endRun s c id) := by
  unfold endRun
  (repeat' split) <;> simp

@[simp] theorem endSqWait_guards (s : State) (c : Tc) : GuardsKept s (endSqWait s c) := by
  unfold endSqWait
  split <;> simp

@[simp] theorem modUnit_guards (s : State) (k : Pt) (mark : W32) (f : ReplayUnit → ReplayUnit) : GuardsKept s (modUnit s k mark f) := by
  simp [modUnit]

@[simp] theorem jobStarted_guards (s : State) (c : Tc) (b : SqJob) : GuardsKept s (jobStarted s c b) := by
  cases hk : b.kind with
  | unitBegin =>
    cases hu : b.unit with
    | none => simp [jobStarted, hk, hu]
    | some m =>
      simp only [jobStarted, hk, hu]
      split <;> simp
  | unitEnd => cases hu : b.unit <;> simp [jobStarted, hk, hu]
  | fence => simp [jobStarted, hk]
  | move => simp [jobStarted, hk, issueMove]
  | run =>
    simp only [jobStarted, hk]
    split <;> simp

@[simp] theorem pruneJobs_guards (s : State) (c : Tc) : GuardsKept s (pruneJobs s c) := by
  simp [pruneJobs]

@[simp] theorem pump_guards (s : State) (c : Tc) : GuardsKept s (pump s c) := by
  unfold pump
  cases scanJobs s.parts (admits s) false s.clusters[c].jobs with
  | mk jobs started =>
    dsimp only
    split
    · exact .refl s
    · have hb := GuardsKept.foldl (fun t b => jobStarted t c b) started (s.modCluster c fun t => { t with jobs := jobs })
        fun t b => jobStarted_guards t c b
      simp_all

@[simp] theorem pumpAll_guards (s : State) : GuardsKept s (pumpAll s) := by
  unfold pumpAll
  exact GuardsKept.foldl pump allTcs s pump_guards

/-! ### Waiters -/

@[simp] theorem endWaiter_guards (s : State) (w : Waiter) (st : Nat) : GuardsKept s (endWaiter s w st) := by
  unfold endWaiter
  dsimp only
  (repeat' split) <;> simp

@[simp] theorem settleLoop_guards (n : Nat) (s : State) : GuardsKept s (settleLoop n s) := by
  induction n generalizing s with
  | zero => exact .refl s
  | succ n ih =>
    unfold settleLoop
    split
    · exact .refl s
    · refine GuardsKept.trans ?_ (ih _)
      split <;> simp

@[simp] theorem serveWaiters_guards (s : State) : GuardsKept s (serveWaiters s) := by
  have ha : GuardsKept s { s with waiters := arrive s.waiters } := by simp
  exact ha.trans ((settleLoop_guards _ _).trans (GuardsKept.foldl _ _ _ fun t w => endWaiter_guards t w 0x0E))

@[simp] theorem settleRounds_guards (n : Nat) (s : State) : GuardsKept s (settleRounds n s) := by
  induction n generalizing s with
  | zero => exact .refl s
  | succ n ih =>
    have h := (serveWaiters_guards s).trans (pumpAll_guards _)
    unfold settleRounds
    dsimp only
    split
    · exact h
    · exact h.trans (ih _)

@[simp] theorem settle_guards (s : State) : GuardsKept s (settle s) := by
  unfold settle
  split
  · have ho : GuardsKept s { s with waiters := s.waiters.map fun (w : Waiter) => { w with open_ := false } } := by simp
    exact ho.trans (pumpAll_guards _)
  · exact settleRounds_guards _ _

/-- Where no scratchpad error is newly found, all that follows a command leaves them. -/
theorem settled_guards (s t : State) (h : ∀ c : Tc, t.clusters[c].ueTicks = s.clusters[c].ueTicks) : GuardsKept t (settled s t) := by
  rw [settled, settleFrom_none s t h]
  exact (settle_guards t).trans (raiseChanges_guards s _)

/-! ## What the units of the module leave -/

/-- From s to t every lock of the register map is kept. -/
@[simp] abbrev LocksKept (s t : State) : Prop :=
  t.host.unlocked = s.host.unlocked ∧ t.host.partLocks = s.host.partLocks ∧
  lockBits Cluster.unlocked t.clusters = lockBits Cluster.unlocked s.clusters ∧
  lockBits Port.unlocked t.ports = lockBits Port.unlocked s.ports ∧
  lockBits Stack.unlocked t.hbs = lockBits Stack.unlocked s.hbs ∧
  lockBits Press.unlocked t.presses = lockBits Press.unlocked s.presses

theorem LocksKept.refl (s : State) : LocksKept s s := by simp

theorem LocksKept.trans {s t u : State} (h : LocksKept s t) (h' : LocksKept t u) : LocksKept s u := by
  obtain ⟨_, _⟩ := h; obtain ⟨_, _⟩ := h'; simp_all

@[simp] theorem foldl_locks {α : Type} (g : State → α → State) (l : List α) (s : State) (h : ∀ t x, LocksKept t (g t x)) :
    LocksKept s (l.foldl g s) := by
  induction l generalizing s with
  | nil => exact .refl s
  | cons a l ih => exact (h s a).trans (ih (g s a))

/-- With these kept, every block is locked as it was. -/
theorem LocksKept.unlockedOf_eq {s t : State} (h : LocksKept s t) (b : Block) : unlockedOf t b = unlockedOf s b := by
  obtain ⟨hglob, hparts, hclusters, hports, hstacks, hpresses⟩ := h
  cases b with
  | glob => exact hglob
  | tc c => exact congrFun hclusters c
  | lp p => exact congrFun hports p
  | mc h => exact congrFun hstacks h
  | ps h => exact congrFun hpresses (hbBank h)
  | pt k => exact congrArg (bit · k.1) hparts

@[simp] theorem noteOp_locks (s : State) (typ cluster unitId detail : Nat) : LocksKept s (noteOp s typ cluster unitId detail) := by
  simp [noteOp]

@[simp] theorem noteFence_locks (s : State) (cls unit cause : Nat) (set : Bool) (serves : List Pt) :
    LocksKept s (noteFence s cls unit cause set serves) := by
  unfold noteFence
  dsimp only
  split <;> simp

/-! ### Scratchpads and replay units -/

@[simp] theorem spadWord_unlocked (c : Cluster) (off : Nat) (bs : List PByte) : (spadWord c off bs).unlocked = c.unlocked := by
  unfold spadWord
  dsimp only
  (repeat' split) <;> rfl

@[simp] theorem spadWords_unlocked (n : Nat) (c : Cluster) (off : Nat) (bs : List PByte) :
    (spadWords n c off bs).unlocked = c.unlocked := by
  induction n generalizing c off bs with
  | zero => rfl
  | succ n ih =>
    unfold spadWords
    split
    · rfl
    · rw [ih, spadWord_unlocked]

@[simp] theorem spadWrite_unlocked (c : Cluster) (off : Nat) (bs : List PByte) (code : Bool) :
    (spadWrite c off bs code).unlocked = c.unlocked := by
  unfold spadWrite
  dsimp only
  split <;> simp

@[simp] theorem modUnit_frame (s : State) (k : Pt) (mark : W32) (f : ReplayUnit → ReplayUnit) : OutsideKept s (modUnit s k mark f) := by
  simp [modUnit]

@[simp] theorem endGo_locks (k : Pt) (idx : BitVec 16) (s : State) : LocksKept s (endGo k idx s) := by
  unfold endGo
  split <;> simp

@[simp] theorem revokeSends_locks (s : State) (k : Pt) (u : ReplayUnit) : LocksKept s (revokeSends s k u) := by
  simp [revokeSends]

@[simp] theorem restoreUnit_locks (s : State) (k : Pt) (u : ReplayUnit) : LocksKept s (restoreUnit s k u) := by
  simp [restoreUnit]

@[simp] theorem abandonJobs_locks (s : State) (k : Pt) (mark : W32) : LocksKept s (abandonJobs s k mark) := by
  simp [abandonJobs]

@[simp] theorem beginRoll_locks (s : State) (k : Pt) (mark : W32) : LocksKept s (beginRoll s k mark) := by
  simp only [beginRoll, LocksKept]
  refine ⟨rfl, rfl, lockBits_vmap _ _ _ fun c => ?_, rfl, rfl, rfl⟩
  split <;> rfl

@[simp] theorem setNonfinite_locks (s : State) (k : Pt) (cluster : Nat) (cause : Byte) : LocksKept s (setNonfinite s k cluster cause) := by
  unfold setNonfinite
  dsimp only
  (repeat' split) <;> simp

@[simp] theorem failUnit_locks (s : State) (k : Pt) (mark : W32) : LocksKept s (failUnit s k mark) := by
  unfold failUnit
  dsimp only
  split <;> simp

/-! ### Clusters -/

@[simp] theorem fenceCluster_locks (s : State) (c : Tc) (cause : Nat) : LocksKept s (fenceCluster s c cause) := by
  unfold fenceCluster
  dsimp only
  (repeat' split) <;> simp

@[simp] theorem unfenceCluster_locks (s : State) (c : Tc) : LocksKept s (unfenceCluster s c) := by
  unfold unfenceCluster
  split <;> simp

/-- What follows a command leaves the locks, whatever fences it sets. -/
@[simp] theorem settled_locks (s t : State) : LocksKept t (settled s t) := by
  have hf : LocksKept t (spadFences s t) := by
    unfold spadFences
    split
    · refine foldl_locks _ _ _ fun u c => ?_
      split <;> simp
    · exact .refl t
  refine hf.trans ?_
  simp [settled, settleFrom]

/-! ### Link ports -/

@[simp] theorem startRoute_locks (s : State) (k : Pt) (idx : BitVec 16) : LocksKept s (startRoute s k idx) := by
  unfold startRoute
  dsimp only
  (repeat' split) <;> simp

@[simp] theorem startNextRoute_locks (s : State) (k : Pt) (idx : BitVec 16) : LocksKept s (startNextRoute s k idx) := by
  unfold startNextRoute
  dsimp only
  (repeat' split) <;> simp

@[simp] theorem finishRoute_locks (s : State) (r : RouteRun) (st : Nat) : LocksKept s (finishRoute s r st) := by
  unfold finishRoute
  dsimp only
  (repeat' split) <;> simp

@[simp] theorem leavePort_locks (s : State) (p : Lp) (st : PortState) : LocksKept s (leavePort s p st) := by
  simp [leavePort]

@[simp] theorem fencePort_locks (s : State) (p : Lp) (cause : BitVec 3) (fenceCause : Nat) : LocksKept s (fencePort s p cause fenceCause) := by
  unfold fencePort
  split <;> simp

@[simp] theorem unfencePort_locks (s : State) (p : Lp) : LocksKept s (unfencePort s p) := by
  unfold unfencePort
  split <;> simp

/-! ### Presses -/

@[simp] theorem setProgress_locks (s : State) (p : Ps) (region grain : Nat) : LocksKept s (setProgress s p region grain) := by
  simp [setProgress]

@[simp] theorem unitDone_locks (s : State) (k : Pt) (u : Ps) : LocksKept s (unitDone s k u) := by
  simp [unitDone]

@[simp] theorem enterRegion_locks (s : State) (p : Ps) (r : PressRun) : LocksKept s (enterRegion s p r) := by
  unfold enterRegion
  (repeat' split) <;> simp

@[simp] theorem beginPass_locks (s : State) (p : Ps) (k : Pt) (pass : Nat) (u : Ps) : LocksKept s (beginPass s p k pass u) := by
  unfold beginPass
  dsimp only
  (repeat' split) <;> simp

@[simp] theorem startNext_locks (s : State) (p : Ps) : LocksKept s (startNext s p) := by
  unfold startNext
  dsimp only
  (repeat' split) <;> simp

@[simp] theorem startUnit_locks (s : State) (p : Ps) : LocksKept s (startUnit s p) := by
  have hl : ∀ n t, LocksKept t (startLoop p n t) := fun n => by
    induction n with
    | zero => exact .refl
    | succ n ih =>
      intro t
      unfold startLoop
      split
      · exact .refl t
      · exact (startNext_locks t p).trans (ih _)
  simp [startUnit, hl]

@[simp] theorem noteStop_locks (s : State) (p : Ps) : LocksKept s (noteStop s p) := by
  simp [noteStop]

@[simp] theorem fenceNow_locks (s : State) (p : Ps) (cause : Nat) : LocksKept s (fenceNow s p cause) := by
  simp [fenceNow]

@[simp] theorem tearUpdate_locks (s : State) (k : Pt) : LocksKept s (tearUpdate s k) := by
  unfold tearUpdate
  dsimp only
  split
  · exact .refl s
  · refine LocksKept.trans (LocksKept.trans ?_ (foldl_locks _ _ _ fun t p => ?_)) (foldl_locks _ _ _ startUnit_locks)
    · simp
    · split <;> simp

@[simp] theorem fencePress_locks (s : State) (p : Ps) (cause : Nat) : LocksKept s (fencePress s p cause) := by
  unfold fencePress cellarPressLost
  dsimp only
  (repeat' split) <;> simp

@[simp] theorem unfencePress_locks (s : State) (p : Ps) : LocksKept s (unfencePress s p) := by
  unfold unfencePress
  split <;> simp

/-! ## Writes to registers -/

/-- The locks of the partition blocks are four bits of the host port. -/
theorem bit_setBit_partLocks : ∀ (w : BitVec 4) (i j : Pt) (u : Bool), bit (setBit w i.1 u) j.1 = if j = i then u else bit w j.1 := by
  decide

theorem vmod_lock {α : Type} {n : Nat} (lock : α → Bool) (v : Vector α n) (i j : Fin n) (u : Bool) (f : α → α) (hf : ∀ x, lock (f x) = u) :
    lock (vmod v i f)[j] = if j = i then u else lock v[j] := by
  rw [vmod_get]
  by_cases h : i = j
  · rw [if_pos h, if_pos h.symm, hf]
  · rw [if_neg h, if_neg (Ne.symm h)]

/-- R661: the lock of one block is set, and no other changes. -/
theorem unlockedOf_setUnlocked (s : State) (b b' : Block) (u : Bool) :
    unlockedOf (setUnlocked s b u) b' = if b' = b then u else unlockedOf s b' := by
  cases b <;> cases b'
  case tc.tc c c' => exact (vmod_lock Cluster.unlocked s.clusters c c' u _ fun _ => rfl).trans (by simp [unlockedOf])
  case lp.lp p p' => exact (vmod_lock Port.unlocked s.ports p p' u _ fun _ => rfl).trans (by simp [unlockedOf])
  case mc.mc h h' => exact (vmod_lock Stack.unlocked s.hbs h h' u _ fun _ => rfl).trans (by simp [unlockedOf])
  case ps.ps h h' =>
    exact (vmod_lock Press.unlocked s.presses (hbBank h) (hbBank h') u _ fun _ => rfl).trans (by simp [unlockedOf, hbBank, Fin.ext_iff])
  case pt.pt k k' => simp [setUnlocked, unlockedOf, bit_setBit_partLocks]
  all_goals simp [setUnlocked, unlockedOf]

@[simp] theorem writeReserved_locks (s : State) (b : Block) (r : Nat) (w : RegWrite) : LocksKept s (writeReserved s b r w) := by
  unfold writeReserved
  dsimp only
  (repeat' split) <;> simp

@[simp] theorem writeQueue_locks (s : State) (fn : Fin 5) (q : QRef) (r : Nat) (w : RegWrite) : LocksKept s (writeQueue s fn q r w) := by
  unfold writeQueue
  dsimp only
  (repeat' split) <;> simp

@[simp] theorem writeEvent_locks (s : State) (w : RegWrite) : LocksKept s (writeEvent s w) := by
  simp [writeEvent]

@[simp] theorem writeClk_locks (s : State) (w : RegWrite) : LocksKept s (writeClk s w) := by
  unfold writeClk
  dsimp only
  split <;> simp

@[simp] theorem requestTest_locks (s : State) (tc : BitVec 16) (ld : BitVec 2) : LocksKept s (requestTest s tc ld).1 := by
  unfold requestTest
  dsimp only
  split <;> simp

@[simp] theorem writeScan_locks (s : State) (w : RegWrite) : LocksKept s (writeScan s w) := by
  unfold writeScan
  dsimp only
  split <;> simp

@[simp] theorem writeGlob_locks (s : State) (r : Nat) (w : RegWrite) : LocksKept s (writeGlob s r w) := by
  unfold writeGlob
  (repeat' split) <;> simp

@[simp] theorem writeCluster_locks (s : State) (c : Tc) (r : Nat) (w : RegWrite) : LocksKept s (writeCluster s c r w) := by
  unfold writeCluster
  dsimp only
  (repeat' split) <;> simp

@[simp] theorem writePort_locks (s : State) (p : Lp) (r : Nat) (w : RegWrite) : LocksKept s (writePort s p r w) := by
  unfold writePort
  dsimp only
  (repeat' split) <;> simp

@[simp] theorem writeStack_locks (s : State) (h : Hb) (r : Nat) (w : RegWrite) : LocksKept s (writeStack s h r w) := by
  unfold writeStack
  dsimp only
  (repeat' split) <;> simp

@[simp] theorem writePress_locks (s : State) (h : Hb) (r : Nat) (w : RegWrite) : LocksKept s (writePress s h r w) := by
  unfold writePress
  dsimp only
  (repeat' split) <;> simp

@[simp] theorem writeStepSize_locks (s : State) (k : Pt) (w : RegWrite) : LocksKept s (writeStepSize s k w) := by
  unfold writeStepSize
  dsimp only
  (repeat' split) <;> simp [setEta, State.modStep, etaRefused]

@[simp] theorem writePartEvent_locks (s : State) (k : Pt) (w : RegWrite) : LocksKept s (writePartEvent s k w) := by
  simp [writePartEvent]

@[simp] theorem writePartBlock_locks (s : State) (fn : Fin 5) (k : Pt) (r : Nat) (w : RegWrite) : LocksKept s (writePartBlock s fn k r w) := by
  unfold writePartBlock
  dsimp only
  (repeat' split) <;> simp

/-- A write to a register other than LOCK_KEY leaves every lock, whatever it does. -/
theorem writeReg_locks (s : State) (fn : Fin 5) (b : Block) (r : Nat) (w : RegWrite) : LocksKept s (writeReg s fn b r w) := by
  refine (writeReserved_locks s b r w).trans ?_
  cases b <;> simp [writeReg]

/-! ## The guard (R660–R662) -/

theorem guarded_ne_lockKey {b : Block} {r : Nat} (h : guarded b r = true) : r ≠ 0xFFF8 := by
  rintro rfl
  cases b <;> simp [guarded] at h

theorem guarded_lt {b : Block} {r : Nat} (h : guarded b r = true) : r < 2 ^ 32 := by
  cases b <;> simp [guarded] at h <;> omega

theorem writeBlock_unlocked {s : State} {b : Block} {r : Nat} (fn : Fin 5) (w : RegWrite) (ht : blockThere s b = true)
    (hr : guarded b r = true) (hu : unlockedOf s b = true) :
    writeBlock s fn b r w = writeReg (setUnlocked s b false) fn b r w := by
  simp [writeBlock, ht, hr, hu, guarded_ne_lockKey hr]

theorem writeBlock_locked {s : State} {b : Block} {r : Nat} (fn : Fin 5) (w : RegWrite) (ht : blockThere s b = true)
    (hr : guarded b r = true) (hu : unlockedOf s b = false) :
    writeBlock s fn b r w = noteOp s 0x44 (blockCode b).1 (blockCode b).2 r := by
  simp [writeBlock, ht, hr, hu, guarded_ne_lockKey hr]

theorem writeBlock_unguarded {s : State} {b : Block} {r : Nat} (fn : Fin 5) (w : RegWrite) (ht : blockThere s b = true)
    (hr : guarded b r = false) (hk : r ≠ 0xFFF8) : writeBlock s fn b r w = writeReg s fn b r w := by
  simp [writeBlock, ht, hr, hk]

/-- A host write to a register reaches its block through the guard. -/
theorem exec_registerWrite {s : State} {a : Mmio} {b : Block} {view : Fin 4} {r : Nat} (h : HostWrites s a b view r) :
    exec (.registerWrite a) s = .next (settled s (writeBlock s a.fn b r { regWrite a 0 with view := view })) := by
  obtain ⟨hup, hlen, hoff, _, _, hplace, hr⟩ := h
  have hr8 : r / 8 * 8 = r := by omega
  have hok : accessOk a.off a.len = true := by simp [accessOk, hlen, hoff]
  have hx : exec (.registerWrite a) s = execRegisterWrite a s := rfl
  simp [hx, execRegisterWrite, writeWhere, mmioPlace, hostWrite, hup, hok, hplace, hr8]

/-- R661: a write to a guarded register leaves its block locked, whether the guard let it through or refused it. -/
theorem writeBlock_guarded_locks (s : State) (fn : Fin 5) (b : Block) (r : Nat) (w : RegWrite) (ht : blockThere s b = true)
    (hr : guarded b r = true) (b' : Block) :
    unlockedOf (writeBlock s fn b r w) b' = if b' = b then false else unlockedOf s b' := by
  cases hu : unlockedOf s b with
  | true => rw [writeBlock_unlocked fn w ht hr hu, (writeReg_locks _ fn b r w).unlockedOf_eq, unlockedOf_setUnlocked]
  | false =>
    rw [writeBlock_locked fn w ht hr hu, (noteOp_locks ..).unlockedOf_eq]
    split
    next hb => rw [hb, hu]
    next => rfl

/-! ## A refused write (R662) -/

/-- What a guarded register reads as rests on nothing that completions, streams and events change. -/
theorem readReg_guarded_eq {s t : State} (hg : GuardsKept s t) (ho : OutsideKept s t) (hs : still t = still s) (fn : Fin 5) {b : Block}
    {r : Nat} (hr : guarded b r = true) : readReg t fn b r = readReg s fn b r := by
  obtain ⟨-, -, hnew, hfreq, hfix, havs, htc, hld, -, -⟩ := hg
  obtain ⟨-, hfull, -, -, -, -, -, hpresses, hhbs, -, hports, -, -, -, -, -, -, htest, -⟩ := ho
  cases b with
  | glob =>
    have hrs : r = 0x100 ∨ r = 0x108 := by simpa [guarded] using hr
    rcases hrs with rfl | rfl <;>
      simp [readReg, blockThere, readReserved, reservedOf, readGlob, clkWord, hnew, hfreq, hfix, havs, htc, hld, htest]
  | tc c =>
    have hc := still_cluster hs c
    simp only [Prod.mk.injEq] at hc
    obtain ⟨⟨-, hfenced, hfrozen⟩, -⟩ := hc
    simp only [Fin.getElem_fin] at hfenced hfrozen
    have hrs : r = 0x8 ∨ r = 0x10 := by simpa [guarded] using hr
    rcases hrs with rfl | rfl <;>
      simp [readReg, blockThere, tcPresent, readReserved, reservedOf, readCluster, hfull, hfenced, hfrozen]
  | lp p =>
    have hrs : r = 0x8 ∨ r = 0x10 := by simpa [guarded] using hr
    rcases hrs with rfl | rfl <;>
      simp [readReg, blockThere, lpPresent, readReserved, reservedOf, reservedWords, addrHidden, readLpReg, hfull, hports]
  | mc h =>
    have hrs : r = 0x10 := by simpa [guarded] using hr
    subst hrs
    simp [readReg, blockThere, hbPresent, readReserved, reservedOf, reservedWords, addrHidden, readStack, hfull, hhbs]
  | ps h =>
    have hrs : r = 0x10 := by simpa [guarded] using hr
    subst hrs
    simp [readReg, blockThere, hbPresent, readReserved, reservedOf, readPsReg, hfull, hpresses]
  | pt k => simp [guarded] at hr

theorem raiseGlb_clusters (s : State) (b : Nat) : (raiseGlb s b).clusters = s.clusters := by
  unfold raiseGlb msixSend msixSet
  dsimp only
  (repeat' split) <;> rfl

theorem Log.mem_append_recs (l : Log) (cap : Nat) (r : LogRec) : r ∈ (l.append cap r).recs := by
  unfold Log.append
  split <;> simp

/-- The operator's record of typ 0x44: the write to register r of block b was refused (R712). -/
def guardRefused (s : State) (b : Block) (r : Nat) : LogRec :=
  { typ := 0x44, part := 0xFF, cluster := BitVec.ofNat 8 (blockCode b).1, unitId := BitVec.ofNat 16 (blockCode b).2,
    tick := s.meridian.tick, detail := BitVec.ofNat 32 r }

/-- s with the record in the operator's log. -/
def refusedWrite (s : State) (b : Block) (r : Nat) : State := { s with log := s.log.append 16384 (guardRefused s b r) }

theorem noteOp_guardRefused (s : State) (b : Block) (r : Nat) :
    noteOp s 0x44 (blockCode b).1 (blockCode b).2 r = raiseGlb (refusedWrite s b r) 0 := rfl

theorem blockCode_lt (b : Block) : (blockCode b).1 < 2 ^ 8 ∧ (blockCode b).2 < 2 ^ 16 := by
  cases b <;> simp only [blockCode] <;> omega

/-- After a refused write the module is as the record leaves it, but for events, completions and streams. -/
theorem settled_refused_kept (s : State) (b : Block) (r : Nat) :
    GuardsKept (refusedWrite s b r) (settled s (raiseGlb (refusedWrite s b r) 0)) ∧
    OutsideKept (refusedWrite s b r) (settled s (raiseGlb (refusedWrite s b r) 0)) ∧
    still (settled s (raiseGlb (refusedWrite s b r) 0)) = still (refusedWrite s b r) := by
  have hue : ∀ c : Tc, (raiseGlb (refusedWrite s b r) 0).clusters[c].ueTicks = s.clusters[c].ueTicks := fun c => by
    rw [raiseGlb_clusters]; rfl
  exact ⟨(raiseGlb_guards _ _).trans (settled_guards s _ hue), (raiseGlb_frame _ _).trans (settled_frame s _ hue),
    (settled_still s _ hue).trans (raiseGlb_still _ _)⟩

/-! ## O56 -/

/-- R662 for a locked block: the registers read as before, the memories stay, and the record is in the log. -/
theorem refused_registerWrite {s t : State} {b : Block} {r : Nat} (hr : guarded b r = true)
    (hg : GuardsKept (refusedWrite s b r) t) (ho : OutsideKept (refusedWrite s b r) t) (hs : still t = still (refusedWrite s b r)) :
    (∀ fn b' r', guarded b' r' = true → readReg t fn b' r' = readReg s fn b' r') ∧ MemoriesKept s t ∧
    ∃ x ∈ t.log.recs, x.typ = 0x44 ∧ x.cluster.toNat = (blockCode b).1 ∧ x.unitId.toNat = (blockCode b).2 ∧ x.detail.toNat = r ∧
      x.tick = s.meridian.tick := by
  refine ⟨fun fn b' r' hr' => readReg_guarded_eq hg ho hs fn hr', ⟨fun c => ?_, ?_, ?_⟩, guardRefused s b r, ?_, rfl, ?_, ?_, ?_, rfl⟩
  · have hc := still_cluster hs c
    simp only [Prod.mk.injEq] at hc
    exact hc.2.1.1
  · obtain ⟨-, -, -, -, -, -, -, -, hhbs, -⟩ := ho
    exact hhbs
  · obtain ⟨-, -, -, -, -, -, -, -, -, hcellar, -⟩ := ho
    exact hcellar
  · obtain ⟨-, -, -, -, -, -, -, -, hlog, -⟩ := hg
    rw [hlog]
    exact Log.mem_append_recs _ _ _
  · exact Nat.mod_eq_of_lt (blockCode_lt b).1
  · exact Nat.mod_eq_of_lt (blockCode_lt b).2
  · exact Nat.mod_eq_of_lt (guarded_lt hr)

/-- Settles O56: the lock falls with the guard, before the write, and nothing that a register write sets off touches a lock; a refused
write leaves its record, and what follows in its clock moves neither the record nor what the guarded registers read as. -/
theorem guardedRegisters : Obligations.GuardedRegisters := by
  unfold Obligations.GuardedRegisters
  refine ⟨fun s a b view r ⟨hw, hr⟩ => ⟨_, exec_registerWrite hw, ?_⟩,
    fun s a b view r ⟨hw, hr, hu⟩ => ⟨_, exec_registerWrite hw, ?_⟩,
    fun s a b view r ⟨hw, hr, hk⟩ => ⟨_, exec_registerWrite hw, fun b' => ?_⟩⟩
  all_goals obtain ⟨-, -, -, -, ht, -⟩ := hw
  · have hl := fun b' => ((settled_locks s _).unlockedOf_eq b').trans
      (writeBlock_guarded_locks s a.fn b r { regWrite a 0 with view := view } ht hr b')
    exact ⟨(hl b).trans (if_pos rfl), fun b' hb => (hl b').trans (if_neg hb)⟩
  · rw [writeBlock_locked _ _ ht hr hu, noteOp_guardRefused]
    obtain ⟨hg, ho, hs⟩ := settled_refused_kept s b r
    obtain ⟨hread, hmem, hlog⟩ := refused_registerWrite hr hg ho hs
    exact ⟨hread a.fn, hmem, hlog⟩
  · rw [(settled_locks s _).unlockedOf_eq, writeBlock_unguarded _ _ ht hr hk, (writeReg_locks ..).unlockedOf_eq]

end Sys2Proof.Machine
end
